-- ==== Sys2Proof/Word.lean ====
section
/-! DEFINITION. The word types of the part (00_scope.md, "Units of measure"): an engine word is 20 bits,
a register is 32 bits, a byte is 8 bits, a chip address is 48 bits. -/

namespace Sys2Proof

/-- An engine word, 20 bits. -/
abbrev Word := BitVec 20

/-- A control-space register, 32 bits (bits [31:20] are reserved in most). -/
abbrev Dword := BitVec 32

abbrev Byte := BitVec 8

/-- A chip byte address (R307). -/
abbrev Addr := BitVec 48

end Sys2Proof
end

