-- ==== Sys2Proof/Syntax.lean ====
section
/-! DEFINITION. The commands of the block: `Instr` has one constructor per row of spec/opcode_table.json, in the
table's order. The operands are what the rules of the row let vary: the master that writes, the unit's number, the
written value, the fields of an engine instruction (the fields that R131 marks zero among them, since R132 gives
a meaning to their other values), and what the outside world supplies (a pad level, a frame, a reply). -/

namespace Sys2Proof

/-- Who makes an access (R12, R60, R385). `engine e level` carries the level at issue (R128). -/
inductive Master where
  | host
  | sideband
  | tollhouse
  | engine (e : Fin 128) (level : BitVec 2)
  | barge (n : Fin 16)
  | bayDma (c : Fin 64)
  | lineTable (h : Fin 6)
deriving DecidableEq, Repr

/-- A bay of the hierarchy (R14), by level. -/
inductive Bay where
  | engine (e : Fin 128)
  | quad (q : Fin 32)
  | hall (h : Fin 8)
  | chip
  | spanBay
  | spanGroup
deriving DecidableEq, Repr

/-- A RAM made of granules (R115). -/
inductive RamRef where
  | engineLocal (e : Fin 128)
  | quadShared (q : Fin 32)
deriving DecidableEq, Repr

/-- How a read or a write response comes back over the fabric or a link (R129, R317, R331). -/
inductive Reply where
  | ok
  | error
  | poison
deriving DecidableEq, Repr

/-- What a transfer on the fabric met: nothing, a corrected error, an error that makes its data poison (R318). -/
inductive Fabric where
  | clean
  | corrected
  | poison
deriving DecidableEq, Repr

/-- A sink's answer to an AUX transaction (R240). -/
inductive AuxReply where
  | ack (data : List Byte)
  | nak
  | defer
  | i2cNak
  | i2cDefer
deriving DecidableEq, Repr

/-- A unit whose DRAM or host request is outstanding (R311, R379). -/
inductive Requester where
  | head (h : Fin 6)
  | video (h : Fin 6) (layer : Fin 4)
  | barge (n : Fin 16)
  | bayDma (c : Fin 64)
  | planer
  | tally (k : Fin 32)
  | scrub (m : Fin 4)
  | voice (v : Fin 256)
  | window (e : Fin 128)
  | host
  | sideband
  | tollhouse
deriving DecidableEq, Repr

/-- The fields a received sync frame carries (R422, R423). -/
structure SyncFrame where
  hello : Bool
  nak : Bool
  fromRoot : Bool
  sender : Fin 16
  seq : BitVec 8
  ack : BitVec 8
  time : BitVec 40
  lap : BitVec 20
  admitted : BitVec 16
  root : Fin 16
  rootEn : Bool
  hops : BitVec 8
  tiView : BitVec 16
  waiting : BitVec 12
  dOver8 : BitVec 16
  delayToRoot : BitVec 32
  digest : BitVec 512
deriving DecidableEq, Repr

/-- What the input posts bring in one sample frame: a word for each slot of an I2S input port (slot `i % 8` of port
`i / 8`, R250), and the 64 bits of each PDM stream, oldest bit 0 (R265). -/
structure AudioInputs where
  slots : List (Fin 128 × Dword)
  pdm : List (Fin 16 × BitVec 64)
deriving DecidableEq, Repr

/-- One command of the block. -/
inductive Instr where
  -- registers, bays, timelines, landings, edge queues, ferry channels
  | registerWrite (m : Master) (off : Nat) (v : Dword) (be : BitVec 4)
  | doorbell (m : Master) (bay : Bay) (ti : BitVec 3)
  | faultOwnClear (m : Master) (bay : Bay) (v : Dword)
  | encoderEdge (k : Fin 32) (a b : Bool)
  | indexQualify (k : Fin 32) (edge : Option (Bool × Bool))
  | mainsEdge (k : Fin 32) (rising : Bool)
  | mainsPhaseAdvance (k : Fin 32)
  | mainsHoldover (k : Fin 32)
  | set0 (m : Master) (k : Fin 32) (v : Dword)
  | slew (m : Master) (k : Fin 32) (v : Dword)
  | snap (m : Master) (mask : Dword)
  | pos0Read (m : Master) (k : Fin 32)
  | cmp0Write (m : Master) (n : Fin 512) (v : Dword)
  | int0Write (m : Master) (n : Fin 512) (v : Dword)
  | landingCtrlWrite (m : Master) (n : Fin 512) (v : Dword)
  | edge0 (m : Master) (n : Fin 1024) (v : Dword)
  | edge1 (m : Master) (n : Fin 1024) (v : Dword)
  | edgeZ (m : Master) (n : Fin 1024) (v : Dword)
  | flush (m : Master) (n : Fin 1024) (v : Dword)
  | captureEdge (n : Fin 1024) (level : Bool)
  | cap0Read (m : Master) (n : Fin 1024)
  | fire (m : Master) (c : Fin 256) (v : Dword)
  | takeRead (m : Master) (e : Fin 128) (k : Fin 8)
  -- engine instructions (R131, R143)
  | add (e : Fin 128) (rd ra rb : BitVec 4) (x : BitVec 2)
  | sub (e : Fin 128) (rd ra rb : BitVec 4) (x : BitVec 2)
  | adds (e : Fin 128) (rd ra rb : BitVec 4) (x : BitVec 2)
  | subs (e : Fin 128) (rd ra rb : BitVec 4) (x : BitVec 2)
  | and (e : Fin 128) (rd ra rb : BitVec 4) (x : BitVec 2)
  | or (e : Fin 128) (rd ra rb : BitVec 4) (x : BitVec 2)
  | xor (e : Fin 128) (rd ra rb : BitVec 4) (x : BitVec 2)
  | shl (e : Fin 128) (rd ra rb : BitVec 4) (x : BitVec 2)
  | shr (e : Fin 128) (rd ra rb : BitVec 4) (x : BitVec 2)
  | sra (e : Fin 128) (rd ra rb : BitVec 4) (x : BitVec 2)
  | seq (e : Fin 128) (rd ra rb : BitVec 4) (x : BitVec 2)
  | sne (e : Fin 128) (rd ra rb : BitVec 4) (x : BitVec 2)
  | slt (e : Fin 128) (rd ra rb : BitVec 4) (x : BitVec 2)
  | sltu (e : Fin 128) (rd ra rb : BitVec 4) (x : BitVec 2)
  | mul (e : Fin 128) (rd ra rb : BitVec 4) (x : BitVec 2)
  | mac (e : Fin 128) (rd ra rb : BitVec 4) (x : BitVec 2)
  | addi (e : Fin 128) (rd ra : BitVec 4) (imm : BitVec 6)
  | andi (e : Fin 128) (rd ra : BitVec 4) (imm : BitVec 6)
  | ori (e : Fin 128) (rd ra : BitVec 4) (imm : BitVec 6)
  | xori (e : Fin 128) (rd ra : BitVec 4) (imm : BitVec 6)
  | shli (e : Fin 128) (rd ra : BitVec 4) (imm : BitVec 6)
  | shri (e : Fin 128) (rd ra : BitVec 4) (imm : BitVec 6)
  | srai (e : Fin 128) (rd ra : BitVec 4) (imm : BitVec 6)
  | seqi (e : Fin 128) (rd ra : BitVec 4) (imm : BitVec 6)
  | slti (e : Fin 128) (rd ra : BitVec 4) (imm : BitVec 6)
  | sltui (e : Fin 128) (rd ra : BitVec 4) (imm : BitVec 6)
  | sat (e : Fin 128) (rd ra : BitVec 4) (imm : BitVec 6)
  | addl (e : Fin 128) (rd ra : BitVec 4) (x6 : BitVec 6) (imm : Word)
  | andl (e : Fin 128) (rd ra : BitVec 4) (x6 : BitVec 6) (imm : Word)
  | orl (e : Fin 128) (rd ra : BitVec 4) (x6 : BitVec 6) (imm : Word)
  | xorl (e : Fin 128) (rd ra : BitVec 4) (x6 : BitVec 6) (imm : Word)
  | seql (e : Fin 128) (rd ra : BitVec 4) (x6 : BitVec 6) (imm : Word)
  | sltl (e : Fin 128) (rd ra : BitVec 4) (x6 : BitVec 6) (imm : Word)
  | sltul (e : Fin 128) (rd ra : BitVec 4) (x6 : BitVec 6) (imm : Word)
  | ld (e : Fin 128) (rd ra : BitVec 4) (imm : BitVec 6)
  | st (e : Fin 128) (rs ra : BitVec 4) (imm : BitVec 6)
  | ldl (e : Fin 128) (rd ra : BitVec 4) (x6 : BitVec 6) (imm : Word)
  | stl (e : Fin 128) (rs ra : BitVec 4) (x6 : BitVec 6) (imm : Word)
  | ldt (e : Fin 128) (rd ra : BitVec 4) (imm : BitVec 6)
  | stt (e : Fin 128) (rs ra : BitVec 4) (imm : BitVec 6)
  | lck (e : Fin 128) (rd ra : BitVec 4) (imm : BitVec 6)
  | ulk (e : Fin 128) (rdz ra : BitVec 4) (imm : BitVec 6)
  | tagr (e : Fin 128) (rd ra : BitVec 4) (imm : BitVec 6)
  | tagw (e : Fin 128) (rs ra : BitVec 4) (imm : BitVec 6)
  | bz (e : Fin 128) (ra : BitVec 4) (off : BitVec 10)
  | bnz (e : Fin 128) (ra : BitVec 4) (off : BitVec 10)
  | bzl (e : Fin 128) (ra : BitVec 4) (z : BitVec 10) (off : Word)
  | bnzl (e : Fin 128) (ra : BitVec 4) (z : BitVec 10) (off : Word)
  | j (e : Fin 128) (z : BitVec 14) (target : Word)
  | jal (e : Fin 128) (z : BitVec 14) (target : Word)
  | jr (e : Fin 128) (rdz ra rbz : BitVec 4) (x : BitVec 2)
  | jalr (e : Fin 128) (rdz ra rbz : BitVec 4) (x : BitVec 2)
  | loop (e : Fin 128) (z4 ra : BitVec 4) (z6 : BitVec 6) (endAddr : Word)
  | loopi (e : Fin 128) (count : BitVec 14) (endAddr : Word)
  | wait (e : Fin 128) (rd : BitVec 4) (mask : BitVec 8) (z : BitVec 2)
  | waitWake (e : Fin 128)
  | trap (e : Fin 128) (n : BitVec 8)
  | rete (e : Fin 128) (z : BitVec 8)
  | drop (e : Fin 128) (z : BitVec 6) (level : BitVec 2)
  | fence (e : Fin 128) (z : BitVec 8)
  | brk (e : Fin 128) (z : BitVec 8)
  | mfs (e : Fin 128) (rd sr : BitVec 4)
  | mts (e : Fin 128) (sr ra : BitVec 4)
  | windowLoadResponse (e : Fin 128) (fabric : Fabric)
  | postedStoreAck (e : Fin 128) (fabric : Fabric)
  | outsideAccess (m : Master) (a : Addr) (wr : Option Dword)
  | ramWriteBack (r : RamRef) (granule : Nat)
  | interruptTake (e : Fin 128)
  | watchdogFirstStage (e : Fin 128)
  | watchdogEntry (e : Fin 128)
  | watchdogSecondStage (e : Fin 128)
  | wdogKick (m : Master) (e : Fin 128) (v : Dword)
  | debugHaltRequest (m : Master) (e : Fin 128) (v : Dword)
  | debugHaltEntry (e : Fin 128)
  | step (m : Master) (e : Fin 128) (v : Dword)
  | debugResume (m : Master) (e : Fin 128) (v : Dword)
  -- the Joiner, sprites and line programs
  | composeStart (h : Fin 6)
  | lineTableWrite (h : Fin 6) (idx : BitVec 14) (v : Dword)
  | lineTableWait (h : Fin 6) (idx : BitVec 14)
  | lineTablePal (h : Fin 6) (idx : BitVec 14) (v : Dword)
  | lineTableEnd (h : Fin 6) (op : BitVec 4)
  | composeFinish (h : Fin 6)
  | patternCacheFill (h : Fin 6) (a : Addr)
  | videoSourceRead (h : Fin 6) (layer : Fin 4) (row : Nat) (data : List Byte) (r : Reply)
  | coefDataWrite (m : Master) (h : Fin 6) (layer : Fin 4) (v : Dword)
  | tpLoWrite (e : Fin 128) (v : Word)
  | tpLoRead (e : Fin 128)
  | oddWordWrite (e : Fin 128) (a : Word) (v : Word)
  | evenWordWrite (e : Fin 128) (a : Word) (v : Word)
  -- heads
  | headStart (m : Master) (h : Fin 6) (v : Dword)
  | headStop (m : Master) (h : Fin 6) (v : Dword)
  | pclkLock (h : Fin 6)
  | beamPlacement (h : Fin 6)
  | beamAdvance (h : Fin 6) (px : Fin 3)
  | syncMark (h : Fin 6)
  | syncHoldover (h : Fin 6)
  | dpTrain (m : Master) (h : Fin 6) (v : Dword)
  | trainingEnd (h : Fin 6) (ok : Bool) (rate : BitVec 4) (lanes : BitVec 2)
  | plug (h : Fin 6)
  | unplug (h : Fin 6)
  | irqHpd (h : Fin 6) (linkLost : Bool)
  | auxNativeRead (m : Master) (h : Fin 6) (addr : Word) (len : BitVec 4)
  | auxNativeWrite (m : Master) (h : Fin 6) (addr : Word) (len : BitVec 4)
  | auxI2cRead (m : Master) (h : Fin 6) (addr : Word) (len : BitVec 4)
  | auxI2cWrite (m : Master) (h : Fin 6) (addr : Word) (len : BitVec 4)
  | auxI2cReadMot (m : Master) (h : Fin 6) (addr : Word) (len : BitVec 4)
  | auxI2cWriteMot (m : Master) (h : Fin 6) (addr : Word) (len : BitVec 4)
  | auxReply (h : Fin 6) (r : AuxReply)
  | auxTimeout (h : Fin 6)
  -- audio
  | sampleBoundary (inputs : AudioInputs) (late : List (Fin 512))
  | keyOn (m : Master) (v : Fin 512)
  | keyOff (m : Master) (v : Fin 512)
  | cut (m : Master) (v : Fin 512)
  -- posts
  | pcfgWrite (m : Master) (n : Fin 1024) (v : Dword)
  | outSet (m : Master) (p : Fin 32) (v : Dword)
  | outClr (m : Master) (p : Fin 32) (v : Dword)
  | oeSet (m : Master) (p : Fin 32) (v : Dword)
  | oeClr (m : Master) (p : Fin 32) (v : Dword)
  | bankSupplyChange (p : Fin 32) (present v33 : Bool)
  | peg (m : Master) (n : Fin 1024) (v : Dword)
  | serTxPush (m : Master) (p : Fin 32) (v : Dword)
  | serRxRead (m : Master) (p : Fin 32)
  | serModeWrite (m : Master) (p : Fin 32) (v : Dword)
  | byteSent (p : Fin 32) (received : Byte) (nacked arbLost : Bool)
  | byteReceived (p : Fin 32) (b : Byte) (perr ferr : Bool)
  | pinLineCondition (k : Fin 32) (level : Bool)
  -- tally units
  | tallyGapExpiry (k : Fin 32)
  | tallyRingWriteDone (k : Fin 32) (r : Reply)
  | result0Read (m : Master) (k : Fin 32)
  -- memory and movers
  | dramTrainingDone (ch : Fin 4) (ok : Bool) (cap : BitVec 8)
  | patrolScrub (ch : Fin 4)
  | dramWriteBack (a : Addr)
  | requestAgeing (r : Requester)
  | bayDmaGo (m : Master) (c : Fin 64) (v : Dword)
  | bayDmaAbort (m : Master) (c : Fin 64) (v : Dword)
  | bayDmaRunStart (c : Fin 64)
  | bayDmaComplete (c : Fin 64)
  | bargeArm (m : Master) (n : Fin 16) (v : Dword)
  | bargeAbort (m : Master) (n : Fin 16) (v : Dword)
  | shadowLoad (n : Fin 16)
  | bargeTransferStart (n : Fin 16)
  | bargeTransferComplete (n : Fin 16) (hostData : List Byte) (hostReply : Reply)
  | copy (m : Master) (v : Dword)
  | fill (m : Master) (v : Dword)
  | colourKeyedCopy (m : Master) (v : Dword)
  | solidRectangle (m : Master) (v : Dword)
  | line (m : Master) (v : Dword)
  | planerAbort (m : Master) (v : Dword)
  -- interrupt controller
  | eEoi (m : Master) (e : Fin 128)
  | vClaimRead (m : Master) (v : Fin 64)
  | vEoi (m : Master) (v : Fin 64)
  | msiXMessage (v : Fin 64)
  | swSet (m : Master) (v : Dword)
  | holdOffExpiry (g : Fin 64)
  -- raise groups
  | stagedWrite (m : Master) (off : Nat) (v : Dword)
  | raiseArm (m : Master) (g : Fin 16) (v : Dword)
  | raiseAbort (m : Master) (g : Fin 16) (v : Dword)
  | raiseEnable (m : Master) (g : Fin 16) (v : Dword)
  | apply (g : Fin 16) (slots : BitVec 8)
  -- host link and side-band
  | bar2Read (off : BitVec 30) (dwords : Nat)
  | bar2Write (off : BitVec 30) (data : List Byte) (ep : Bool)
  | linkUp (speed width : BitVec 3)
  | completionTimeout (r : Requester)
  | read (seqNo : BitVec 7) (off : Nat) (n : Byte)
  | write (seqNo : BitVec 7) (off : Nat) (data : List Dword)
  | log (seqNo : BitVec 7) (first : BitVec 16) (n : Byte)
  | powerStatus (seqNo : BitVec 7)
  | mainOn (seqNo : BitVec 7)
  | mainOff (seqNo : BitVec 7)
  | mainReset (seqNo : BitVec 7)
  | powerQuadReset (seqNo : BitVec 7) (q : Byte)
  | fenceCommand (seqNo : BitVec 7) (v : Byte)
  | ident (seqNo : BitVec 7)
  -- Tollhouse
  | boot (m : Master) (b : Fin 2)
  | extend (m : Master) (b : Fin 2)
  | rbCommit (m : Master) (b : Fin 2)
  | setRtc (m : Master) (b : Fin 2)
  | witness (m : Master) (b : Fin 2)
  | provision (m : Master) (b : Fin 2)
  | deploy (m : Master) (b : Fin 2)
  | retire (m : Master) (b : Fin 2)
  | keyAdd (m : Master) (b : Fin 2)
  | keyRevoke (m : Master) (b : Fin 2)
  | debugOpen (m : Master) (b : Fin 2)
  | zeroise (m : Master) (b : Fin 2)
  | rekey (m : Master) (b : Fin 2)
  | thPushBase0Write (m : Master) (v : Dword)
  | thPush (m : Master) (v : Dword)
  | thRngRead (m : Master)
  | thRtc0Read (m : Master)
  | doorChange (d : Fin 8) (level : Bool)
  | sensorAsserted (n : Fin 14) (raw : Dword)
  | alarmClear (m : Master) (v : Dword)
  | monitorRefresh (tj vcore vsram vaon vbat : BitVec 12)
  -- span
  | spanLinkTrained (p : Fin 4) (hello : SyncFrame)
  | spanLinkLoss (p : Fin 4)
  | syncFrame (p : Fin 4) (f : SyncFrame)
  | eventFrame (p : Fin 4) (origin : Fin 16) (applyTime : BitVec 40) (masks : List (BitVec 64))
  | doorbellFrame (p : Fin 4) (origin : Fin 16) (ti : BitVec 3) (level6 : Bool) (spanBay : BitVec 2)
  | timelineProbe (p : Fin 4) (probe : BitVec 40) (turnaround : BitVec 24)
  | echo (p : Fin 4) (probe : BitVec 40) (turnaround : BitVec 24)
  | voteReq (p : Fin 4) (origin : Fin 16) (g : Fin 16)
  | votePrepare (p : Fin 4) (g : Fin 16)
  | voteAck (p : Fin 4) (member : Fin 16) (g : Fin 16) (next : Word)
  | voteCommit (p : Fin 4) (g : Fin 16) (n : Word) (tArm : BitVec 40)
  | spanArm (g : Fin 16)
  | memoryWriteFrame (p : Fin 4) (origin dest : Fin 16) (tag : BitVec 4) (a : Addr) (data : List Byte)
  | readRequestFrame (p : Fin 4) (origin dest : Fin 16) (tag : BitVec 4) (a : Addr) (len : Byte)
  | readDataFrame (p : Fin 4) (origin dest : Fin 16) (tag : BitVec 4) (a : Addr) (data : List Byte)
  | remoteCopy (m : Master) (v : Dword)
  | remoteCopyAbort (m : Master) (v : Dword)
  -- power and reset
  | alwaysOnPowerOn (up : Bool) (bootSel sbAddr : BitVec 2)
  | mainResetRelease (spanId : BitVec 4)
  | qrst (m : Master) (v : Dword)
  | quadResetRelease (q : Fin 32)
  | engGo (m : Master) (v : Dword)
  | handOver (m : Master) (v : Dword)
  | commandCompleted (b : Fin 2)
  | sensorDeasserted (n : Fin 14)
  | rcRead (m : Master) (off : Nat)
  | evenWordRead (e : Fin 128) (a : Word)
  | ctsChange (p : Fin 32) (level : Bool)
  -- the rest of these families: the last constructors, as Lean compiles no more than 245 with arguments
  | setEndpointId (eid : Byte)
  | negotiateAlgorithms (ed25519 sha512 measSha512 dmtf : Bool)
  | getCertificate (slot : Byte) (off len : Nat)
  | challenge (slot : Byte) (nonce : BitVec 256)
  | getMeasurements (index : Byte) (signed : Bool) (nonce : BitVec 256)
  | trngHealthFailure (test : Byte)
  | voteNak (p : Fin 4) (member : Fin 16) (g : Fin 16)
  | voteAbort (p : Fin 4) (g : Fin 16)
  | voteTimeout (g : Fin 16)
  | voteAbandon (g : Fin 16)
  | writeAckFrame (p : Fin 4) (origin dest : Fin 16) (tag : BitVec 4) (a : Addr)
  | errorFrame (p : Fin 4) (origin dest : Fin 16) (tag : BitVec 4) (a : Addr)
  | frameCrcError (p : Fin 4)
  -- commands without operands
  | referenceAdvance
  | trimmedAdvance
  | planerComplete
  | linkDown
  | getEndpointId
  | getMctpVersionSupport
  | getMessageTypeSupport
  | getVendorMessageSupport
  | getVersion
  | getCapabilities
  | getDigests
  | syncInterval
  | probeSend
  | spanEventApply
  | remoteCopyComplete
  | mainPowerUp
  | pgTimeout
  | pgLoss
  | perst
  | bannerRefresh
  | rtcAdvance
  | vbatLoss
  | perstRelease
deriving DecidableEq, Repr

end Sys2Proof
end

