-- ==== Sys2Proof/Decode.lean ====
section
/-! DEFINITION. The words that the command table spells. No row of spec/opcode_table.json gives bits, so no word
spells a command (the encodings of engine instructions, R131, are fields of the commands themselves). -/

namespace Sys2Proof

/-- The command whose bits, by the table, are `w`: none, since no row of the table has bits. -/
def decodeTableWord (_nbits _w : Nat) : Option Instr := none

end Sys2Proof
end

