-- ==== Sys2Proof/Machine/RegMap.lean ====
section
/-! DEFINITION. The register map of control space as data (R375 and the register table of each chapter): for
every register its offset, its fields with their bits, access code (R6), effect class (R10) and reset value (R9);
for every block its authority (R12, R385) and its reset domain (R9, R448). `Adr.*` and `Fd.*` name the offset of
every register and the place of every field. -/

namespace Sys2Proof.Machine

/-- The access codes of R6. -/
inductive Acc where
  | rw | ro | wo | w1c | rc
deriving DecidableEq, Repr

/-- The effect classes of R10 (Raise is a state of membership, R363, not a class of a table). -/
inductive Cls where
  | now | line | frame | sample | stop
deriving DecidableEq, Repr

/-- The reset domains of R9. -/
inductive Dom where
  | aon | main | quad
deriving DecidableEq, Repr

/-- The authorities of R12 and R385. -/
inductive Auth where
  | host | sideband | either | tollhouse
deriving DecidableEq, Repr

/-- The register blocks, one per register table (R375). -/
inductive Blk where
  | faceChip | faceSpan | faceGroup | faceHall | faceQuad | faceEng | tl | l | eq | c | ti | eng | join | vid | til | spr | plane | head | aud | v | bus | port | spd | dpa | inp | post | prt | pil | k | mem | mc | d | bg | pl | ic | src | icE | icV | stop | rg | hl | sb | th | mb | sp | spp | rc | pwr | mon | pc
deriving DecidableEq, Repr

/-- A field of the register at an offset: bits `hi` to `lo`. -/
structure FieldAt where
  off : Nat
  hi : Nat
  lo : Nat
deriving DecidableEq, Repr

/-- A field of a register table: bits, access, class, reset value, and whether a main reset leaves it ("keep", "pin"). -/
structure Fld where
  hi : Nat
  lo : Nat
  acc : Acc
  cls : Cls
  rst : Nat
  keep : Bool
deriving DecidableEq, Repr

/-- A register of a block: its offset in the block, its repetition (count, stride) and its fields. -/
structure RegDef where
  off : Nat
  idx : List (Nat × Nat)
  flds : List Fld
deriving DecidableEq, Repr

/-- A block of registers, repeated by the (count, stride) pairs of `idx`. -/
structure Block where
  id : Blk
  base : Nat
  idx : List (Nat × Nat)
  auth : Auth
  dom : Dom
  regs : List RegDef
deriving DecidableEq, Repr

def Adr.faceChipDesc0 : Nat := 0x2000
def Fd.faceChipDesc0D0 : FieldAt := ⟨Adr.faceChipDesc0, 15, 0⟩
def Adr.faceChipDesc1 : Nat := 0x2004
def Fd.faceChipDesc1D1 : FieldAt := ⟨Adr.faceChipDesc1, 15, 0⟩
def Adr.faceChipDesc2 : Nat := 0x2008
def Fd.faceChipDesc2D2 : FieldAt := ⟨Adr.faceChipDesc2, 15, 0⟩
def Adr.faceChipDesc3 : Nat := 0x200C
def Fd.faceChipDesc3D3 : FieldAt := ⟨Adr.faceChipDesc3, 15, 0⟩
def Adr.faceChipPath : Nat := 0x2010
def Fd.faceChipPathLevel : FieldAt := ⟨Adr.faceChipPath, 14, 12⟩
def Fd.faceChipPathJoined : FieldAt := ⟨Adr.faceChipPath, 11, 11⟩
def Fd.faceChipPathSpanBay : FieldAt := ⟨Adr.faceChipPath, 10, 9⟩
def Fd.faceChipPathChip : FieldAt := ⟨Adr.faceChipPath, 8, 7⟩
def Fd.faceChipPathHall : FieldAt := ⟨Adr.faceChipPath, 6, 4⟩
def Fd.faceChipPathQuad : FieldAt := ⟨Adr.faceChipPath, 3, 2⟩
def Fd.faceChipPathEngine : FieldAt := ⟨Adr.faceChipPath, 1, 0⟩
def Adr.faceChipDoorbell : Nat := 0x2014
def Fd.faceChipDoorbellTi : FieldAt := ⟨Adr.faceChipDoorbell, 2, 0⟩
def Adr.faceChipFaultOwn : Nat := 0x2018
def Fd.faceChipFaultOwnCls : FieldAt := ⟨Adr.faceChipFaultOwn, 7, 0⟩
def Adr.faceChipFaultSum : Nat := 0x201C
def Fd.faceChipFaultSumCls : FieldAt := ⟨Adr.faceChipFaultSum, 7, 0⟩
def Adr.faceChipFaultFirst : Nat := 0x2020
def Fd.faceChipFaultFirstValid : FieldAt := ⟨Adr.faceChipFaultFirst, 15, 15⟩
def Fd.faceChipFaultFirstChild : FieldAt := ⟨Adr.faceChipFaultFirst, 9, 0⟩
def Adr.faceChipTiView : Nat := 0x2024
def Fd.faceChipTiViewCoalesced : FieldAt := ⟨Adr.faceChipTiView, 15, 8⟩
def Fd.faceChipTiViewAny : FieldAt := ⟨Adr.faceChipTiView, 7, 0⟩
def Adr.faceChipWaiting : Nat := 0x2028
def Fd.faceChipWaitingCount : FieldAt := ⟨Adr.faceChipWaiting, 11, 0⟩
def Adr.faceSpanDesc0 : Nat := 0x3000
def Fd.faceSpanDesc0D0 : FieldAt := ⟨Adr.faceSpanDesc0, 15, 0⟩
def Adr.faceSpanDesc1 : Nat := 0x3004
def Fd.faceSpanDesc1D1 : FieldAt := ⟨Adr.faceSpanDesc1, 15, 0⟩
def Adr.faceSpanDesc2 : Nat := 0x3008
def Fd.faceSpanDesc2D2 : FieldAt := ⟨Adr.faceSpanDesc2, 15, 0⟩
def Adr.faceSpanDesc3 : Nat := 0x300C
def Fd.faceSpanDesc3D3 : FieldAt := ⟨Adr.faceSpanDesc3, 15, 0⟩
def Adr.faceSpanPath : Nat := 0x3010
def Fd.faceSpanPathLevel : FieldAt := ⟨Adr.faceSpanPath, 14, 12⟩
def Fd.faceSpanPathJoined : FieldAt := ⟨Adr.faceSpanPath, 11, 11⟩
def Fd.faceSpanPathSpanBay : FieldAt := ⟨Adr.faceSpanPath, 10, 9⟩
def Fd.faceSpanPathChip : FieldAt := ⟨Adr.faceSpanPath, 8, 7⟩
def Fd.faceSpanPathHall : FieldAt := ⟨Adr.faceSpanPath, 6, 4⟩
def Fd.faceSpanPathQuad : FieldAt := ⟨Adr.faceSpanPath, 3, 2⟩
def Fd.faceSpanPathEngine : FieldAt := ⟨Adr.faceSpanPath, 1, 0⟩
def Adr.faceSpanDoorbell : Nat := 0x3014
def Fd.faceSpanDoorbellTi : FieldAt := ⟨Adr.faceSpanDoorbell, 2, 0⟩
def Adr.faceSpanFaultOwn : Nat := 0x3018
def Fd.faceSpanFaultOwnCls : FieldAt := ⟨Adr.faceSpanFaultOwn, 7, 0⟩
def Adr.faceSpanFaultSum : Nat := 0x301C
def Fd.faceSpanFaultSumCls : FieldAt := ⟨Adr.faceSpanFaultSum, 7, 0⟩
def Adr.faceSpanFaultFirst : Nat := 0x3020
def Fd.faceSpanFaultFirstValid : FieldAt := ⟨Adr.faceSpanFaultFirst, 15, 15⟩
def Fd.faceSpanFaultFirstChild : FieldAt := ⟨Adr.faceSpanFaultFirst, 9, 0⟩
def Adr.faceSpanTiView : Nat := 0x3024
def Fd.faceSpanTiViewCoalesced : FieldAt := ⟨Adr.faceSpanTiView, 15, 8⟩
def Fd.faceSpanTiViewAny : FieldAt := ⟨Adr.faceSpanTiView, 7, 0⟩
def Adr.faceSpanWaiting : Nat := 0x3028
def Fd.faceSpanWaitingCount : FieldAt := ⟨Adr.faceSpanWaiting, 11, 0⟩
def Adr.faceGroupDesc0 : Nat := 0x4000
def Fd.faceGroupDesc0D0 : FieldAt := ⟨Adr.faceGroupDesc0, 15, 0⟩
def Adr.faceGroupDesc1 : Nat := 0x4004
def Fd.faceGroupDesc1D1 : FieldAt := ⟨Adr.faceGroupDesc1, 15, 0⟩
def Adr.faceGroupDesc2 : Nat := 0x4008
def Fd.faceGroupDesc2D2 : FieldAt := ⟨Adr.faceGroupDesc2, 15, 0⟩
def Adr.faceGroupDesc3 : Nat := 0x400C
def Fd.faceGroupDesc3D3 : FieldAt := ⟨Adr.faceGroupDesc3, 15, 0⟩
def Adr.faceGroupPath : Nat := 0x4010
def Fd.faceGroupPathLevel : FieldAt := ⟨Adr.faceGroupPath, 14, 12⟩
def Fd.faceGroupPathJoined : FieldAt := ⟨Adr.faceGroupPath, 11, 11⟩
def Fd.faceGroupPathSpanBay : FieldAt := ⟨Adr.faceGroupPath, 10, 9⟩
def Fd.faceGroupPathChip : FieldAt := ⟨Adr.faceGroupPath, 8, 7⟩
def Fd.faceGroupPathHall : FieldAt := ⟨Adr.faceGroupPath, 6, 4⟩
def Fd.faceGroupPathQuad : FieldAt := ⟨Adr.faceGroupPath, 3, 2⟩
def Fd.faceGroupPathEngine : FieldAt := ⟨Adr.faceGroupPath, 1, 0⟩
def Adr.faceGroupDoorbell : Nat := 0x4014
def Fd.faceGroupDoorbellTi : FieldAt := ⟨Adr.faceGroupDoorbell, 2, 0⟩
def Adr.faceGroupFaultOwn : Nat := 0x4018
def Fd.faceGroupFaultOwnCls : FieldAt := ⟨Adr.faceGroupFaultOwn, 7, 0⟩
def Adr.faceGroupFaultSum : Nat := 0x401C
def Fd.faceGroupFaultSumCls : FieldAt := ⟨Adr.faceGroupFaultSum, 7, 0⟩
def Adr.faceGroupFaultFirst : Nat := 0x4020
def Fd.faceGroupFaultFirstValid : FieldAt := ⟨Adr.faceGroupFaultFirst, 15, 15⟩
def Fd.faceGroupFaultFirstChild : FieldAt := ⟨Adr.faceGroupFaultFirst, 9, 0⟩
def Adr.faceGroupTiView : Nat := 0x4024
def Fd.faceGroupTiViewCoalesced : FieldAt := ⟨Adr.faceGroupTiView, 15, 8⟩
def Fd.faceGroupTiViewAny : FieldAt := ⟨Adr.faceGroupTiView, 7, 0⟩
def Adr.faceGroupWaiting : Nat := 0x4028
def Fd.faceGroupWaitingCount : FieldAt := ⟨Adr.faceGroupWaiting, 11, 0⟩
def Adr.faceHallDesc0 (h : Nat) : Nat := 0x10000 + 0x1000 * h
def Fd.faceHallDesc0D0 (h : Nat) : FieldAt := ⟨Adr.faceHallDesc0 h, 15, 0⟩
def Adr.faceHallDesc1 (h : Nat) : Nat := 0x10004 + 0x1000 * h
def Fd.faceHallDesc1D1 (h : Nat) : FieldAt := ⟨Adr.faceHallDesc1 h, 15, 0⟩
def Adr.faceHallDesc2 (h : Nat) : Nat := 0x10008 + 0x1000 * h
def Fd.faceHallDesc2D2 (h : Nat) : FieldAt := ⟨Adr.faceHallDesc2 h, 15, 0⟩
def Adr.faceHallDesc3 (h : Nat) : Nat := 0x1000C + 0x1000 * h
def Fd.faceHallDesc3D3 (h : Nat) : FieldAt := ⟨Adr.faceHallDesc3 h, 15, 0⟩
def Adr.faceHallPath (h : Nat) : Nat := 0x10010 + 0x1000 * h
def Fd.faceHallPathLevel (h : Nat) : FieldAt := ⟨Adr.faceHallPath h, 14, 12⟩
def Fd.faceHallPathJoined (h : Nat) : FieldAt := ⟨Adr.faceHallPath h, 11, 11⟩
def Fd.faceHallPathSpanBay (h : Nat) : FieldAt := ⟨Adr.faceHallPath h, 10, 9⟩
def Fd.faceHallPathChip (h : Nat) : FieldAt := ⟨Adr.faceHallPath h, 8, 7⟩
def Fd.faceHallPathHall (h : Nat) : FieldAt := ⟨Adr.faceHallPath h, 6, 4⟩
def Fd.faceHallPathQuad (h : Nat) : FieldAt := ⟨Adr.faceHallPath h, 3, 2⟩
def Fd.faceHallPathEngine (h : Nat) : FieldAt := ⟨Adr.faceHallPath h, 1, 0⟩
def Adr.faceHallDoorbell (h : Nat) : Nat := 0x10014 + 0x1000 * h
def Fd.faceHallDoorbellTi (h : Nat) : FieldAt := ⟨Adr.faceHallDoorbell h, 2, 0⟩
def Adr.faceHallFaultOwn (h : Nat) : Nat := 0x10018 + 0x1000 * h
def Fd.faceHallFaultOwnCls (h : Nat) : FieldAt := ⟨Adr.faceHallFaultOwn h, 7, 0⟩
def Adr.faceHallFaultSum (h : Nat) : Nat := 0x1001C + 0x1000 * h
def Fd.faceHallFaultSumCls (h : Nat) : FieldAt := ⟨Adr.faceHallFaultSum h, 7, 0⟩
def Adr.faceHallFaultFirst (h : Nat) : Nat := 0x10020 + 0x1000 * h
def Fd.faceHallFaultFirstValid (h : Nat) : FieldAt := ⟨Adr.faceHallFaultFirst h, 15, 15⟩
def Fd.faceHallFaultFirstChild (h : Nat) : FieldAt := ⟨Adr.faceHallFaultFirst h, 9, 0⟩
def Adr.faceHallTiView (h : Nat) : Nat := 0x10024 + 0x1000 * h
def Fd.faceHallTiViewCoalesced (h : Nat) : FieldAt := ⟨Adr.faceHallTiView h, 15, 8⟩
def Fd.faceHallTiViewAny (h : Nat) : FieldAt := ⟨Adr.faceHallTiView h, 7, 0⟩
def Adr.faceHallWaiting (h : Nat) : Nat := 0x10028 + 0x1000 * h
def Fd.faceHallWaitingCount (h : Nat) : FieldAt := ⟨Adr.faceHallWaiting h, 11, 0⟩
def Adr.faceQuadDesc0 (q : Nat) : Nat := 0x1000000 + 0x10000 * q
def Fd.faceQuadDesc0D0 (q : Nat) : FieldAt := ⟨Adr.faceQuadDesc0 q, 15, 0⟩
def Adr.faceQuadDesc1 (q : Nat) : Nat := 0x1000004 + 0x10000 * q
def Fd.faceQuadDesc1D1 (q : Nat) : FieldAt := ⟨Adr.faceQuadDesc1 q, 15, 0⟩
def Adr.faceQuadDesc2 (q : Nat) : Nat := 0x1000008 + 0x10000 * q
def Fd.faceQuadDesc2D2 (q : Nat) : FieldAt := ⟨Adr.faceQuadDesc2 q, 15, 0⟩
def Adr.faceQuadDesc3 (q : Nat) : Nat := 0x100000C + 0x10000 * q
def Fd.faceQuadDesc3D3 (q : Nat) : FieldAt := ⟨Adr.faceQuadDesc3 q, 15, 0⟩
def Adr.faceQuadPath (q : Nat) : Nat := 0x1000010 + 0x10000 * q
def Fd.faceQuadPathLevel (q : Nat) : FieldAt := ⟨Adr.faceQuadPath q, 14, 12⟩
def Fd.faceQuadPathJoined (q : Nat) : FieldAt := ⟨Adr.faceQuadPath q, 11, 11⟩
def Fd.faceQuadPathSpanBay (q : Nat) : FieldAt := ⟨Adr.faceQuadPath q, 10, 9⟩
def Fd.faceQuadPathChip (q : Nat) : FieldAt := ⟨Adr.faceQuadPath q, 8, 7⟩
def Fd.faceQuadPathHall (q : Nat) : FieldAt := ⟨Adr.faceQuadPath q, 6, 4⟩
def Fd.faceQuadPathQuad (q : Nat) : FieldAt := ⟨Adr.faceQuadPath q, 3, 2⟩
def Fd.faceQuadPathEngine (q : Nat) : FieldAt := ⟨Adr.faceQuadPath q, 1, 0⟩
def Adr.faceQuadDoorbell (q : Nat) : Nat := 0x1000014 + 0x10000 * q
def Fd.faceQuadDoorbellTi (q : Nat) : FieldAt := ⟨Adr.faceQuadDoorbell q, 2, 0⟩
def Adr.faceQuadFaultOwn (q : Nat) : Nat := 0x1000018 + 0x10000 * q
def Fd.faceQuadFaultOwnCls (q : Nat) : FieldAt := ⟨Adr.faceQuadFaultOwn q, 7, 0⟩
def Adr.faceQuadFaultSum (q : Nat) : Nat := 0x100001C + 0x10000 * q
def Fd.faceQuadFaultSumCls (q : Nat) : FieldAt := ⟨Adr.faceQuadFaultSum q, 7, 0⟩
def Adr.faceQuadFaultFirst (q : Nat) : Nat := 0x1000020 + 0x10000 * q
def Fd.faceQuadFaultFirstValid (q : Nat) : FieldAt := ⟨Adr.faceQuadFaultFirst q, 15, 15⟩
def Fd.faceQuadFaultFirstChild (q : Nat) : FieldAt := ⟨Adr.faceQuadFaultFirst q, 9, 0⟩
def Adr.faceQuadTiView (q : Nat) : Nat := 0x1000024 + 0x10000 * q
def Fd.faceQuadTiViewCoalesced (q : Nat) : FieldAt := ⟨Adr.faceQuadTiView q, 15, 8⟩
def Fd.faceQuadTiViewAny (q : Nat) : FieldAt := ⟨Adr.faceQuadTiView q, 7, 0⟩
def Adr.faceQuadWaiting (q : Nat) : Nat := 0x1000028 + 0x10000 * q
def Fd.faceQuadWaitingCount (q : Nat) : FieldAt := ⟨Adr.faceQuadWaiting q, 11, 0⟩
def Adr.faceEngDesc0 (q : Nat) (i : Nat) : Nat := 0x1001000 + 0x10000 * q + 0x1000 * i
def Fd.faceEngDesc0D0 (q : Nat) (i : Nat) : FieldAt := ⟨Adr.faceEngDesc0 q i, 15, 0⟩
def Adr.faceEngDesc1 (q : Nat) (i : Nat) : Nat := 0x1001004 + 0x10000 * q + 0x1000 * i
def Fd.faceEngDesc1D1 (q : Nat) (i : Nat) : FieldAt := ⟨Adr.faceEngDesc1 q i, 15, 0⟩
def Adr.faceEngDesc2 (q : Nat) (i : Nat) : Nat := 0x1001008 + 0x10000 * q + 0x1000 * i
def Fd.faceEngDesc2D2 (q : Nat) (i : Nat) : FieldAt := ⟨Adr.faceEngDesc2 q i, 15, 0⟩
def Adr.faceEngDesc3 (q : Nat) (i : Nat) : Nat := 0x100100C + 0x10000 * q + 0x1000 * i
def Fd.faceEngDesc3D3 (q : Nat) (i : Nat) : FieldAt := ⟨Adr.faceEngDesc3 q i, 15, 0⟩
def Adr.faceEngPath (q : Nat) (i : Nat) : Nat := 0x1001010 + 0x10000 * q + 0x1000 * i
def Fd.faceEngPathLevel (q : Nat) (i : Nat) : FieldAt := ⟨Adr.faceEngPath q i, 14, 12⟩
def Fd.faceEngPathJoined (q : Nat) (i : Nat) : FieldAt := ⟨Adr.faceEngPath q i, 11, 11⟩
def Fd.faceEngPathSpanBay (q : Nat) (i : Nat) : FieldAt := ⟨Adr.faceEngPath q i, 10, 9⟩
def Fd.faceEngPathChip (q : Nat) (i : Nat) : FieldAt := ⟨Adr.faceEngPath q i, 8, 7⟩
def Fd.faceEngPathHall (q : Nat) (i : Nat) : FieldAt := ⟨Adr.faceEngPath q i, 6, 4⟩
def Fd.faceEngPathQuad (q : Nat) (i : Nat) : FieldAt := ⟨Adr.faceEngPath q i, 3, 2⟩
def Fd.faceEngPathEngine (q : Nat) (i : Nat) : FieldAt := ⟨Adr.faceEngPath q i, 1, 0⟩
def Adr.faceEngDoorbell (q : Nat) (i : Nat) : Nat := 0x1001014 + 0x10000 * q + 0x1000 * i
def Fd.faceEngDoorbellTi (q : Nat) (i : Nat) : FieldAt := ⟨Adr.faceEngDoorbell q i, 2, 0⟩
def Adr.faceEngFaultOwn (q : Nat) (i : Nat) : Nat := 0x1001018 + 0x10000 * q + 0x1000 * i
def Fd.faceEngFaultOwnCls (q : Nat) (i : Nat) : FieldAt := ⟨Adr.faceEngFaultOwn q i, 7, 0⟩
def Adr.faceEngFaultSum (q : Nat) (i : Nat) : Nat := 0x100101C + 0x10000 * q + 0x1000 * i
def Fd.faceEngFaultSumCls (q : Nat) (i : Nat) : FieldAt := ⟨Adr.faceEngFaultSum q i, 7, 0⟩
def Adr.faceEngFaultFirst (q : Nat) (i : Nat) : Nat := 0x1001020 + 0x10000 * q + 0x1000 * i
def Fd.faceEngFaultFirstValid (q : Nat) (i : Nat) : FieldAt := ⟨Adr.faceEngFaultFirst q i, 15, 15⟩
def Fd.faceEngFaultFirstChild (q : Nat) (i : Nat) : FieldAt := ⟨Adr.faceEngFaultFirst q i, 9, 0⟩
def Adr.faceEngTiView (q : Nat) (i : Nat) : Nat := 0x1001024 + 0x10000 * q + 0x1000 * i
def Fd.faceEngTiViewCoalesced (q : Nat) (i : Nat) : FieldAt := ⟨Adr.faceEngTiView q i, 15, 8⟩
def Fd.faceEngTiViewAny (q : Nat) (i : Nat) : FieldAt := ⟨Adr.faceEngTiView q i, 7, 0⟩
def Adr.faceEngWaiting (q : Nat) (i : Nat) : Nat := 0x1001028 + 0x10000 * q + 0x1000 * i
def Fd.faceEngWaitingCount (q : Nat) (i : Nat) : FieldAt := ⟨Adr.faceEngWaiting q i, 11, 0⟩
def Adr.tlPos0 (k : Nat) : Nat := 0x20000 + 0x100 * k
def Fd.tlPos0PosLo (k : Nat) : FieldAt := ⟨Adr.tlPos0 k, 19, 0⟩
def Adr.tlPos1 (k : Nat) : Nat := 0x20004 + 0x100 * k
def Fd.tlPos1PosHi (k : Nat) : FieldAt := ⟨Adr.tlPos1 k, 19, 0⟩
def Adr.tlLap (k : Nat) : Nat := 0x20008 + 0x100 * k
def Fd.tlLapLap (k : Nat) : FieldAt := ⟨Adr.tlLap k, 19, 0⟩
def Adr.tlCfg (k : Nat) : Nat := 0x2000C + 0x100 * k
def Fd.tlCfgKind (k : Nat) : FieldAt := ⟨Adr.tlCfg k, 19, 17⟩
def Fd.tlCfgRun (k : Nat) : FieldAt := ⟨Adr.tlCfg k, 16, 16⟩
def Adr.tlMod (k : Nat) : Nat := 0x20010 + 0x100 * k
def Fd.tlModMod (k : Nat) : FieldAt := ⟨Adr.tlMod k, 19, 0⟩
def Adr.tlSrc0 (k : Nat) : Nat := 0x20014 + 0x100 * k
def Fd.tlSrc0PostA (k : Nat) : FieldAt := ⟨Adr.tlSrc0 k, 19, 10⟩
def Fd.tlSrc0Chan (k : Nat) : FieldAt := ⟨Adr.tlSrc0 k, 7, 0⟩
def Adr.tlSrc1 (k : Nat) : Nat := 0x20018 + 0x100 * k
def Fd.tlSrc1PostB (k : Nat) : FieldAt := ⟨Adr.tlSrc1 k, 19, 10⟩
def Fd.tlSrc1PostIdx (k : Nat) : FieldAt := ⟨Adr.tlSrc1 k, 9, 0⟩
def Adr.tlEnc (k : Nat) : Nat := 0x2001C + 0x100 * k
def Fd.tlEncDecode (k : Nat) : FieldAt := ⟨Adr.tlEnc k, 19, 18⟩
def Fd.tlEncSwap (k : Nat) : FieldAt := ⟨Adr.tlEnc k, 17, 17⟩
def Fd.tlEncIdxMode (k : Nat) : FieldAt := ⟨Adr.tlEnc k, 16, 15⟩
def Fd.tlEncIdxGate (k : Nat) : FieldAt := ⟨Adr.tlEnc k, 14, 13⟩
def Fd.tlEncFilter (k : Nat) : FieldAt := ⟨Adr.tlEnc k, 12, 8⟩
def Adr.tlIdx (k : Nat) : Nat := 0x20020 + 0x100 * k
def Fd.tlIdxIdxVal (k : Nat) : FieldAt := ⟨Adr.tlIdx k, 19, 0⟩
def Adr.tlMains (k : Nat) : Nat := 0x20024 + 0x100 * k
def Fd.tlMainsEdge (k : Nat) : FieldAt := ⟨Adr.tlMains k, 19, 18⟩
def Fd.tlMainsOffset (k : Nat) : FieldAt := ⟨Adr.tlMains k, 15, 0⟩
def Adr.tlMainsStat (k : Nat) : Nat := 0x20028 + 0x100 * k
def Fd.tlMainsStatLocked (k : Nat) : FieldAt := ⟨Adr.tlMainsStat k, 19, 19⟩
def Fd.tlMainsStatHoldover (k : Nat) : FieldAt := ⟨Adr.tlMainsStat k, 18, 18⟩
def Fd.tlMainsStatPeriodUs (k : Nat) : FieldAt := ⟨Adr.tlMainsStat k, 15, 0⟩
def Adr.tlSlipWin (k : Nat) : Nat := 0x2002C + 0x100 * k
def Fd.tlSlipWinExp (k : Nat) : FieldAt := ⟨Adr.tlSlipWin k, 15, 10⟩
def Fd.tlSlipWinMant (k : Nat) : FieldAt := ⟨Adr.tlSlipWin k, 9, 0⟩
def Adr.tlSet1 (k : Nat) : Nat := 0x20030 + 0x100 * k
def Fd.tlSet1SetHi (k : Nat) : FieldAt := ⟨Adr.tlSet1 k, 19, 0⟩
def Adr.tlSet0 (k : Nat) : Nat := 0x20034 + 0x100 * k
def Fd.tlSet0SetLo (k : Nat) : FieldAt := ⟨Adr.tlSet0 k, 19, 0⟩
def Adr.tlSlew (k : Nat) : Nat := 0x20038 + 0x100 * k
def Fd.tlSlewOffset (k : Nat) : FieldAt := ⟨Adr.tlSlew k, 19, 0⟩
def Adr.tlStat (k : Nat) : Nat := 0x2003C + 0x100 * k
def Fd.tlStatSetLost (k : Nat) : FieldAt := ⟨Adr.tlStat k, 7, 7⟩
def Fd.tlStatEncErr (k : Nat) : FieldAt := ⟨Adr.tlStat k, 6, 6⟩
def Fd.tlStatIdxErr (k : Nat) : FieldAt := ⟨Adr.tlStat k, 5, 5⟩
def Fd.tlStatUnlock (k : Nat) : FieldAt := ⟨Adr.tlStat k, 4, 4⟩
def Fd.tlStatBack (k : Nat) : FieldAt := ⟨Adr.tlStat k, 3, 3⟩
def Fd.tlStatFar (k : Nat) : FieldAt := ⟨Adr.tlStat k, 2, 2⟩
def Fd.tlStatNear (k : Nat) : FieldAt := ⟨Adr.tlStat k, 1, 1⟩
def Fd.tlStatRunning (k : Nat) : FieldAt := ⟨Adr.tlStat k, 0, 0⟩
def Adr.tlSlips (k : Nat) : Nat := 0x20040 + 0x100 * k
def Fd.tlSlipsCount (k : Nat) : FieldAt := ⟨Adr.tlSlips k, 19, 0⟩
def Adr.tlLastSlip (k : Nat) : Nat := 0x20044 + 0x100 * k
def Fd.tlLastSlipS (k : Nat) : FieldAt := ⟨Adr.tlLastSlip k, 19, 0⟩
def Adr.tlTrim (k : Nat) : Nat := 0x20048 + 0x100 * k
def Fd.tlTrimPpb (k : Nat) : FieldAt := ⟨Adr.tlTrim k, 19, 0⟩
def Adr.lCtrl (n : Nat) : Nat := 0x40000 + 0x40 * n
def Fd.lCtrlMode (n : Nat) : FieldAt := ⟨Adr.lCtrl n, 19, 18⟩
def Fd.lCtrlDir (n : Nat) : FieldAt := ⟨Adr.lCtrl n, 17, 16⟩
def Fd.lCtrlArm (n : Nat) : FieldAt := ⟨Adr.lCtrl n, 15, 15⟩
def Fd.lCtrlFreeze (n : Nat) : FieldAt := ⟨Adr.lCtrl n, 14, 14⟩
def Fd.lCtrlFerryEn (n : Nat) : FieldAt := ⟨Adr.lCtrl n, 13, 13⟩
def Fd.lCtrlTl (n : Nat) : FieldAt := ⟨Adr.lCtrl n, 12, 8⟩
def Fd.lCtrlChan (n : Nat) : FieldAt := ⟨Adr.lCtrl n, 7, 0⟩
def Adr.lCmp0 (n : Nat) : Nat := 0x40004 + 0x40 * n
def Fd.lCmp0CmpLo (n : Nat) : FieldAt := ⟨Adr.lCmp0 n, 19, 0⟩
def Adr.lCmp1 (n : Nat) : Nat := 0x40008 + 0x40 * n
def Fd.lCmp1CmpHi (n : Nat) : FieldAt := ⟨Adr.lCmp1 n, 19, 0⟩
def Adr.lInt0 (n : Nat) : Nat := 0x4000C + 0x40 * n
def Fd.lInt0IntLo (n : Nat) : FieldAt := ⟨Adr.lInt0 n, 19, 0⟩
def Adr.lInt1 (n : Nat) : Nat := 0x40010 + 0x40 * n
def Fd.lInt1IntHi (n : Nat) : FieldAt := ⟨Adr.lInt1 n, 19, 0⟩
def Adr.lTick (n : Nat) : Nat := 0x40014 + 0x40 * n
def Fd.lTickTickChan (n : Nat) : FieldAt := ⟨Adr.lTick n, 7, 0⟩
def Adr.lLcount (n : Nat) : Nat := 0x40018 + 0x40 * n
def Fd.lLcountCount (n : Nat) : FieldAt := ⟨Adr.lLcount n, 19, 0⟩
def Adr.lStat (n : Nat) : Nat := 0x4001C + 0x40 * n
def Fd.lStatPending (n : Nat) : FieldAt := ⟨Adr.lStat n, 4, 4⟩
def Fd.lStatCaught (n : Nat) : FieldAt := ⟨Adr.lStat n, 3, 3⟩
def Fd.lStatSlipped (n : Nat) : FieldAt := ⟨Adr.lStat n, 2, 2⟩
def Fd.lStatFired (n : Nat) : FieldAt := ⟨Adr.lStat n, 1, 1⟩
def Fd.lStatAddLost (n : Nat) : FieldAt := ⟨Adr.lStat n, 0, 0⟩
def Adr.lPassed (n : Nat) : Nat := 0x40020 + 0x40 * n
def Fd.lPassedCount (n : Nat) : FieldAt := ⟨Adr.lPassed n, 15, 0⟩
def Adr.lFrozen (n : Nat) : Nat := 0x40024 + 0x40 * n
def Fd.lFrozenCount (n : Nat) : FieldAt := ⟨Adr.lFrozen n, 19, 0⟩
def Adr.eqCfg (n : Nat) : Nat := 0x60000 + 0x40 * n
def Fd.eqCfgTl (n : Nat) : FieldAt := ⟨Adr.eqCfg n, 19, 15⟩
def Fd.eqCfgTrig (n : Nat) : FieldAt := ⟨Adr.eqCfg n, 14, 14⟩
def Fd.eqCfgCapEdge (n : Nat) : FieldAt := ⟨Adr.eqCfg n, 13, 12⟩
def Fd.eqCfgRun (n : Nat) : FieldAt := ⟨Adr.eqCfg n, 11, 11⟩
def Fd.eqCfgTrigChan (n : Nat) : FieldAt := ⟨Adr.eqCfg n, 7, 0⟩
def Adr.eqEvt (n : Nat) : Nat := 0x60004 + 0x40 * n
def Fd.eqEvtFireEn (n : Nat) : FieldAt := ⟨Adr.eqEvt n, 19, 19⟩
def Fd.eqEvtFireChan (n : Nat) : FieldAt := ⟨Adr.eqEvt n, 18, 11⟩
def Fd.eqEvtCapEn (n : Nat) : FieldAt := ⟨Adr.eqEvt n, 10, 10⟩
def Fd.eqEvtCapChan (n : Nat) : FieldAt := ⟨Adr.eqEvt n, 9, 2⟩
def Adr.eqStat (n : Nat) : Nat := 0x60008 + 0x40 * n
def Fd.eqStatDepth (n : Nat) : FieldAt := ⟨Adr.eqStat n, 11, 9⟩
def Fd.eqStatCapDepth (n : Nat) : FieldAt := ⟨Adr.eqStat n, 8, 7⟩
def Fd.eqStatCapLost (n : Nat) : FieldAt := ⟨Adr.eqStat n, 6, 6⟩
def Fd.eqStatOvf (n : Nat) : FieldAt := ⟨Adr.eqStat n, 5, 5⟩
def Fd.eqStatSkipped (n : Nat) : FieldAt := ⟨Adr.eqStat n, 4, 4⟩
def Fd.eqStatLate (n : Nat) : FieldAt := ⟨Adr.eqStat n, 3, 3⟩
def Fd.eqStatFired (n : Nat) : FieldAt := ⟨Adr.eqStat n, 2, 2⟩
def Fd.eqStatStarved (n : Nat) : FieldAt := ⟨Adr.eqStat n, 1, 1⟩
def Adr.eqPush1 (n : Nat) : Nat := 0x6000C + 0x40 * n
def Fd.eqPush1PosHi (n : Nat) : FieldAt := ⟨Adr.eqPush1 n, 19, 0⟩
def Adr.eqEdge0 (n : Nat) : Nat := 0x60010 + 0x40 * n
def Fd.eqEdge0PosLo (n : Nat) : FieldAt := ⟨Adr.eqEdge0 n, 19, 0⟩
def Adr.eqEdge1 (n : Nat) : Nat := 0x60014 + 0x40 * n
def Fd.eqEdge1PosLo (n : Nat) : FieldAt := ⟨Adr.eqEdge1 n, 19, 0⟩
def Adr.eqEdgez (n : Nat) : Nat := 0x60018 + 0x40 * n
def Fd.eqEdgezPosLo (n : Nat) : FieldAt := ⟨Adr.eqEdgez n, 19, 0⟩
def Adr.eqFlush (n : Nat) : Nat := 0x6001C + 0x40 * n
def Fd.eqFlushFlush (n : Nat) : FieldAt := ⟨Adr.eqFlush n, 0, 0⟩
def Adr.eqCapx (n : Nat) : Nat := 0x60020 + 0x40 * n
def Fd.eqCapxValid (n : Nat) : FieldAt := ⟨Adr.eqCapx n, 19, 19⟩
def Fd.eqCapxLevel (n : Nat) : FieldAt := ⟨Adr.eqCapx n, 18, 18⟩
def Adr.eqCap1 (n : Nat) : Nat := 0x60024 + 0x40 * n
def Fd.eqCap1PosHi (n : Nat) : FieldAt := ⟨Adr.eqCap1 n, 19, 0⟩
def Adr.eqCap0 (n : Nat) : Nat := 0x60028 + 0x40 * n
def Fd.eqCap0PosLo (n : Nat) : FieldAt := ⟨Adr.eqCap0 n, 19, 0⟩
def Adr.cOwn (c : Nat) : Nat := 0x30000 + 0x20 * c
def Fd.cOwnKind (c : Nat) : FieldAt := ⟨Adr.cOwn c, 19, 17⟩
def Fd.cOwnSecure (c : Nat) : FieldAt := ⟨Adr.cOwn c, 16, 16⟩
def Fd.cOwnIndex (c : Nat) : FieldAt := ⟨Adr.cOwn c, 6, 0⟩
def Adr.cRoute0 (c : Nat) : Nat := 0x30004 + 0x20 * c
def Fd.cRoute0En (c : Nat) : FieldAt := ⟨Adr.cRoute0 c, 19, 19⟩
def Fd.cRoute0Level (c : Nat) : FieldAt := ⟨Adr.cRoute0 c, 18, 17⟩
def Fd.cRoute0Index (c : Nat) : FieldAt := ⟨Adr.cRoute0 c, 16, 10⟩
def Fd.cRoute0Ti (c : Nat) : FieldAt := ⟨Adr.cRoute0 c, 9, 7⟩
def Adr.cRoute1 (c : Nat) : Nat := 0x30008 + 0x20 * c
def Fd.cRoute1En (c : Nat) : FieldAt := ⟨Adr.cRoute1 c, 19, 19⟩
def Fd.cRoute1Level (c : Nat) : FieldAt := ⟨Adr.cRoute1 c, 18, 17⟩
def Fd.cRoute1Index (c : Nat) : FieldAt := ⟨Adr.cRoute1 c, 16, 10⟩
def Fd.cRoute1Ti (c : Nat) : FieldAt := ⟨Adr.cRoute1 c, 9, 7⟩
def Adr.cCfg (c : Nat) : Nat := 0x3000C + 0x20 * c
def Fd.cCfgIrqEn (c : Nat) : FieldAt := ⟨Adr.cCfg c, 0, 0⟩
def Adr.cFire (c : Nat) : Nat := 0x30010 + 0x20 * c
def Fd.cFireFire (c : Nat) : FieldAt := ⟨Adr.cFire c, 0, 0⟩
def Adr.cFlag (c : Nat) : Nat := 0x30014 + 0x20 * c
def Fd.cFlagFlag (c : Nat) : FieldAt := ⟨Adr.cFlag c, 0, 0⟩
def Adr.cEvents (c : Nat) : Nat := 0x30018 + 0x20 * c
def Fd.cEventsCount (c : Nat) : FieldAt := ⟨Adr.cEvents c, 19, 0⟩
def Adr.tiTi (e : Nat) (k : Nat) : Nat := 0x34000 + 0x40 * e + 0x4 * k
def Fd.tiTiCoalesced (e : Nat) (k : Nat) : FieldAt := ⟨Adr.tiTi e k, 4, 4⟩
def Fd.tiTiCount (e : Nat) (k : Nat) : FieldAt := ⟨Adr.tiTi e k, 3, 0⟩
def Adr.tiTake (e : Nat) (k : Nat) : Nat := 0x34020 + 0x40 * e + 0x4 * k
def Fd.tiTakeAsk (e : Nat) (k : Nat) : FieldAt := ⟨Adr.tiTake e k, 19, 0⟩
def Adr.engSecvec (q : Nat) (i : Nat) : Nat := 0x1001100 + 0x10000 * q + 0x1000 * i
def Fd.engSecvecBase (q : Nat) (i : Nat) : FieldAt := ⟨Adr.engSecvec q i, 19, 8⟩
def Adr.engWdogCfg (q : Nat) (i : Nat) : Nat := 0x1001104 + 0x10000 * q + 0x1000 * i
def Fd.engWdogCfgEn (q : Nat) (i : Nat) : FieldAt := ⟨Adr.engWdogCfg q i, 19, 19⟩
def Fd.engWdogCfgPeriod (q : Nat) (i : Nat) : FieldAt := ⟨Adr.engWdogCfg q i, 15, 0⟩
def Adr.engWdogKick (q : Nat) (i : Nat) : Nat := 0x1001108 + 0x10000 * q + 0x1000 * i
def Fd.engWdogKickKey (q : Nat) (i : Nat) : FieldAt := ⟨Adr.engWdogKick q i, 19, 0⟩
def Adr.engWdogStat (q : Nat) (i : Nat) : Nat := 0x100110C + 0x10000 * q + 0x1000 * i
def Fd.engWdogStatStage (q : Nat) (i : Nat) : FieldAt := ⟨Adr.engWdogStat q i, 19, 19⟩
def Fd.engWdogStatRemain (q : Nat) (i : Nat) : FieldAt := ⟨Adr.engWdogStat q i, 15, 0⟩
def Adr.engDbgCtl (q : Nat) (i : Nat) : Nat := 0x1001110 + 0x10000 * q + 0x1000 * i
def Fd.engDbgCtlHalt (q : Nat) (i : Nat) : FieldAt := ⟨Adr.engDbgCtl q i, 19, 19⟩
def Fd.engDbgCtlStep (q : Nat) (i : Nat) : FieldAt := ⟨Adr.engDbgCtl q i, 18, 18⟩
def Fd.engDbgCtlBrkEn (q : Nat) (i : Nat) : FieldAt := ⟨Adr.engDbgCtl q i, 17, 17⟩
def Adr.engDbgStat (q : Nat) (i : Nat) : Nat := 0x1001114 + 0x10000 * q + 0x1000 * i
def Fd.engDbgStatHalted (q : Nat) (i : Nat) : FieldAt := ⟨Adr.engDbgStat q i, 19, 19⟩
def Fd.engDbgStatLocked (q : Nat) (i : Nat) : FieldAt := ⟨Adr.engDbgStat q i, 18, 18⟩
def Fd.engDbgStatSleeping (q : Nat) (i : Nat) : FieldAt := ⟨Adr.engDbgStat q i, 17, 17⟩
def Fd.engDbgStatLockCls (q : Nat) (i : Nat) : FieldAt := ⟨Adr.engDbgStat q i, 3, 0⟩
def Adr.engDbgPc (q : Nat) (i : Nat) : Nat := 0x1001118 + 0x10000 * q + 0x1000 * i
def Fd.engDbgPcPc (q : Nat) (i : Nat) : FieldAt := ⟨Adr.engDbgPc q i, 19, 0⟩
def Adr.engDbgG (q : Nat) (i : Nat) (r : Nat) : Nat := 0x1001140 + 0x10000 * q + 0x1000 * i + 0x4 * r
def Fd.engDbgGValue (q : Nat) (i : Nat) (r : Nat) : FieldAt := ⟨Adr.engDbgG q i r, 19, 0⟩
def Adr.engDbgS (q : Nat) (i : Nat) (s : Nat) : Nat := 0x1001180 + 0x10000 * q + 0x1000 * i + 0x4 * s
def Fd.engDbgSValue (q : Nat) (i : Nat) (s : Nat) : FieldAt := ⟨Adr.engDbgS q i s, 19, 0⟩
def Adr.joinJcfg (h : Nat) : Nat := 0x80100 + 0x4000 * h
def Fd.joinJcfgOutBpc (h : Nat) : FieldAt := ⟨Adr.joinJcfg h, 9, 9⟩
def Fd.joinJcfgEn (h : Nat) : FieldAt := ⟨Adr.joinJcfg h, 8, 8⟩
def Fd.joinJcfgWm (h : Nat) : FieldAt := ⟨Adr.joinJcfg h, 7, 4⟩
def Fd.joinJcfgLead (h : Nat) : FieldAt := ⟨Adr.joinJcfg h, 3, 0⟩
def Adr.joinBg (h : Nat) : Nat := 0x80104 + 0x4000 * h
def Fd.joinBgR (h : Nat) : FieldAt := ⟨Adr.joinBg h, 29, 20⟩
def Fd.joinBgG (h : Nat) : FieldAt := ⟨Adr.joinBg h, 19, 10⟩
def Fd.joinBgB (h : Nat) : FieldAt := ⟨Adr.joinBg h, 9, 0⟩
def Adr.joinStack0 (h : Nat) : Nat := 0x80108 + 0x4000 * h
def Fd.joinStack0Slots04 (h : Nat) : FieldAt := ⟨Adr.joinStack0 h, 19, 0⟩
def Adr.joinStack1 (h : Nat) : Nat := 0x8010C + 0x4000 * h
def Fd.joinStack1Slots59 (h : Nat) : FieldAt := ⟨Adr.joinStack1 h, 19, 0⟩
def Adr.joinStack2 (h : Nat) : Nat := 0x80110 + 0x4000 * h
def Fd.joinStack2Slots1013 (h : Nat) : FieldAt := ⟨Adr.joinStack2 h, 15, 0⟩
def Adr.joinJstat (h : Nat) : Nat := 0x80114 + 0x4000 * h
def Fd.joinJstatFill (h : Nat) : FieldAt := ⟨Adr.joinJstat h, 19, 16⟩
def Fd.joinJstatLine (h : Nat) : FieldAt := ⟨Adr.joinJstat h, 12, 0⟩
def Adr.joinSkipped (h : Nat) : Nat := 0x80118 + 0x4000 * h
def Fd.joinSkippedCount (h : Nat) : FieldAt := ⟨Adr.joinSkipped h, 19, 0⟩
def Adr.joinLtCtrl (h : Nat) : Nat := 0x80120 + 0x4000 * h
def Fd.joinLtCtrlEn (h : Nat) : FieldAt := ⟨Adr.joinLtCtrl h, 0, 0⟩
def Adr.joinLtBase (h : Nat) : Nat := 0x80124 + 0x4000 * h
def Fd.joinLtBaseBase (h : Nat) : FieldAt := ⟨Adr.joinLtBase h, 27, 0⟩
def Adr.joinLtStat (h : Nat) : Nat := 0x80128 + 0x4000 * h
def Fd.joinLtStatBad (h : Nat) : FieldAt := ⟨Adr.joinLtStat h, 4, 4⟩
def Fd.joinLtStatPoison (h : Nat) : FieldAt := ⟨Adr.joinLtStat h, 3, 3⟩
def Fd.joinLtStatRefused (h : Nat) : FieldAt := ⟨Adr.joinLtStat h, 2, 2⟩
def Fd.joinLtStatLate (h : Nat) : FieldAt := ⟨Adr.joinLtStat h, 1, 1⟩
def Fd.joinLtStatEnded (h : Nat) : FieldAt := ⟨Adr.joinLtStat h, 0, 0⟩
def Adr.joinLtRecs (h : Nat) : Nat := 0x8012C + 0x4000 * h
def Fd.joinLtRecsCount (h : Nat) : FieldAt := ⟨Adr.joinLtRecs h, 19, 0⟩
def Adr.vidCtrl (h : Nat) (l : Nat) : Nat := 0x80200 + 0x4000 * h + 0x80 * l
def Fd.vidCtrlHost (h : Nat) (l : Nat) : FieldAt := ⟨Adr.vidCtrl h l, 8, 8⟩
def Fd.vidCtrlOpaque (h : Nat) (l : Nat) : FieldAt := ⟨Adr.vidCtrl h l, 7, 7⟩
def Fd.vidCtrlAdd (h : Nat) (l : Nat) : FieldAt := ⟨Adr.vidCtrl h l, 6, 6⟩
def Fd.vidCtrlFilt (h : Nat) (l : Nat) : FieldAt := ⟨Adr.vidCtrl h l, 5, 4⟩
def Fd.vidCtrlFmt (h : Nat) (l : Nat) : FieldAt := ⟨Adr.vidCtrl h l, 3, 1⟩
def Fd.vidCtrlEn (h : Nat) (l : Nat) : FieldAt := ⟨Adr.vidCtrl h l, 0, 0⟩
def Adr.vidBaseLo (h : Nat) (l : Nat) : Nat := 0x80204 + 0x4000 * h + 0x80 * l
def Fd.vidBaseLoBaseLo (h : Nat) (l : Nat) : FieldAt := ⟨Adr.vidBaseLo h l, 31, 0⟩
def Adr.vidBaseHi (h : Nat) (l : Nat) : Nat := 0x80208 + 0x4000 * h + 0x80 * l
def Fd.vidBaseHiBaseHi (h : Nat) (l : Nat) : FieldAt := ⟨Adr.vidBaseHi h l, 31, 0⟩
def Adr.vidPitch (h : Nat) (l : Nat) : Nat := 0x8020C + 0x4000 * h + 0x80 * l
def Fd.vidPitchPitch (h : Nat) (l : Nat) : FieldAt := ⟨Adr.vidPitch h l, 17, 0⟩
def Adr.vidSrcX (h : Nat) (l : Nat) : Nat := 0x80210 + 0x4000 * h + 0x80 * l
def Fd.vidSrcXX (h : Nat) (l : Nat) : FieldAt := ⟨Adr.vidSrcX h l, 13, 0⟩
def Adr.vidSrcY (h : Nat) (l : Nat) : Nat := 0x80214 + 0x4000 * h + 0x80 * l
def Fd.vidSrcYY (h : Nat) (l : Nat) : FieldAt := ⟨Adr.vidSrcY h l, 13, 0⟩
def Adr.vidSrcW (h : Nat) (l : Nat) : Nat := 0x80218 + 0x4000 * h + 0x80 * l
def Fd.vidSrcWW (h : Nat) (l : Nat) : FieldAt := ⟨Adr.vidSrcW h l, 13, 0⟩
def Adr.vidSrcH (h : Nat) (l : Nat) : Nat := 0x8021C + 0x4000 * h + 0x80 * l
def Fd.vidSrcHH (h : Nat) (l : Nat) : FieldAt := ⟨Adr.vidSrcH h l, 13, 0⟩
def Adr.vidDstX (h : Nat) (l : Nat) : Nat := 0x80220 + 0x4000 * h + 0x80 * l
def Fd.vidDstXX (h : Nat) (l : Nat) : FieldAt := ⟨Adr.vidDstX h l, 14, 0⟩
def Adr.vidDstY (h : Nat) (l : Nat) : Nat := 0x80224 + 0x4000 * h + 0x80 * l
def Fd.vidDstYY (h : Nat) (l : Nat) : FieldAt := ⟨Adr.vidDstY h l, 14, 0⟩
def Adr.vidDstW (h : Nat) (l : Nat) : Nat := 0x80228 + 0x4000 * h + 0x80 * l
def Fd.vidDstWW (h : Nat) (l : Nat) : FieldAt := ⟨Adr.vidDstW h l, 13, 0⟩
def Adr.vidDstH (h : Nat) (l : Nat) : Nat := 0x8022C + 0x4000 * h + 0x80 * l
def Fd.vidDstHH (h : Nat) (l : Nat) : FieldAt := ⟨Adr.vidDstH h l, 13, 0⟩
def Adr.vidStepX (h : Nat) (l : Nat) : Nat := 0x80230 + 0x4000 * h + 0x80 * l
def Fd.vidStepXStep (h : Nat) (l : Nat) : FieldAt := ⟨Adr.vidStepX h l, 19, 0⟩
def Adr.vidStepY (h : Nat) (l : Nat) : Nat := 0x80234 + 0x4000 * h + 0x80 * l
def Fd.vidStepYStep (h : Nat) (l : Nat) : FieldAt := ⟨Adr.vidStepY h l, 19, 0⟩
def Adr.vidInitX (h : Nat) (l : Nat) : Nat := 0x80238 + 0x4000 * h + 0x80 * l
def Fd.vidInitXPhase (h : Nat) (l : Nat) : FieldAt := ⟨Adr.vidInitX h l, 15, 0⟩
def Adr.vidInitY (h : Nat) (l : Nat) : Nat := 0x8023C + 0x4000 * h + 0x80 * l
def Fd.vidInitYPhase (h : Nat) (l : Nat) : FieldAt := ⟨Adr.vidInitY h l, 15, 0⟩
def Adr.vidAlpha (h : Nat) (l : Nat) : Nat := 0x80240 + 0x4000 * h + 0x80 * l
def Fd.vidAlphaA3a0 (h : Nat) (l : Nat) : FieldAt := ⟨Adr.vidAlpha h l, 31, 0⟩
def Adr.vidCoefIdx (h : Nat) (l : Nat) : Nat := 0x80244 + 0x4000 * h + 0x80 * l
def Fd.vidCoefIdxV (h : Nat) (l : Nat) : FieldAt := ⟨Adr.vidCoefIdx h l, 8, 8⟩
def Fd.vidCoefIdxPhase (h : Nat) (l : Nat) : FieldAt := ⟨Adr.vidCoefIdx h l, 7, 3⟩
def Fd.vidCoefIdxTap (h : Nat) (l : Nat) : FieldAt := ⟨Adr.vidCoefIdx h l, 2, 0⟩
def Adr.vidCoefData (h : Nat) (l : Nat) : Nat := 0x80248 + 0x4000 * h + 0x80 * l
def Fd.vidCoefDataC (h : Nat) (l : Nat) : FieldAt := ⟨Adr.vidCoefData h l, 9, 0⟩
def Adr.vidStat (h : Nat) (l : Nat) : Nat := 0x8024C + 0x4000 * h + 0x80 * l
def Fd.vidStatErr (h : Nat) (l : Nat) : FieldAt := ⟨Adr.vidStat h l, 1, 1⟩
def Fd.vidStatPoison (h : Nat) (l : Nat) : FieldAt := ⟨Adr.vidStat h l, 0, 0⟩
def Adr.tilCtrl (h : Nat) (l : Nat) : Nat := 0x80400 + 0x4000 * h + 0x40 * l
def Fd.tilCtrlHintEn (h : Nat) (l : Nat) : FieldAt := ⟨Adr.tilCtrl h l, 11, 11⟩
def Fd.tilCtrlZeroOp (h : Nat) (l : Nat) : FieldAt := ⟨Adr.tilCtrl h l, 10, 10⟩
def Fd.tilCtrlAdd (h : Nat) (l : Nat) : FieldAt := ⟨Adr.tilCtrl h l, 9, 9⟩
def Fd.tilCtrlFmt (h : Nat) (l : Nat) : FieldAt := ⟨Adr.tilCtrl h l, 8, 6⟩
def Fd.tilCtrlSize (h : Nat) (l : Nat) : FieldAt := ⟨Adr.tilCtrl h l, 5, 4⟩
def Fd.tilCtrlEn (h : Nat) (l : Nat) : FieldAt := ⟨Adr.tilCtrl h l, 0, 0⟩
def Adr.tilMapBase (h : Nat) (l : Nat) : Nat := 0x80404 + 0x4000 * h + 0x40 * l
def Fd.tilMapBaseBase (h : Nat) (l : Nat) : FieldAt := ⟨Adr.tilMapBase h l, 18, 0⟩
def Adr.tilScroll (h : Nat) (l : Nat) : Nat := 0x80408 + 0x4000 * h + 0x40 * l
def Fd.tilScrollXOff (h : Nat) (l : Nat) : FieldAt := ⟨Adr.tilScroll h l, 16, 0⟩
def Adr.tilVscroll (h : Nat) (l : Nat) : Nat := 0x8040C + 0x4000 * h + 0x40 * l
def Fd.tilVscrollYOff (h : Nat) (l : Nat) : FieldAt := ⟨Adr.tilVscroll h l, 16, 0⟩
def Adr.tilMapW (h : Nat) (l : Nat) : Nat := 0x80410 + 0x4000 * h + 0x40 * l
def Fd.tilMapWWM1 (h : Nat) (l : Nat) : FieldAt := ⟨Adr.tilMapW h l, 11, 0⟩
def Adr.tilMapH (h : Nat) (l : Nat) : Nat := 0x80414 + 0x4000 * h + 0x40 * l
def Fd.tilMapHHM1 (h : Nat) (l : Nat) : FieldAt := ⟨Adr.tilMapH h l, 11, 0⟩
def Adr.tilMapPitch (h : Nat) (l : Nat) : Nat := 0x80418 + 0x4000 * h + 0x40 * l
def Fd.tilMapPitchPitch (h : Nat) (l : Nat) : FieldAt := ⟨Adr.tilMapPitch h l, 12, 0⟩
def Adr.tilPatBase (h : Nat) (l : Nat) : Nat := 0x8041C + 0x4000 * h + 0x40 * l
def Fd.tilPatBaseBase (h : Nat) (l : Nat) : FieldAt := ⟨Adr.tilPatBase h l, 27, 0⟩
def Adr.tilPalBase (h : Nat) (l : Nat) : Nat := 0x80420 + 0x4000 * h + 0x40 * l
def Fd.tilPalBaseBase (h : Nat) (l : Nat) : FieldAt := ⟨Adr.tilPalBase h l, 13, 0⟩
def Adr.tilAlpha (h : Nat) (l : Nat) : Nat := 0x80424 + 0x4000 * h + 0x40 * l
def Fd.tilAlphaA3a0 (h : Nat) (l : Nat) : FieldAt := ⟨Adr.tilAlpha h l, 31, 0⟩
def Adr.tilClipX0 (h : Nat) (l : Nat) : Nat := 0x80428 + 0x4000 * h + 0x40 * l
def Fd.tilClipX0X0 (h : Nat) (l : Nat) : FieldAt := ⟨Adr.tilClipX0 h l, 13, 0⟩
def Adr.tilClipX1 (h : Nat) (l : Nat) : Nat := 0x8042C + 0x4000 * h + 0x40 * l
def Fd.tilClipX1X1 (h : Nat) (l : Nat) : FieldAt := ⟨Adr.tilClipX1 h l, 13, 0⟩
def Adr.tilStat (h : Nat) (l : Nat) : Nat := 0x80430 + 0x4000 * h + 0x40 * l
def Fd.tilStatPoison (h : Nat) (l : Nat) : FieldAt := ⟨Adr.tilStat h l, 0, 0⟩
def Adr.sprEval (h : Nat) : Nat := 0x80600 + 0x4000 * h
def Fd.sprEvalEn (h : Nat) : FieldAt := ⟨Adr.sprEval h, 19, 19⟩
def Fd.sprEvalCount (h : Nat) : FieldAt := ⟨Adr.sprEval h, 14, 0⟩
def Adr.sprFirst (h : Nat) : Nat := 0x80604 + 0x4000 * h
def Fd.sprFirstFirst (h : Nat) : FieldAt := ⟨Adr.sprFirst h, 13, 0⟩
def Adr.sprStat (h : Nat) : Nat := 0x80608 + 0x4000 * h
def Fd.sprStatNoeval (h : Nat) : FieldAt := ⟨Adr.sprStat h, 3, 3⟩
def Fd.sprStatPoison (h : Nat) : FieldAt := ⟨Adr.sprStat h, 2, 2⟩
def Fd.sprStatLate (h : Nat) : FieldAt := ⟨Adr.sprStat h, 1, 1⟩
def Fd.sprStatLimit (h : Nat) : FieldAt := ⟨Adr.sprStat h, 0, 0⟩
def Adr.sprList (h : Nat) : Nat := 0x8060C + 0x4000 * h
def Fd.sprListShown (h : Nat) : FieldAt := ⟨Adr.sprList h, 8, 0⟩
def Adr.sprDropped (h : Nat) : Nat := 0x80610 + 0x4000 * h
def Fd.sprDroppedCount (h : Nat) : FieldAt := ⟨Adr.sprDropped h, 19, 0⟩
def Adr.sprLast (h : Nat) : Nat := 0x80614 + 0x4000 * h
def Fd.sprLastLine (h : Nat) : FieldAt := ⟨Adr.sprLast h, 12, 0⟩
def Adr.planeCtrl (h : Nat) (l : Nat) : Nat := 0x80640 + 0x4000 * h + 0x20 * l
def Fd.planeCtrlCoverEn (h : Nat) (l : Nat) : FieldAt := ⟨Adr.planeCtrl h l, 2, 2⟩
def Fd.planeCtrlAdd (h : Nat) (l : Nat) : FieldAt := ⟨Adr.planeCtrl h l, 1, 1⟩
def Fd.planeCtrlEn (h : Nat) (l : Nat) : FieldAt := ⟨Adr.planeCtrl h l, 0, 0⟩
def Adr.planePatBase (h : Nat) (l : Nat) : Nat := 0x80644 + 0x4000 * h + 0x20 * l
def Fd.planePatBaseBase (h : Nat) (l : Nat) : FieldAt := ⟨Adr.planePatBase h l, 27, 0⟩
def Adr.planePalBase (h : Nat) (l : Nat) : Nat := 0x80648 + 0x4000 * h + 0x20 * l
def Fd.planePalBaseBase (h : Nat) (l : Nat) : FieldAt := ⟨Adr.planePalBase h l, 13, 0⟩
def Adr.planeAlpha (h : Nat) (l : Nat) : Nat := 0x8064C + 0x4000 * h + 0x20 * l
def Fd.planeAlphaA3a0 (h : Nat) (l : Nat) : FieldAt := ⟨Adr.planeAlpha h l, 31, 0⟩
def Adr.planeStat (h : Nat) (l : Nat) : Nat := 0x80650 + 0x4000 * h + 0x20 * l
def Fd.planeStatPoison (h : Nat) (l : Nat) : FieldAt := ⟨Adr.planeStat h l, 0, 0⟩
def Adr.headHctrl (h : Nat) : Nat := 0x80000 + 0x4000 * h
def Fd.headHctrlBlank (h : Nat) : FieldAt := ⟨Adr.headHctrl h, 4, 4⟩
def Fd.headHctrlInterlace (h : Nat) : FieldAt := ⟨Adr.headHctrl h, 3, 3⟩
def Fd.headHctrlOut (h : Nat) : FieldAt := ⟨Adr.headHctrl h, 2, 1⟩
def Fd.headHctrlRun (h : Nat) : FieldAt := ⟨Adr.headHctrl h, 0, 0⟩
def Adr.headHstat (h : Nat) : Nat := 0x80004 + 0x4000 * h
def Fd.headHstatAlarmBlank (h : Nat) : FieldAt := ⟨Adr.headHstat h, 5, 5⟩
def Fd.headHstatLoop (h : Nat) : FieldAt := ⟨Adr.headHstat h, 4, 4⟩
def Fd.headHstatBadMode (h : Nat) : FieldAt := ⟨Adr.headHstat h, 3, 3⟩
def Fd.headHstatRejected (h : Nat) : FieldAt := ⟨Adr.headHstat h, 2, 2⟩
def Fd.headHstatStopping (h : Nat) : FieldAt := ⟨Adr.headHstat h, 1, 1⟩
def Fd.headHstatRunning (h : Nat) : FieldAt := ⟨Adr.headHstat h, 0, 0⟩
def Adr.headHactive (h : Nat) : Nat := 0x80008 + 0x4000 * h
def Fd.headHactiveHactive (h : Nat) : FieldAt := ⟨Adr.headHactive h, 13, 0⟩
def Adr.headHtotal (h : Nat) : Nat := 0x8000C + 0x4000 * h
def Fd.headHtotalHtotal (h : Nat) : FieldAt := ⟨Adr.headHtotal h, 14, 0⟩
def Adr.headHsync (h : Nat) : Nat := 0x80010 + 0x4000 * h
def Fd.headHsyncHsWidth (h : Nat) : FieldAt := ⟨Adr.headHsync h, 29, 16⟩
def Fd.headHsyncHsStart (h : Nat) : FieldAt := ⟨Adr.headHsync h, 13, 0⟩
def Adr.headVactive (h : Nat) : Nat := 0x80014 + 0x4000 * h
def Fd.headVactiveVactive (h : Nat) : FieldAt := ⟨Adr.headVactive h, 12, 0⟩
def Adr.headVtotal (h : Nat) : Nat := 0x80018 + 0x4000 * h
def Fd.headVtotalVtotal (h : Nat) : FieldAt := ⟨Adr.headVtotal h, 13, 0⟩
def Adr.headVsync (h : Nat) : Nat := 0x8001C + 0x4000 * h
def Fd.headVsyncVsWidth (h : Nat) : FieldAt := ⟨Adr.headVsync h, 28, 16⟩
def Fd.headVsyncVsStart (h : Nat) : FieldAt := ⟨Adr.headVsync h, 12, 0⟩
def Adr.headPol (h : Nat) : Nat := 0x80020 + 0x4000 * h
def Fd.headPolDePol (h : Nat) : FieldAt := ⟨Adr.headPol h, 2, 2⟩
def Fd.headPolVsPol (h : Nat) : FieldAt := ⟨Adr.headPol h, 1, 1⟩
def Fd.headPolHsPol (h : Nat) : FieldAt := ⟨Adr.headPol h, 0, 0⟩
def Adr.headPclk (h : Nat) : Nat := 0x80024 + 0x4000 * h
def Fd.headPclkKhz (h : Nat) : FieldAt := ⟨Adr.headPclk h, 20, 0⟩
def Adr.headPclkStat (h : Nat) : Nat := 0x80028 + 0x4000 * h
def Fd.headPclkStatLocked (h : Nat) : FieldAt := ⟨Adr.headPclkStat h, 16, 16⟩
def Fd.headPclkStatPpm (h : Nat) : FieldAt := ⟨Adr.headPclkStat h, 15, 0⟩
def Adr.headSyncCfg (h : Nat) : Nat := 0x80030 + 0x4000 * h
def Fd.headSyncCfgPost (h : Nat) : FieldAt := ⟨Adr.headSyncCfg h, 25, 16⟩
def Fd.headSyncCfgMisses (h : Nat) : FieldAt := ⟨Adr.headSyncCfg h, 14, 12⟩
def Fd.headSyncCfgLeader (h : Nat) : FieldAt := ⟨Adr.headSyncCfg h, 10, 8⟩
def Fd.headSyncCfgEdge (h : Nat) : FieldAt := ⟨Adr.headSyncCfg h, 4, 4⟩
def Fd.headSyncCfgSrc (h : Nat) : FieldAt := ⟨Adr.headSyncCfg h, 2, 0⟩
def Adr.headSyncPos (h : Nat) : Nat := 0x80034 + 0x4000 * h
def Fd.headSyncPosLine (h : Nat) : FieldAt := ⟨Adr.headSyncPos h, 26, 14⟩
def Fd.headSyncPosColumn (h : Nat) : FieldAt := ⟨Adr.headSyncPos h, 13, 0⟩
def Adr.headSyncTol (h : Nat) : Nat := 0x80038 + 0x4000 * h
def Fd.headSyncTolPull (h : Nat) : FieldAt := ⟨Adr.headSyncTol h, 31, 16⟩
def Fd.headSyncTolTol (h : Nat) : FieldAt := ⟨Adr.headSyncTol h, 15, 0⟩
def Adr.headSpanPer (h : Nat) : Nat := 0x8003C + 0x4000 * h
def Fd.headSpanPerNs (h : Nat) : FieldAt := ⟨Adr.headSpanPer h, 31, 0⟩
def Adr.headSpanPh (h : Nat) : Nat := 0x80040 + 0x4000 * h
def Fd.headSpanPhNs (h : Nat) : FieldAt := ⟨Adr.headSpanPh h, 31, 0⟩
def Adr.headSyncStat (h : Nat) : Nat := 0x80044 + 0x4000 * h
def Fd.headSyncStatLocked (h : Nat) : FieldAt := ⟨Adr.headSyncStat h, 19, 19⟩
def Fd.headSyncStatHoldover (h : Nat) : FieldAt := ⟨Adr.headSyncStat h, 18, 18⟩
def Fd.headSyncStatAcquiring (h : Nat) : FieldAt := ⟨Adr.headSyncStat h, 17, 17⟩
def Fd.headSyncStatMiss (h : Nat) : FieldAt := ⟨Adr.headSyncStat h, 2, 0⟩
def Adr.headSyncErr (h : Nat) : Nat := 0x80048 + 0x4000 * h
def Fd.headSyncErrE (h : Nat) : FieldAt := ⟨Adr.headSyncErr h, 19, 0⟩
def Adr.headRelocks (h : Nat) : Nat := 0x8004C + 0x4000 * h
def Fd.headRelocksCount (h : Nat) : FieldAt := ⟨Adr.headRelocks h, 19, 0⟩
def Adr.headOutDelay (h : Nat) : Nat := 0x80050 + 0x4000 * h
def Fd.headOutDelayNs (h : Nat) : FieldAt := ⟨Adr.headOutDelay h, 15, 0⟩
def Adr.headEv (h : Nat) (k : Nat) : Nat := 0x80700 + 0x4000 * h + 0x4 * k
def Fd.headEvEn (h : Nat) (k : Nat) : FieldAt := ⟨Adr.headEv h k, 8, 8⟩
def Fd.headEvChan (h : Nat) (k : Nat) : FieldAt := ⟨Adr.headEv h k, 7, 0⟩
def Adr.headUnderruns (h : Nat) : Nat := 0x80720 + 0x4000 * h
def Fd.headUnderrunsCount (h : Nat) : FieldAt := ⟨Adr.headUnderruns h, 19, 0⟩
def Adr.headUrLast (h : Nat) : Nat := 0x80724 + 0x4000 * h
def Fd.headUrLastLine (h : Nat) : FieldAt := ⟨Adr.headUrLast h, 12, 0⟩
def Adr.headHevt (h : Nat) : Nat := 0x80728 + 0x4000 * h
def Fd.headHevtBits (h : Nat) : FieldAt := ⟨Adr.headHevt h, 6, 0⟩
def Adr.headHevtEn (h : Nat) : Nat := 0x8072C + 0x4000 * h
def Fd.headHevtEnBits (h : Nat) : FieldAt := ⟨Adr.headHevtEn h, 6, 0⟩
def Adr.headWitFrame (h : Nat) : Nat := 0x80780 + 0x4000 * h
def Fd.headWitFrameFrame (h : Nat) : FieldAt := ⟨Adr.headWitFrame h, 19, 0⟩
def Adr.headWitSpanLo (h : Nat) : Nat := 0x80784 + 0x4000 * h
def Fd.headWitSpanLoT (h : Nat) : FieldAt := ⟨Adr.headWitSpanLo h, 31, 0⟩
def Adr.headWitSpanHi (h : Nat) : Nat := 0x80788 + 0x4000 * h
def Fd.headWitSpanHiT (h : Nat) : FieldAt := ⟨Adr.headWitSpanHi h, 27, 0⟩
def Adr.headWitFlags (h : Nat) : Nat := 0x8078C + 0x4000 * h
def Fd.headWitFlagsFlags (h : Nat) : FieldAt := ⟨Adr.headWitFlags h, 4, 0⟩
def Adr.headDpCtrl (h : Nat) : Nat := 0x80800 + 0x4000 * h
def Fd.headDpCtrlSsc (h : Nat) : FieldAt := ⟨Adr.headDpCtrl h, 9, 9⟩
def Fd.headDpCtrlEn (h : Nat) : FieldAt := ⟨Adr.headDpCtrl h, 8, 8⟩
def Fd.headDpCtrlRate (h : Nat) : FieldAt := ⟨Adr.headDpCtrl h, 7, 4⟩
def Fd.headDpCtrlLanes (h : Nat) : FieldAt := ⟨Adr.headDpCtrl h, 1, 0⟩
def Adr.headDpTrain (h : Nat) : Nat := 0x80804 + 0x4000 * h
def Fd.headDpTrainGo (h : Nat) : FieldAt := ⟨Adr.headDpTrain h, 0, 0⟩
def Adr.headDpStat (h : Nat) : Nat := 0x80808 + 0x4000 * h
def Fd.headDpStatTooSlow (h : Nat) : FieldAt := ⟨Adr.headDpStat h, 12, 12⟩
def Fd.headDpStatHpd (h : Nat) : FieldAt := ⟨Adr.headDpStat h, 11, 11⟩
def Fd.headDpStatTrained (h : Nat) : FieldAt := ⟨Adr.headDpStat h, 10, 10⟩
def Fd.headDpStatLanes (h : Nat) : FieldAt := ⟨Adr.headDpStat h, 9, 8⟩
def Fd.headDpStatRate (h : Nat) : FieldAt := ⟨Adr.headDpStat h, 7, 4⟩
def Fd.headDpStatTraining (h : Nat) : FieldAt := ⟨Adr.headDpStat h, 3, 3⟩
def Adr.headAuxCmd (h : Nat) : Nat := 0x80840 + 0x4000 * h
def Fd.headAuxCmdCmd (h : Nat) : FieldAt := ⟨Adr.headAuxCmd h, 31, 28⟩
def Fd.headAuxCmdAddr (h : Nat) : FieldAt := ⟨Adr.headAuxCmd h, 27, 8⟩
def Fd.headAuxCmdLen (h : Nat) : FieldAt := ⟨Adr.headAuxCmd h, 3, 0⟩
def Adr.headAuxData (h : Nat) (j : Nat) : Nat := 0x80844 + 0x4000 * h + 0x4 * j
def Fd.headAuxDataData (h : Nat) (j : Nat) : FieldAt := ⟨Adr.headAuxData h j, 31, 0⟩
def Adr.headAuxStat (h : Nat) : Nat := 0x80854 + 0x4000 * h
def Fd.headAuxStatBusy (h : Nat) : FieldAt := ⟨Adr.headAuxStat h, 19, 19⟩
def Fd.headAuxStatReply (h : Nat) : FieldAt := ⟨Adr.headAuxStat h, 18, 16⟩
def Fd.headAuxStatCount (h : Nat) : FieldAt := ⟨Adr.headAuxStat h, 4, 0⟩
def Adr.headLvdsCfg (h : Nat) : Nat := 0x80880 + 0x4000 * h
def Fd.headLvdsCfgEn (h : Nat) : FieldAt := ⟨Adr.headLvdsCfg h, 4, 4⟩
def Fd.headLvdsCfgSwap (h : Nat) : FieldAt := ⟨Adr.headLvdsCfg h, 3, 3⟩
def Fd.headLvdsCfgMap (h : Nat) : FieldAt := ⟨Adr.headLvdsCfg h, 2, 2⟩
def Fd.headLvdsCfgBits24 (h : Nat) : FieldAt := ⟨Adr.headLvdsCfg h, 1, 1⟩
def Fd.headLvdsCfgDual (h : Nat) : FieldAt := ⟨Adr.headLvdsCfg h, 0, 0⟩
def Adr.headParCfg (h : Nat) : Nat := 0x808C0 + 0x4000 * h
def Fd.headParCfgTwHi (h : Nat) : FieldAt := ⟨Adr.headParCfg h, 20, 16⟩
def Fd.headParCfgTwLo (h : Nat) : FieldAt := ⟨Adr.headParCfg h, 12, 8⟩
def Fd.headParCfgBus18 (h : Nat) : FieldAt := ⟨Adr.headParCfg h, 0, 0⟩
def Adr.headParN (h : Nat) : Nat := 0x808C4 + 0x4000 * h
def Fd.headParNCount (h : Nat) : FieldAt := ⟨Adr.headParN h, 4, 0⟩
def Adr.headParPre (h : Nat) (k : Nat) : Nat := 0x808C8 + 0x4000 * h + 0x4 * k
def Fd.headParPreEntryodd (h : Nat) (k : Nat) : FieldAt := ⟨Adr.headParPre h k, 24, 16⟩
def Fd.headParPreEntryeven (h : Nat) (k : Nat) : FieldAt := ⟨Adr.headParPre h k, 8, 0⟩
def Adr.audCfg : Nat := 0xC0000
def Fd.audCfgRate : FieldAt := ⟨Adr.audCfg, 4, 4⟩
def Fd.audCfgRun : FieldAt := ⟨Adr.audCfg, 0, 0⟩
def Adr.audStat : Nat := 0xC0004
def Fd.audStatAlarmMute : FieldAt := ⟨Adr.audStat, 5, 5⟩
def Fd.audStatBadLoop : FieldAt := ⟨Adr.audStat, 4, 4⟩
def Fd.audStatClip : FieldAt := ⟨Adr.audStat, 3, 3⟩
def Fd.audStatErr : FieldAt := ⟨Adr.audStat, 2, 2⟩
def Fd.audStatPoison : FieldAt := ⟨Adr.audStat, 1, 1⟩
def Fd.audStatLate : FieldAt := ⟨Adr.audStat, 0, 0⟩
def Adr.audIen : Nat := 0xC0008
def Fd.audIenEn : FieldAt := ⟨Adr.audIen, 4, 0⟩
def Adr.audActive : Nat := 0xC000C
def Fd.audActiveCount : FieldAt := ⟨Adr.audActive, 9, 0⟩
def Adr.audLateCnt : Nat := 0xC0010
def Fd.audLateCntCount : FieldAt := ⟨Adr.audLateCnt, 19, 0⟩
def Adr.vCtrl (v : Nat) : Nat := 0xD0000 + 0x80 * v
def Fd.vCtrlFmt (v : Nat) : FieldAt := ⟨Adr.vCtrl v, 19, 18⟩
def Fd.vCtrlLoop (v : Nat) : FieldAt := ⟨Adr.vCtrl v, 17, 17⟩
def Fd.vCtrlInterp (v : Nat) : FieldAt := ⟨Adr.vCtrl v, 16, 16⟩
def Fd.vCtrlKonEn (v : Nat) : FieldAt := ⟨Adr.vCtrl v, 15, 15⟩
def Fd.vCtrlKonChan (v : Nat) : FieldAt := ⟨Adr.vCtrl v, 7, 0⟩
def Adr.vKey (v : Nat) : Nat := 0xD0004 + 0x80 * v
def Fd.vKeyKey (v : Nat) : FieldAt := ⟨Adr.vKey v, 1, 0⟩
def Adr.vStartLo (v : Nat) : Nat := 0xD0008 + 0x80 * v
def Fd.vStartLoLo (v : Nat) : FieldAt := ⟨Adr.vStartLo v, 19, 0⟩
def Adr.vStartHi (v : Nat) : Nat := 0xD000C + 0x80 * v
def Fd.vStartHiHi (v : Nat) : FieldAt := ⟨Adr.vStartHi v, 19, 0⟩
def Adr.vLoopS (v : Nat) : Nat := 0xD0010 + 0x80 * v
def Fd.vLoopSS (v : Nat) : FieldAt := ⟨Adr.vLoopS v, 19, 0⟩
def Adr.vLoopE (v : Nat) : Nat := 0xD0014 + 0x80 * v
def Fd.vLoopEE (v : Nat) : FieldAt := ⟨Adr.vLoopE v, 19, 0⟩
def Adr.vEnd (v : Nat) : Nat := 0xD0018 + 0x80 * v
def Fd.vEndEnd (v : Nat) : FieldAt := ⟨Adr.vEnd v, 19, 0⟩
def Adr.vPitch (v : Nat) : Nat := 0xD001C + 0x80 * v
def Fd.vPitchStep (v : Nat) : FieldAt := ⟨Adr.vPitch v, 19, 0⟩
def Adr.vAtk (v : Nat) : Nat := 0xD0020 + 0x80 * v
def Fd.vAtkAtk (v : Nat) : FieldAt := ⟨Adr.vAtk v, 15, 0⟩
def Adr.vDec (v : Nat) : Nat := 0xD0024 + 0x80 * v
def Fd.vDecDec (v : Nat) : FieldAt := ⟨Adr.vDec v, 15, 0⟩
def Adr.vSus (v : Nat) : Nat := 0xD0028 + 0x80 * v
def Fd.vSusSus (v : Nat) : FieldAt := ⟨Adr.vSus v, 7, 0⟩
def Adr.vRel (v : Nat) : Nat := 0xD002C + 0x80 * v
def Fd.vRelRel (v : Nat) : FieldAt := ⟨Adr.vRel v, 15, 0⟩
def Adr.vEvt (v : Nat) : Nat := 0xD0030 + 0x80 * v
def Fd.vEvtEndEn (v : Nat) : FieldAt := ⟨Adr.vEvt v, 19, 19⟩
def Fd.vEvtLoopEn (v : Nat) : FieldAt := ⟨Adr.vEvt v, 18, 18⟩
def Fd.vEvtChan (v : Nat) : FieldAt := ⟨Adr.vEvt v, 7, 0⟩
def Adr.vStat (v : Nat) : Nat := 0xD0034 + 0x80 * v
def Fd.vStatPhase (v : Nat) : FieldAt := ⟨Adr.vStat v, 19, 17⟩
def Fd.vStatErr (v : Nat) : FieldAt := ⟨Adr.vStat v, 5, 5⟩
def Fd.vStatBadLoop (v : Nat) : FieldAt := ⟨Adr.vStat v, 4, 4⟩
def Fd.vStatPoison (v : Nat) : FieldAt := ⟨Adr.vStat v, 3, 3⟩
def Fd.vStatLate (v : Nat) : FieldAt := ⟨Adr.vStat v, 2, 2⟩
def Fd.vStatLooped (v : Nat) : FieldAt := ⟨Adr.vStat v, 1, 1⟩
def Fd.vStatEnded (v : Nat) : FieldAt := ⟨Adr.vStat v, 0, 0⟩
def Adr.vPos (v : Nat) : Nat := 0xD0038 + 0x80 * v
def Fd.vPosI (v : Nat) : FieldAt := ⟨Adr.vPos v, 19, 0⟩
def Adr.vEnv (v : Nat) : Nat := 0xD003C + 0x80 * v
def Fd.vEnvE (v : Nat) : FieldAt := ⟨Adr.vEnv v, 19, 0⟩
def Adr.vSend (v : Nat) (k : Nat) : Nat := 0xD0040 + 0x80 * v + 0x8 * k
def Fd.vSendEn (v : Nat) (k : Nat) : FieldAt := ⟨Adr.vSend v k, 19, 19⟩
def Fd.vSendBus (v : Nat) (k : Nat) : FieldAt := ⟨Adr.vSend v k, 18, 14⟩
def Fd.vSendPan (v : Nat) (k : Nat) : FieldAt := ⟨Adr.vSend v k, 8, 0⟩
def Adr.vSlev (v : Nat) (k : Nat) : Nat := 0xD0044 + 0x80 * v + 0x8 * k
def Fd.vSlevLevel (v : Nat) (k : Nat) : FieldAt := ⟨Adr.vSlev v k, 7, 0⟩
def Adr.busCfg (b : Nat) : Nat := 0xC1000 + 0x40 * b
def Fd.busCfgNmin (b : Nat) : FieldAt := ⟨Adr.busCfg b, 8, 0⟩
def Adr.busGain (b : Nat) : Nat := 0xC1004 + 0x40 * b
def Fd.busGainGain (b : Nat) : FieldAt := ⟨Adr.busGain b, 15, 0⟩
def Adr.busSend (b : Nat) : Nat := 0xC1008 + 0x40 * b
def Fd.busSendEn (b : Nat) : FieldAt := ⟨Adr.busSend b, 19, 19⟩
def Fd.busSendDest (b : Nat) : FieldAt := ⟨Adr.busSend b, 18, 14⟩
def Fd.busSendLevel (b : Nat) : FieldAt := ⟨Adr.busSend b, 7, 0⟩
def Adr.busN (b : Nat) : Nat := 0xC100C + 0x40 * b
def Fd.busNN (b : Nat) : FieldAt := ⟨Adr.busN b, 9, 0⟩
def Adr.busMtrCfg (b : Nat) : Nat := 0xC1010 + 0x40 * b
def Fd.busMtrCfgWin (b : Nat) : FieldAt := ⟨Adr.busMtrCfg b, 19, 16⟩
def Fd.busMtrCfgDec (b : Nat) : FieldAt := ⟨Adr.busMtrCfg b, 15, 12⟩
def Fd.busMtrCfgHold (b : Nat) : FieldAt := ⟨Adr.busMtrCfg b, 11, 0⟩
def Adr.busMtrThr (b : Nat) : Nat := 0xC1014 + 0x40 * b
def Fd.busMtrThrThr (b : Nat) : FieldAt := ⟨Adr.busMtrThr b, 18, 0⟩
def Adr.busMtrEvt (b : Nat) : Nat := 0xC1018 + 0x40 * b
def Fd.busMtrEvtEn (b : Nat) : FieldAt := ⟨Adr.busMtrEvt b, 19, 19⟩
def Fd.busMtrEvtChan (b : Nat) : FieldAt := ⟨Adr.busMtrEvt b, 7, 0⟩
def Adr.busLvlL (b : Nat) : Nat := 0xC101C + 0x40 * b
def Fd.busLvlLLvl (b : Nat) : FieldAt := ⟨Adr.busLvlL b, 18, 0⟩
def Adr.busLvlR (b : Nat) : Nat := 0xC1020 + 0x40 * b
def Fd.busLvlRLvl (b : Nat) : FieldAt := ⟨Adr.busLvlR b, 18, 0⟩
def Adr.busPeakL (b : Nat) : Nat := 0xC1024 + 0x40 * b
def Fd.busPeakLPeak (b : Nat) : FieldAt := ⟨Adr.busPeakL b, 18, 0⟩
def Adr.busPeakR (b : Nat) : Nat := 0xC1028 + 0x40 * b
def Fd.busPeakRPeak (b : Nat) : FieldAt := ⟨Adr.busPeakR b, 18, 0⟩
def Adr.busStat (b : Nat) : Nat := 0xC102C + 0x40 * b
def Fd.busStatBadSend (b : Nat) : FieldAt := ⟨Adr.busStat b, 3, 3⟩
def Fd.busStatOver (b : Nat) : FieldAt := ⟨Adr.busStat b, 2, 2⟩
def Fd.busStatClipR (b : Nat) : FieldAt := ⟨Adr.busStat b, 1, 1⟩
def Fd.busStatClipL (b : Nat) : FieldAt := ⟨Adr.busStat b, 0, 0⟩
def Adr.portCfg (k : Nat) : Nat := 0xC2000 + 0x40 * k
def Fd.portCfgDir (k : Nat) : FieldAt := ⟨Adr.portCfg k, 17, 17⟩
def Fd.portCfgMode (k : Nat) : FieldAt := ⟨Adr.portCfg k, 16, 15⟩
def Fd.portCfgSlots (k : Nat) : FieldAt := ⟨Adr.portCfg k, 14, 13⟩
def Fd.portCfgWidth (k : Nat) : FieldAt := ⟨Adr.portCfg k, 12, 11⟩
def Fd.portCfgMclk (k : Nat) : FieldAt := ⟨Adr.portCfg k, 10, 10⟩
def Adr.portRun (k : Nat) : Nat := 0xC2004 + 0x40 * k
def Fd.portRunRun (k : Nat) : FieldAt := ⟨Adr.portRun k, 0, 0⟩
def Adr.portCh (k : Nat) (j : Nat) : Nat := 0xC2010 + 0x40 * k + 0x4 * j
def Fd.portChEn (k : Nat) (j : Nat) : FieldAt := ⟨Adr.portCh k j, 19, 19⟩
def Fd.portChBus (k : Nat) (j : Nat) : FieldAt := ⟨Adr.portCh k j, 17, 13⟩
def Fd.portChSide (k : Nat) (j : Nat) : FieldAt := ⟨Adr.portCh k j, 12, 12⟩
def Adr.spdRun : Nat := 0xC2400
def Fd.spdRunRun : FieldAt := ⟨Adr.spdRun, 0, 0⟩
def Adr.spdCs : Nat := 0xC2404
def Fd.spdCsCopy : FieldAt := ⟨Adr.spdCs, 16, 16⟩
def Fd.spdCsCat : FieldAt := ⟨Adr.spdCs, 15, 8⟩
def Adr.spdCh (j : Nat) : Nat := 0xC2408 + 0x4 * j
def Fd.spdChEn (j : Nat) : FieldAt := ⟨Adr.spdCh j, 19, 19⟩
def Fd.spdChBus (j : Nat) : FieldAt := ⟨Adr.spdCh j, 17, 13⟩
def Fd.spdChSide (j : Nat) : FieldAt := ⟨Adr.spdCh j, 12, 12⟩
def Adr.dpaCfg (h : Nat) : Nat := 0xC2800 + 0x40 * h
def Fd.dpaCfgEn (h : Nat) : FieldAt := ⟨Adr.dpaCfg h, 19, 19⟩
def Fd.dpaCfgBits24 (h : Nat) : FieldAt := ⟨Adr.dpaCfg h, 4, 4⟩
def Fd.dpaCfgChans (h : Nat) : FieldAt := ⟨Adr.dpaCfg h, 1, 0⟩
def Adr.dpaCh (h : Nat) (j : Nat) : Nat := 0xC2810 + 0x40 * h + 0x4 * j
def Fd.dpaChEn (h : Nat) (j : Nat) : FieldAt := ⟨Adr.dpaCh h j, 19, 19⟩
def Fd.dpaChBus (h : Nat) (j : Nat) : FieldAt := ⟨Adr.dpaCh h j, 17, 13⟩
def Fd.dpaChSide (h : Nat) (j : Nat) : FieldAt := ⟨Adr.dpaCh h j, 12, 12⟩
def Adr.inSrc (i : Nat) : Nat := 0xC3000 + 0x20 * i
def Fd.inSrcEn (i : Nat) : FieldAt := ⟨Adr.inSrc i, 19, 19⟩
def Fd.inSrcKind (i : Nat) : FieldAt := ⟨Adr.inSrc i, 18, 18⟩
def Fd.inSrcLine (i : Nat) : FieldAt := ⟨Adr.inSrc i, 17, 14⟩
def Fd.inSrcSlot (i : Nat) : FieldAt := ⟨Adr.inSrc i, 13, 11⟩
def Adr.inSend (i : Nat) : Nat := 0xC3004 + 0x20 * i
def Fd.inSendEn (i : Nat) : FieldAt := ⟨Adr.inSend i, 19, 19⟩
def Fd.inSendBus (i : Nat) : FieldAt := ⟨Adr.inSend i, 18, 14⟩
def Fd.inSendPan (i : Nat) : FieldAt := ⟨Adr.inSend i, 8, 0⟩
def Adr.inSlev (i : Nat) : Nat := 0xC3008 + 0x20 * i
def Fd.inSlevLevel (i : Nat) : FieldAt := ⟨Adr.inSlev i, 7, 0⟩
def Adr.inLvl (i : Nat) : Nat := 0xC300C + 0x20 * i
def Fd.inLvlLvl (i : Nat) : FieldAt := ⟨Adr.inLvl i, 18, 0⟩
def Adr.postPcfg (n : Nat) : Nat := 0x100000 + 0x80 * n
def Fd.postPcfgFunc (n : Nat) : FieldAt := ⟨Adr.postPcfg n, 19, 16⟩
def Fd.postPcfgDrive (n : Nat) : FieldAt := ⟨Adr.postPcfg n, 15, 14⟩
def Fd.postPcfgPull (n : Nat) : FieldAt := ⟨Adr.postPcfg n, 13, 12⟩
def Fd.postPcfgSchmitt (n : Nat) : FieldAt := ⟨Adr.postPcfg n, 11, 11⟩
def Fd.postPcfgSlew (n : Nat) : FieldAt := ⟨Adr.postPcfg n, 10, 10⟩
def Fd.postPcfgOd (n : Nat) : FieldAt := ⟨Adr.postPcfg n, 9, 9⟩
def Fd.postPcfgSleep (n : Nat) : FieldAt := ⟨Adr.postPcfg n, 8, 7⟩
def Fd.postPcfgAwake (n : Nat) : FieldAt := ⟨Adr.postPcfg n, 6, 6⟩
def Adr.postOwn (n : Nat) : Nat := 0x100004 + 0x80 * n
def Fd.postOwnKind (n : Nat) : FieldAt := ⟨Adr.postOwn n, 19, 17⟩
def Fd.postOwnSecure (n : Nat) : FieldAt := ⟨Adr.postOwn n, 16, 16⟩
def Fd.postOwnIndex (n : Nat) : FieldAt := ⟨Adr.postOwn n, 6, 0⟩
def Adr.postGpio (n : Nat) : Nat := 0x100008 + 0x80 * n
def Fd.postGpioOe (n : Nat) : FieldAt := ⟨Adr.postGpio n, 1, 1⟩
def Fd.postGpioOut (n : Nat) : FieldAt := ⟨Adr.postGpio n, 0, 0⟩
def Adr.postPin (n : Nat) : Nat := 0x10000C + 0x80 * n
def Fd.postPinKeeper (n : Nat) : FieldAt := ⟨Adr.postPin n, 2, 2⟩
def Fd.postPinDrv (n : Nat) : FieldAt := ⟨Adr.postPin n, 1, 1⟩
def Fd.postPinLevel (n : Nat) : FieldAt := ⟨Adr.postPin n, 0, 0⟩
def Adr.postPeg (n : Nat) : Nat := 0x100010 + 0x80 * n
def Fd.postPegKey (n : Nat) : FieldAt := ⟨Adr.postPeg n, 19, 0⟩
def Adr.postPstat (n : Nat) : Nat := 0x100014 + 0x80 * n
def Fd.postPstatStage (n : Nat) : FieldAt := ⟨Adr.postPstat n, 4, 3⟩
def Fd.postPstatPegged (n : Nat) : FieldAt := ⟨Adr.postPstat n, 2, 2⟩
def Fd.postPstatRefused (n : Nat) : FieldAt := ⟨Adr.postPstat n, 1, 1⟩
def Fd.postPstatForeign (n : Nat) : FieldAt := ⟨Adr.postPstat n, 0, 0⟩
def Adr.postPwm (n : Nat) : Nat := 0x100018 + 0x80 * n
def Fd.postPwmHiUnit (n : Nat) : FieldAt := ⟨Adr.postPwm n, 19, 11⟩
def Fd.postPwmLoUnit (n : Nat) : FieldAt := ⟨Adr.postPwm n, 10, 2⟩
def Adr.prtBankCfg (p : Nat) : Nat := 0x120000 + 0x1000 * p
def Fd.prtBankCfgVsel (p : Nat) : FieldAt := ⟨Adr.prtBankCfg p, 0, 0⟩
def Adr.prtBankStat (p : Nat) : Nat := 0x120004 + 0x1000 * p
def Fd.prtBankStatAlarmSleep (p : Nat) : FieldAt := ⟨Adr.prtBankStat p, 3, 3⟩
def Fd.prtBankStatMismatch (p : Nat) : FieldAt := ⟨Adr.prtBankStat p, 2, 2⟩
def Fd.prtBankStatPresent (p : Nat) : FieldAt := ⟨Adr.prtBankStat p, 1, 1⟩
def Fd.prtBankStatV33 (p : Nat) : FieldAt := ⟨Adr.prtBankStat p, 0, 0⟩
def Adr.prtIn (p : Nat) : Nat := 0x120008 + 0x1000 * p
def Fd.prtInLevel (p : Nat) : FieldAt := ⟨Adr.prtIn p, 31, 0⟩
def Adr.prtOutSet (p : Nat) : Nat := 0x12000C + 0x1000 * p
def Fd.prtOutSetSet (p : Nat) : FieldAt := ⟨Adr.prtOutSet p, 31, 0⟩
def Adr.prtOutClr (p : Nat) : Nat := 0x120010 + 0x1000 * p
def Fd.prtOutClrClr (p : Nat) : FieldAt := ⟨Adr.prtOutClr p, 31, 0⟩
def Adr.prtOeSet (p : Nat) : Nat := 0x120014 + 0x1000 * p
def Fd.prtOeSetSet (p : Nat) : FieldAt := ⟨Adr.prtOeSet p, 31, 0⟩
def Adr.prtOeClr (p : Nat) : Nat := 0x120018 + 0x1000 * p
def Fd.prtOeClrClr (p : Nat) : FieldAt := ⟨Adr.prtOeClr p, 31, 0⟩
def Adr.prtRefused (p : Nat) : Nat := 0x12001C + 0x1000 * p
def Fd.prtRefusedCount (p : Nat) : FieldAt := ⟨Adr.prtRefused p, 19, 0⟩
def Adr.prtSerCfg (p : Nat) : Nat := 0x120040 + 0x1000 * p
def Fd.prtSerCfgMode (p : Nat) : FieldAt := ⟨Adr.prtSerCfg p, 19, 18⟩
def Fd.prtSerCfgParity (p : Nat) : FieldAt := ⟨Adr.prtSerCfg p, 17, 17⟩
def Fd.prtSerCfgOdd (p : Nat) : FieldAt := ⟨Adr.prtSerCfg p, 16, 16⟩
def Fd.prtSerCfgStop2 (p : Nat) : FieldAt := ⟨Adr.prtSerCfg p, 15, 15⟩
def Fd.prtSerCfgCtsEn (p : Nat) : FieldAt := ⟨Adr.prtSerCfg p, 14, 14⟩
def Fd.prtSerCfgCpol (p : Nat) : FieldAt := ⟨Adr.prtSerCfg p, 13, 13⟩
def Fd.prtSerCfgCpha (p : Nat) : FieldAt := ⟨Adr.prtSerCfg p, 12, 12⟩
def Adr.prtSerDiv (p : Nat) : Nat := 0x120044 + 0x1000 * p
def Fd.prtSerDivDiv (p : Nat) : FieldAt := ⟨Adr.prtSerDiv p, 15, 0⟩
def Adr.prtSerTx (p : Nat) : Nat := 0x120048 + 0x1000 * p
def Fd.prtSerTxStart (p : Nat) : FieldAt := ⟨Adr.prtSerTx p, 11, 11⟩
def Fd.prtSerTxStop (p : Nat) : FieldAt := ⟨Adr.prtSerTx p, 10, 10⟩
def Fd.prtSerTxRead (p : Nat) : FieldAt := ⟨Adr.prtSerTx p, 9, 9⟩
def Fd.prtSerTxNack (p : Nat) : FieldAt := ⟨Adr.prtSerTx p, 8, 8⟩
def Fd.prtSerTxByte (p : Nat) : FieldAt := ⟨Adr.prtSerTx p, 7, 0⟩
def Adr.prtSerRx (p : Nat) : Nat := 0x12004C + 0x1000 * p
def Fd.prtSerRxValid (p : Nat) : FieldAt := ⟨Adr.prtSerRx p, 8, 8⟩
def Fd.prtSerRxByte (p : Nat) : FieldAt := ⟨Adr.prtSerRx p, 7, 0⟩
def Adr.prtSerStat (p : Nat) : Nat := 0x120050 + 0x1000 * p
def Fd.prtSerStatTxDepth (p : Nat) : FieldAt := ⟨Adr.prtSerStat p, 19, 15⟩
def Fd.prtSerStatRxDepth (p : Nat) : FieldAt := ⟨Adr.prtSerStat p, 14, 10⟩
def Fd.prtSerStatRxReady (p : Nat) : FieldAt := ⟨Adr.prtSerStat p, 7, 7⟩
def Fd.prtSerStatTxEmpty (p : Nat) : FieldAt := ⟨Adr.prtSerStat p, 6, 6⟩
def Fd.prtSerStatArbLost (p : Nat) : FieldAt := ⟨Adr.prtSerStat p, 5, 5⟩
def Fd.prtSerStatNack (p : Nat) : FieldAt := ⟨Adr.prtSerStat p, 4, 4⟩
def Fd.prtSerStatPerr (p : Nat) : FieldAt := ⟨Adr.prtSerStat p, 3, 3⟩
def Fd.prtSerStatFerr (p : Nat) : FieldAt := ⟨Adr.prtSerStat p, 2, 2⟩
def Fd.prtSerStatRxOvr (p : Nat) : FieldAt := ⟨Adr.prtSerStat p, 1, 1⟩
def Fd.prtSerStatTxOvf (p : Nat) : FieldAt := ⟨Adr.prtSerStat p, 0, 0⟩
def Adr.prtSerIen (p : Nat) : Nat := 0x120054 + 0x1000 * p
def Fd.prtSerIenEn (p : Nat) : FieldAt := ⟨Adr.prtSerIen p, 7, 0⟩
def Adr.pilCfg (k : Nat) : Nat := 0x140000 + 0x10 * k
def Fd.pilCfgEn (k : Nat) : FieldAt := ⟨Adr.pilCfg k, 19, 19⟩
def Fd.pilCfgMode (k : Nat) : FieldAt := ⟨Adr.pilCfg k, 18, 16⟩
def Fd.pilCfgPort (k : Nat) : FieldAt := ⟨Adr.pilCfg k, 15, 11⟩
def Fd.pilCfgFilter (k : Nat) : FieldAt := ⟨Adr.pilCfg k, 4, 0⟩
def Adr.pilEvt (k : Nat) : Nat := 0x140004 + 0x10 * k
def Fd.pilEvtFerryEn (k : Nat) : FieldAt := ⟨Adr.pilEvt k, 8, 8⟩
def Fd.pilEvtChan (k : Nat) : FieldAt := ⟨Adr.pilEvt k, 7, 0⟩
def Adr.pilStat (k : Nat) : Nat := 0x140008 + 0x10 * k
def Fd.pilStatSeen (k : Nat) : FieldAt := ⟨Adr.pilStat k, 1, 1⟩
def Fd.pilStatLevel (k : Nat) : FieldAt := ⟨Adr.pilStat k, 0, 0⟩
def Adr.kCfg (k : Nat) : Nat := 0xF0000 + 0x100 * k
def Fd.kCfgEn (k : Nat) : FieldAt := ⟨Adr.kCfg k, 19, 19⟩
def Fd.kCfgCustom (k : Nat) : FieldAt := ⟨Adr.kCfg k, 18, 18⟩
def Fd.kCfgCode (k : Nat) : FieldAt := ⟨Adr.kCfg k, 17, 16⟩
def Fd.kCfgCmp (k : Nat) : FieldAt := ⟨Adr.kCfg k, 15, 14⟩
def Fd.kCfgCbe (k : Nat) : FieldAt := ⟨Adr.kCfg k, 13, 13⟩
def Fd.kCfgRefin (k : Nat) : FieldAt := ⟨Adr.kCfg k, 12, 12⟩
def Fd.kCfgRefout (k : Nat) : FieldAt := ⟨Adr.kCfg k, 11, 11⟩
def Fd.kCfgRing (k : Nat) : FieldAt := ⟨Adr.kCfg k, 7, 7⟩
def Fd.kCfgWidth (k : Nat) : FieldAt := ⟨Adr.kCfg k, 6, 0⟩
def Adr.kSrc (k : Nat) : Nat := 0xF0004 + 0x100 * k
def Fd.kSrcKind (k : Nat) : FieldAt := ⟨Adr.kSrc k, 19, 16⟩
def Fd.kSrcIndex (k : Nat) : FieldAt := ⟨Adr.kSrc k, 15, 8⟩
def Fd.kSrcDir (k : Nat) : FieldAt := ⟨Adr.kSrc k, 7, 7⟩
def Adr.kFrame (k : Nat) : Nat := 0xF0008 + 0x100 * k
def Fd.kFrameFmode (k : Nat) : FieldAt := ⟨Adr.kFrame k, 19, 18⟩
def Fd.kFrameN (k : Nat) : FieldAt := ⟨Adr.kFrame k, 15, 0⟩
def Adr.kLfield (k : Nat) : Nat := 0xF000C + 0x100 * k
def Fd.kLfieldLpos (k : Nat) : FieldAt := ⟨Adr.kLfield k, 19, 16⟩
def Fd.kLfieldLadd (k : Nat) : FieldAt := ⟨Adr.kLfield k, 7, 0⟩
def Adr.kAlive (k : Nat) : Nat := 0xF0010 + 0x100 * k
def Fd.kAliveEn (k : Nat) : FieldAt := ⟨Adr.kAlive k, 19, 19⟩
def Fd.kAliveWM1 (k : Nat) : FieldAt := ⟨Adr.kAlive k, 18, 15⟩
def Fd.kAlivePos (k : Nat) : FieldAt := ⟨Adr.kAlive k, 14, 0⟩
def Adr.kAliveStep (k : Nat) : Nat := 0xF0014 + 0x100 * k
def Fd.kAliveStepS (k : Nat) : FieldAt := ⟨Adr.kAliveStep k, 15, 0⟩
def Adr.kEvt (k : Nat) : Nat := 0xF0018 + 0x100 * k
def Fd.kEvtMisEn (k : Nat) : FieldAt := ⟨Adr.kEvt k, 19, 19⟩
def Fd.kEvtAlvEn (k : Nat) : FieldAt := ⟨Adr.kEvt k, 18, 18⟩
def Fd.kEvtMisChan (k : Nat) : FieldAt := ⟨Adr.kEvt k, 15, 8⟩
def Fd.kEvtAlvChan (k : Nat) : FieldAt := ⟨Adr.kEvt k, 7, 0⟩
def Adr.kStat (k : Nat) : Nat := 0xF001C + 0x100 * k
def Fd.kStatRingErr (k : Nat) : FieldAt := ⟨Adr.kStat k, 6, 6⟩
def Fd.kStatRingFull (k : Nat) : FieldAt := ⟨Adr.kStat k, 5, 5⟩
def Fd.kStatJump (k : Nat) : FieldAt := ⟨Adr.kStat k, 4, 4⟩
def Fd.kStatRepeat (k : Nat) : FieldAt := ⟨Adr.kStat k, 3, 3⟩
def Fd.kStatMismatch (k : Nat) : FieldAt := ⟨Adr.kStat k, 2, 2⟩
def Fd.kStatShort (k : Nat) : FieldAt := ⟨Adr.kStat k, 1, 1⟩
def Fd.kStatBusy (k : Nat) : FieldAt := ⟨Adr.kStat k, 0, 0⟩
def Adr.kIen (k : Nat) : Nat := 0xF0020 + 0x100 * k
def Fd.kIenEn (k : Nat) : FieldAt := ⟨Adr.kIen k, 6, 1⟩
def Adr.kFrames (k : Nat) : Nat := 0xF0024 + 0x100 * k
def Fd.kFramesCount (k : Nat) : FieldAt := ⟨Adr.kFrames k, 19, 0⟩
def Adr.kMismatches (k : Nat) : Nat := 0xF0028 + 0x100 * k
def Fd.kMismatchesCount (k : Nat) : FieldAt := ⟨Adr.kMismatches k, 19, 0⟩
def Adr.kSeq (k : Nat) : Nat := 0xF002C + 0x100 * k
def Fd.kSeqSeq (k : Nat) : FieldAt := ⟨Adr.kSeq k, 19, 0⟩
def Adr.kResult (k : Nat) (j : Nat) : Nat := 0xF0030 + 0x100 * k + 0x4 * j
def Fd.kResultR (k : Nat) (j : Nat) : FieldAt := ⟨Adr.kResult k j, 15, 0⟩
def Adr.kExpect (k : Nat) (j : Nat) : Nat := 0xF0040 + 0x100 * k + 0x4 * j
def Fd.kExpectX (k : Nat) (j : Nat) : FieldAt := ⟨Adr.kExpect k j, 15, 0⟩
def Adr.kPoly (k : Nat) (j : Nat) : Nat := 0xF0050 + 0x100 * k + 0x4 * j
def Fd.kPolyP (k : Nat) (j : Nat) : FieldAt := ⟨Adr.kPoly k j, 15, 0⟩
def Adr.kInit (k : Nat) (j : Nat) : Nat := 0xF0060 + 0x100 * k + 0x4 * j
def Fd.kInitI (k : Nat) (j : Nat) : FieldAt := ⟨Adr.kInit k j, 15, 0⟩
def Adr.kXor (k : Nat) (j : Nat) : Nat := 0xF0070 + 0x100 * k + 0x4 * j
def Fd.kXorX (k : Nat) (j : Nat) : FieldAt := ⟨Adr.kXor k j, 15, 0⟩
def Adr.kWlo (k : Nat) (j : Nat) : Nat := 0xF0080 + 0x100 * k + 0x4 * j
def Fd.kWloA (k : Nat) (j : Nat) : FieldAt := ⟨Adr.kWlo k j, 15, 0⟩
def Adr.kWhi (k : Nat) (j : Nat) : Nat := 0xF008C + 0x100 * k + 0x4 * j
def Fd.kWhiA (k : Nat) (j : Nat) : FieldAt := ⟨Adr.kWhi k j, 15, 0⟩
def Adr.kRbase (k : Nat) (j : Nat) : Nat := 0xF00A0 + 0x100 * k + 0x4 * j
def Fd.kRbaseA (k : Nat) (j : Nat) : FieldAt := ⟨Adr.kRbase k j, 15, 0⟩
def Adr.kRlen (k : Nat) : Nat := 0xF00AC + 0x100 * k
def Fd.kRlenN (k : Nat) : FieldAt := ⟨Adr.kRlen k, 15, 0⟩
def Adr.kRwr (k : Nat) : Nat := 0xF00B0 + 0x100 * k
def Fd.kRwrWr (k : Nat) : FieldAt := ⟨Adr.kRwr k, 15, 0⟩
def Adr.kRrd (k : Nat) : Nat := 0xF00B4 + 0x100 * k
def Fd.kRrdRd (k : Nat) : FieldAt := ⟨Adr.kRrd k, 15, 0⟩
def Adr.kDropped (k : Nat) : Nat := 0xF00B8 + 0x100 * k
def Fd.kDroppedCount (k : Nat) : FieldAt := ⟨Adr.kDropped k, 19, 0⟩
def Adr.memMemTop (j : Nat) : Nat := 0x160000 + 0x4 * j
def Fd.memMemTopTop (j : Nat) : FieldAt := ⟨Adr.memMemTop j, 15, 0⟩
def Adr.memAge : Nat := 0x16000C
def Fd.memAgeLimit : FieldAt := ⟨Adr.memAge, 7, 0⟩
def Adr.memFabCe : Nat := 0x160020
def Fd.memFabCeCount : FieldAt := ⟨Adr.memFabCe, 19, 0⟩
def Adr.memFabUe : Nat := 0x160024
def Fd.memFabUeCount : FieldAt := ⟨Adr.memFabUe, 19, 0⟩
def Adr.mcStat (m : Nat) : Nat := 0x160100 + 0x100 * m
def Fd.mcStatTrained (m : Nat) : FieldAt := ⟨Adr.mcStat m, 19, 19⟩
def Fd.mcStatFail (m : Nat) : FieldAt := ⟨Adr.mcStat m, 18, 18⟩
def Fd.mcStatExcess (m : Nat) : FieldAt := ⟨Adr.mcStat m, 17, 17⟩
def Fd.mcStatCap (m : Nat) : FieldAt := ⟨Adr.mcStat m, 7, 0⟩
def Adr.mcScrub (m : Nat) : Nat := 0x160104 + 0x100 * m
def Fd.mcScrubEn (m : Nat) : FieldAt := ⟨Adr.mcScrub m, 19, 19⟩
def Fd.mcScrubInterval (m : Nat) : FieldAt := ⟨Adr.mcScrub m, 7, 0⟩
def Adr.mcCe (m : Nat) : Nat := 0x160108 + 0x100 * m
def Fd.mcCeCount (m : Nat) : FieldAt := ⟨Adr.mcCe m, 19, 0⟩
def Adr.mcUe (m : Nat) : Nat := 0x16010C + 0x100 * m
def Fd.mcUeCount (m : Nat) : FieldAt := ⟨Adr.mcUe m, 19, 0⟩
def Adr.mcPread (m : Nat) : Nat := 0x160110 + 0x100 * m
def Fd.mcPreadCount (m : Nat) : FieldAt := ⟨Adr.mcPread m, 19, 0⟩
def Adr.mcEstat (m : Nat) : Nat := 0x160114 + 0x100 * m
def Fd.mcEstatRefused (m : Nat) : FieldAt := ⟨Adr.mcEstat m, 3, 3⟩
def Fd.mcEstatPoisonRd (m : Nat) : FieldAt := ⟨Adr.mcEstat m, 2, 2⟩
def Fd.mcEstatUe (m : Nat) : FieldAt := ⟨Adr.mcEstat m, 1, 1⟩
def Fd.mcEstatCe (m : Nat) : FieldAt := ⟨Adr.mcEstat m, 0, 0⟩
def Adr.mcEaddr (m : Nat) (j : Nat) : Nat := 0x160118 + 0x100 * m + 0x4 * j
def Fd.mcEaddrAddr (m : Nat) (j : Nat) : FieldAt := ⟨Adr.mcEaddr m j, 15, 0⟩
def Adr.mcIen (m : Nat) : Nat := 0x160124 + 0x100 * m
def Fd.mcIenEn (m : Nat) : FieldAt := ⟨Adr.mcIen m, 3, 0⟩
def Adr.dCtrl (q : Nat) (d : Nat) : Nat := 0x1008000 + 0x10000 * q + 0x40 * d
def Fd.dCtrlGo (q : Nat) (d : Nat) : FieldAt := ⟨Adr.dCtrl q d, 19, 19⟩
def Fd.dCtrlAbort (q : Nat) (d : Nat) : FieldAt := ⟨Adr.dCtrl q d, 18, 18⟩
def Fd.dCtrlDir (q : Nat) (d : Nat) : FieldAt := ⟨Adr.dCtrl q d, 17, 17⟩
def Fd.dCtrlMode (q : Nat) (d : Nat) : FieldAt := ⟨Adr.dCtrl q d, 16, 15⟩
def Fd.dCtrlSx (q : Nat) (d : Nat) : FieldAt := ⟨Adr.dCtrl q d, 14, 14⟩
def Fd.dCtrlWsel (q : Nat) (d : Nat) : FieldAt := ⟨Adr.dCtrl q d, 13, 11⟩
def Fd.dCtrlCls (q : Nat) (d : Nat) : FieldAt := ⟨Adr.dCtrl q d, 10, 10⟩
def Fd.dCtrlTrigEn (q : Nat) (d : Nat) : FieldAt := ⟨Adr.dCtrl q d, 9, 9⟩
def Adr.dWaddr (q : Nat) (d : Nat) : Nat := 0x1008004 + 0x10000 * q + 0x40 * d
def Fd.dWaddrW (q : Nat) (d : Nat) : FieldAt := ⟨Adr.dWaddr q d, 16, 0⟩
def Adr.dCount (q : Nat) (d : Nat) : Nat := 0x1008008 + 0x10000 * q + 0x40 * d
def Fd.dCountN (q : Nat) (d : Nat) : FieldAt := ⟨Adr.dCount q d, 19, 0⟩
def Adr.dBaddr (q : Nat) (d : Nat) (j : Nat) : Nat := 0x100800C + 0x10000 * q + 0x40 * d + 0x4 * j
def Fd.dBaddrA (q : Nat) (d : Nat) (j : Nat) : FieldAt := ⟨Adr.dBaddr q d j, 15, 0⟩
def Adr.dTrig (q : Nat) (d : Nat) : Nat := 0x1008018 + 0x10000 * q + 0x40 * d
def Fd.dTrigChan (q : Nat) (d : Nat) : FieldAt := ⟨Adr.dTrig q d, 7, 0⟩
def Adr.dEvt (q : Nat) (d : Nat) : Nat := 0x100801C + 0x10000 * q + 0x40 * d
def Fd.dEvtDoneEn (q : Nat) (d : Nat) : FieldAt := ⟨Adr.dEvt q d, 19, 19⟩
def Fd.dEvtErrEn (q : Nat) (d : Nat) : FieldAt := ⟨Adr.dEvt q d, 18, 18⟩
def Fd.dEvtDoneChan (q : Nat) (d : Nat) : FieldAt := ⟨Adr.dEvt q d, 15, 8⟩
def Fd.dEvtErrChan (q : Nat) (d : Nat) : FieldAt := ⟨Adr.dEvt q d, 7, 0⟩
def Adr.dStat (q : Nat) (d : Nat) : Nat := 0x1008020 + 0x10000 * q + 0x40 * d
def Fd.dStatBusy (q : Nat) (d : Nat) : FieldAt := ⟨Adr.dStat q d, 19, 19⟩
def Fd.dStatArmed (q : Nat) (d : Nat) : FieldAt := ⟨Adr.dStat q d, 18, 18⟩
def Fd.dStatTrigPend (q : Nat) (d : Nat) : FieldAt := ⟨Adr.dStat q d, 8, 5⟩
def Fd.dStatTrigOvf (q : Nat) (d : Nat) : FieldAt := ⟨Adr.dStat q d, 4, 4⟩
def Fd.dStatAborted (q : Nat) (d : Nat) : FieldAt := ⟨Adr.dStat q d, 3, 3⟩
def Fd.dStatBad (q : Nat) (d : Nat) : FieldAt := ⟨Adr.dStat q d, 2, 2⟩
def Fd.dStatPoison (q : Nat) (d : Nat) : FieldAt := ⟨Adr.dStat q d, 1, 1⟩
def Fd.dStatErr (q : Nat) (d : Nat) : FieldAt := ⟨Adr.dStat q d, 0, 0⟩
def Adr.dLeft (q : Nat) (d : Nat) : Nat := 0x1008024 + 0x10000 * q + 0x40 * d
def Fd.dLeftN (q : Nat) (d : Nat) : FieldAt := ⟨Adr.dLeft q d, 19, 0⟩
def Adr.dIen (q : Nat) (d : Nat) : Nat := 0x1008028 + 0x10000 * q + 0x40 * d
def Fd.dIenEn (q : Nat) (d : Nat) : FieldAt := ⟨Adr.dIen q d, 4, 0⟩
def Adr.bgASrc (n : Nat) (j : Nat) : Nat := 0x180000 + 0x100 * n + 0x4 * j
def Fd.bgASrcA (n : Nat) (j : Nat) : FieldAt := ⟨Adr.bgASrc n j, 15, 0⟩
def Adr.bgADst (n : Nat) (j : Nat) : Nat := 0x180010 + 0x100 * n + 0x4 * j
def Fd.bgADstA (n : Nat) (j : Nat) : FieldAt := ⟨Adr.bgADst n j, 15, 0⟩
def Adr.bgALen (n : Nat) (j : Nat) : Nat := 0x180020 + 0x100 * n + 0x4 * j
def Fd.bgALenN (n : Nat) (j : Nat) : FieldAt := ⟨Adr.bgALen n j, 15, 0⟩
def Adr.bgAOpt (n : Nat) : Nat := 0x180028 + 0x100 * n
def Fd.bgAOptAs (n : Nat) : FieldAt := ⟨Adr.bgAOpt n, 4, 0⟩
def Adr.bgSrc (n : Nat) (j : Nat) : Nat := 0x180040 + 0x100 * n + 0x4 * j
def Fd.bgSrcA (n : Nat) (j : Nat) : FieldAt := ⟨Adr.bgSrc n j, 15, 0⟩
def Adr.bgDst (n : Nat) (j : Nat) : Nat := 0x180050 + 0x100 * n + 0x4 * j
def Fd.bgDstA (n : Nat) (j : Nat) : FieldAt := ⟨Adr.bgDst n j, 15, 0⟩
def Adr.bgLen (n : Nat) (j : Nat) : Nat := 0x180060 + 0x100 * n + 0x4 * j
def Fd.bgLenN (n : Nat) (j : Nat) : FieldAt := ⟨Adr.bgLen n j, 15, 0⟩
def Adr.bgOpt (n : Nat) : Nat := 0x180068 + 0x100 * n
def Fd.bgOptSrcHost (n : Nat) : FieldAt := ⟨Adr.bgOpt n, 4, 4⟩
def Fd.bgOptDstHost (n : Nat) : FieldAt := ⟨Adr.bgOpt n, 3, 3⟩
def Fd.bgOptCls (n : Nat) : FieldAt := ⟨Adr.bgOpt n, 2, 2⟩
def Fd.bgOptTrig (n : Nat) : FieldAt := ⟨Adr.bgOpt n, 1, 1⟩
def Fd.bgOptDoneEv (n : Nat) : FieldAt := ⟨Adr.bgOpt n, 0, 0⟩
def Adr.bgChCtrl (n : Nat) : Nat := 0x180080 + 0x100 * n
def Fd.bgChCtrlArm (n : Nat) : FieldAt := ⟨Adr.bgChCtrl n, 19, 19⟩
def Fd.bgChCtrlAbort (n : Nat) : FieldAt := ⟨Adr.bgChCtrl n, 18, 18⟩
def Fd.bgChCtrlEn (n : Nat) : FieldAt := ⟨Adr.bgChCtrl n, 17, 17⟩
def Adr.bgChEvt (n : Nat) : Nat := 0x180084 + 0x100 * n
def Fd.bgChEvtErrEn (n : Nat) : FieldAt := ⟨Adr.bgChEvt n, 18, 18⟩
def Fd.bgChEvtDoneChan (n : Nat) : FieldAt := ⟨Adr.bgChEvt n, 15, 8⟩
def Fd.bgChEvtErrChan (n : Nat) : FieldAt := ⟨Adr.bgChEvt n, 7, 0⟩
def Adr.bgChTrig (n : Nat) : Nat := 0x180088 + 0x100 * n
def Fd.bgChTrigChan (n : Nat) : FieldAt := ⟨Adr.bgChTrig n, 7, 0⟩
def Adr.bgStat (n : Nat) : Nat := 0x18008C + 0x100 * n
def Fd.bgStatBusy (n : Nat) : FieldAt := ⟨Adr.bgStat n, 19, 19⟩
def Fd.bgStatWaiting (n : Nat) : FieldAt := ⟨Adr.bgStat n, 18, 18⟩
def Fd.bgStatShValid (n : Nat) : FieldAt := ⟨Adr.bgStat n, 17, 17⟩
def Fd.bgStatTrigPend (n : Nat) : FieldAt := ⟨Adr.bgStat n, 10, 7⟩
def Fd.bgStatTrigOvf (n : Nat) : FieldAt := ⟨Adr.bgStat n, 6, 6⟩
def Fd.bgStatArmLost (n : Nat) : FieldAt := ⟨Adr.bgStat n, 5, 5⟩
def Fd.bgStatPartial (n : Nat) : FieldAt := ⟨Adr.bgStat n, 4, 4⟩
def Fd.bgStatAborted (n : Nat) : FieldAt := ⟨Adr.bgStat n, 3, 3⟩
def Fd.bgStatPoison (n : Nat) : FieldAt := ⟨Adr.bgStat n, 1, 1⟩
def Fd.bgStatErr (n : Nat) : FieldAt := ⟨Adr.bgStat n, 0, 0⟩
def Adr.bgDone (n : Nat) (j : Nat) : Nat := 0x180090 + 0x100 * n + 0x4 * j
def Fd.bgDoneN (n : Nat) (j : Nat) : FieldAt := ⟨Adr.bgDone n j, 15, 0⟩
def Adr.bgIen (n : Nat) : Nat := 0x180098 + 0x100 * n
def Fd.bgIenEn (n : Nat) : FieldAt := ⟨Adr.bgIen n, 6, 0⟩
def Adr.plCmd : Nat := 0x1A0000
def Fd.plCmdGo : FieldAt := ⟨Adr.plCmd, 19, 19⟩
def Fd.plCmdAbort : FieldAt := ⟨Adr.plCmd, 18, 18⟩
def Fd.plCmdOp : FieldAt := ⟨Adr.plCmd, 17, 15⟩
def Fd.plCmdBpp : FieldAt := ⟨Adr.plCmd, 14, 13⟩
def Fd.plCmdLast : FieldAt := ⟨Adr.plCmd, 12, 12⟩
def Adr.plSrc (j : Nat) : Nat := 0x1A0004 + 0x4 * j
def Fd.plSrcA (j : Nat) : FieldAt := ⟨Adr.plSrc j, 15, 0⟩
def Adr.plDst (j : Nat) : Nat := 0x1A0010 + 0x4 * j
def Fd.plDstA (j : Nat) : FieldAt := ⟨Adr.plDst j, 15, 0⟩
def Adr.plSpitch : Nat := 0x1A001C
def Fd.plSpitchP : FieldAt := ⟨Adr.plSpitch, 17, 0⟩
def Adr.plDpitch : Nat := 0x1A0020
def Fd.plDpitchP : FieldAt := ⟨Adr.plDpitch, 17, 0⟩
def Adr.plW : Nat := 0x1A0024
def Fd.plWW : FieldAt := ⟨Adr.plW, 14, 0⟩
def Adr.plH : Nat := 0x1A0028
def Fd.plHH : FieldAt := ⟨Adr.plH, 14, 0⟩
def Adr.plColor (j : Nat) : Nat := 0x1A002C + 0x4 * j
def Fd.plColorC (j : Nat) : FieldAt := ⟨Adr.plColor j, 15, 0⟩
def Adr.plKey (j : Nat) : Nat := 0x1A0034 + 0x4 * j
def Fd.plKeyK (j : Nat) : FieldAt := ⟨Adr.plKey j, 15, 0⟩
def Adr.plKmask (j : Nat) : Nat := 0x1A003C + 0x4 * j
def Fd.plKmaskM (j : Nat) : FieldAt := ⟨Adr.plKmask j, 15, 0⟩
def Adr.plX0 : Nat := 0x1A0044
def Fd.plX0V : FieldAt := ⟨Adr.plX0, 14, 0⟩
def Adr.plY0 : Nat := 0x1A0048
def Fd.plY0V : FieldAt := ⟨Adr.plY0, 14, 0⟩
def Adr.plX1 : Nat := 0x1A004C
def Fd.plX1V : FieldAt := ⟨Adr.plX1, 14, 0⟩
def Adr.plY1 : Nat := 0x1A0050
def Fd.plY1V : FieldAt := ⟨Adr.plY1, 14, 0⟩
def Adr.plLen (j : Nat) : Nat := 0x1A0054 + 0x4 * j
def Fd.plLenN (j : Nat) : FieldAt := ⟨Adr.plLen j, 15, 0⟩
def Adr.plEvt : Nat := 0x1A005C
def Fd.plEvtDoneEn : FieldAt := ⟨Adr.plEvt, 19, 19⟩
def Fd.plEvtErrEn : FieldAt := ⟨Adr.plEvt, 18, 18⟩
def Fd.plEvtDoneChan : FieldAt := ⟨Adr.plEvt, 15, 8⟩
def Fd.plEvtErrChan : FieldAt := ⟨Adr.plEvt, 7, 0⟩
def Adr.plStat : Nat := 0x1A0060
def Fd.plStatBusy : FieldAt := ⟨Adr.plStat, 5, 5⟩
def Fd.plStatRefused : FieldAt := ⟨Adr.plStat, 4, 4⟩
def Fd.plStatAborted : FieldAt := ⟨Adr.plStat, 3, 3⟩
def Fd.plStatPoison : FieldAt := ⟨Adr.plStat, 1, 1⟩
def Fd.plStatErr : FieldAt := ⟨Adr.plStat, 0, 0⟩
def Adr.plIen : Nat := 0x1A0064
def Fd.plIenEn : FieldAt := ⟨Adr.plIen, 4, 0⟩
def Adr.icCfg : Nat := 0x1C0000
def Fd.icCfgGb : FieldAt := ⟨Adr.icCfg, 4, 2⟩
def Fd.icCfgMode : FieldAt := ⟨Adr.icCfg, 0, 0⟩
def Adr.icStat : Nat := 0x1C0004
def Fd.icStatSwBad : FieldAt := ⟨Adr.icStat, 1, 1⟩
def Fd.icStatEoiEmpty : FieldAt := ⟨Adr.icStat, 0, 0⟩
def Adr.icSwSet : Nat := 0x1C0008
def Fd.icSwSetSrc : FieldAt := ⟨Adr.icSwSet, 9, 0⟩
def Adr.icHold (g : Nat) : Nat := 0x1C0100 + 0x4 * g
def Fd.icHoldRun (g : Nat) : FieldAt := ⟨Adr.icHold g, 16, 16⟩
def Fd.icHoldUs (g : Nat) : FieldAt := ⟨Adr.icHold g, 15, 0⟩
def Adr.icPend (j : Nat) : Nat := 0x1C1000 + 0x4 * j
def Fd.icPendPend (j : Nat) : FieldAt := ⟨Adr.icPend j, 31, 0⟩
def Adr.icAct (j : Nat) : Nat := 0x1C1080 + 0x4 * j
def Fd.icActAct (j : Nat) : FieldAt := ⟨Adr.icAct j, 31, 0⟩
def Adr.srcSrcCfg (s : Nat) : Nat := 0x1C2000 + 0x4 * s
def Fd.srcSrcCfgEn (s : Nat) : FieldAt := ⟨Adr.srcSrcCfg s, 19, 19⟩
def Fd.srcSrcCfgSecure (s : Nat) : FieldAt := ⟨Adr.srcSrcCfg s, 18, 18⟩
def Fd.srcSrcCfgTgt (s : Nat) : FieldAt := ⟨Adr.srcSrcCfg s, 17, 17⟩
def Fd.srcSrcCfgIdx (s : Nat) : FieldAt := ⟨Adr.srcSrcCfg s, 16, 10⟩
def Fd.srcSrcCfgKind (s : Nat) : FieldAt := ⟨Adr.srcSrcCfg s, 9, 9⟩
def Fd.srcSrcCfgPend (s : Nat) : FieldAt := ⟨Adr.srcSrcCfg s, 8, 8⟩
def Fd.srcSrcCfgPrio (s : Nat) : FieldAt := ⟨Adr.srcSrcCfg s, 7, 0⟩
def Adr.icECur (e : Nat) : Nat := 0x1C4000 + 0x20 * e
def Fd.icECurValid (e : Nat) : FieldAt := ⟨Adr.icECur e, 19, 19⟩
def Fd.icECurSrc (e : Nat) : FieldAt := ⟨Adr.icECur e, 9, 0⟩
def Adr.icEStk (e : Nat) : Nat := 0x1C4004 + 0x20 * e
def Fd.icEStkDepth (e : Nat) : FieldAt := ⟨Adr.icEStk e, 12, 8⟩
def Fd.icEStkPr (e : Nat) : FieldAt := ⟨Adr.icEStk e, 4, 0⟩
def Adr.icEEoi (e : Nat) : Nat := 0x1C4008 + 0x20 * e
def Fd.icEEoiEoi (e : Nat) : FieldAt := ⟨Adr.icEEoi e, 0, 0⟩
def Adr.icEPres (e : Nat) : Nat := 0x1C400C + 0x20 * e
def Fd.icEPresN (e : Nat) : FieldAt := ⟨Adr.icEPres e, 3, 0⟩
def Adr.icVClaim (v : Nat) : Nat := 0x1C6000 + 0x10 * v
def Fd.icVClaimValid (v : Nat) : FieldAt := ⟨Adr.icVClaim v, 19, 19⟩
def Fd.icVClaimSrc (v : Nat) : FieldAt := ⟨Adr.icVClaim v, 9, 0⟩
def Adr.icVEoi (v : Nat) : Nat := 0x1C6004 + 0x10 * v
def Fd.icVEoiEoi (v : Nat) : FieldAt := ⟨Adr.icVEoi v, 0, 0⟩
def Adr.icVStat (v : Nat) : Nat := 0x1C6008 + 0x10 * v
def Fd.icVStatOutstanding (v : Nat) : FieldAt := ⟨Adr.icVStat v, 1, 1⟩
def Fd.icVStatPending (v : Nat) : FieldAt := ⟨Adr.icVStat v, 0, 0⟩
def Adr.stopIgn : Nat := 0x1E1000
def Fd.stopIgnCount : FieldAt := ⟨Adr.stopIgn, 19, 0⟩
def Adr.stopLast0 : Nat := 0x1E1004
def Fd.stopLast0Off : FieldAt := ⟨Adr.stopLast0, 15, 0⟩
def Adr.stopLast1 : Nat := 0x1E1008
def Fd.stopLast1Off : FieldAt := ⟨Adr.stopLast1, 9, 0⟩
def Adr.rgCtrl (g : Nat) : Nat := 0x1E0000 + 0x100 * g
def Fd.rgCtrlArm (g : Nat) : FieldAt := ⟨Adr.rgCtrl g, 19, 19⟩
def Fd.rgCtrlAbort (g : Nat) : FieldAt := ⟨Adr.rgCtrl g, 18, 18⟩
def Fd.rgCtrlEn (g : Nat) : FieldAt := ⟨Adr.rgCtrl g, 17, 17⟩
def Fd.rgCtrlSpan (g : Nat) : FieldAt := ⟨Adr.rgCtrl g, 16, 16⟩
def Adr.rgStat (g : Nat) : Nat := 0x1E0004 + 0x100 * g
def Fd.rgStatPend (g : Nat) : FieldAt := ⟨Adr.rgStat g, 15, 8⟩
def Fd.rgStatOverlap (g : Nat) : FieldAt := ⟨Adr.rgStat g, 6, 6⟩
def Fd.rgStatSpanTorn (g : Nat) : FieldAt := ⟨Adr.rgStat g, 5, 5⟩
def Fd.rgStatAborted (g : Nat) : FieldAt := ⟨Adr.rgStat g, 4, 4⟩
def Fd.rgStatArmLost (g : Nat) : FieldAt := ⟨Adr.rgStat g, 3, 3⟩
def Fd.rgStatLateWrite (g : Nat) : FieldAt := ⟨Adr.rgStat g, 2, 2⟩
def Fd.rgStatTorn (g : Nat) : FieldAt := ⟨Adr.rgStat g, 0, 0⟩
def Adr.rgNo (g : Nat) : Nat := 0x1E0008 + 0x100 * g
def Fd.rgNoNo (g : Nat) : FieldAt := ⟨Adr.rgNo g, 19, 0⟩
def Adr.rgNext (g : Nat) : Nat := 0x1E000C + 0x100 * g
def Fd.rgNextNo (g : Nat) : FieldAt := ⟨Adr.rgNext g, 19, 0⟩
def Adr.rgTorn (g : Nat) : Nat := 0x1E0010 + 0x100 * g
def Fd.rgTornUs (g : Nat) : FieldAt := ⟨Adr.rgTorn g, 19, 0⟩
def Adr.rgMem (g : Nat) (k : Nat) : Nat := 0x1E0020 + 0x100 * g + 0x8 * k
def Fd.rgMemEn (g : Nat) (k : Nat) : FieldAt := ⟨Adr.rgMem g k, 19, 19⟩
def Fd.rgMemKind (g : Nat) (k : Nat) : FieldAt := ⟨Adr.rgMem g k, 18, 16⟩
def Fd.rgMemFirst (g : Nat) (k : Nat) : FieldAt := ⟨Adr.rgMem g k, 15, 6⟩
def Fd.rgMemNM1 (g : Nat) (k : Nat) : FieldAt := ⟨Adr.rgMem g k, 5, 0⟩
def Adr.rgTrig (g : Nat) (k : Nat) : Nat := 0x1E0024 + 0x100 * g + 0x8 * k
def Fd.rgTrigChan (g : Nat) (k : Nat) : FieldAt := ⟨Adr.rgTrig g k, 7, 0⟩
def Adr.rgMno (g : Nat) (k : Nat) : Nat := 0x1E0060 + 0x100 * g + 0x4 * k
def Fd.rgMnoNo (g : Nat) (k : Nat) : FieldAt := ⟨Adr.rgMno g k, 19, 0⟩
def Adr.hlStat : Nat := 0x200000
def Fd.hlStatLinkUp : FieldAt := ⟨Adr.hlStat, 19, 19⟩
def Fd.hlStatSpeed : FieldAt := ⟨Adr.hlStat, 18, 16⟩
def Fd.hlStatWidth : FieldAt := ⟨Adr.hlStat, 15, 13⟩
def Fd.hlStatCto : FieldAt := ⟨Adr.hlStat, 3, 3⟩
def Fd.hlStatPoisonRx : FieldAt := ⟨Adr.hlStat, 2, 2⟩
def Fd.hlStatDown : FieldAt := ⟨Adr.hlStat, 1, 1⟩
def Fd.hlStatUr : FieldAt := ⟨Adr.hlStat, 0, 0⟩
def Adr.hlIen : Nat := 0x200004
def Fd.hlIenEn : FieldAt := ⟨Adr.hlIen, 3, 0⟩
def Adr.hlWin : Nat := 0x200008
def Fd.hlWinBase : FieldAt := ⟨Adr.hlWin, 15, 0⟩
def Adr.sbFence : Nat := 0x210000
def Fd.sbFenceBar2 : FieldAt := ⟨Adr.sbFence, 2, 2⟩
def Fd.sbFenceAll : FieldAt := ⟨Adr.sbFence, 1, 1⟩
def Fd.sbFenceMgmt : FieldAt := ⟨Adr.sbFence, 0, 0⟩
def Adr.sbStat : Nat := 0x210004
def Fd.sbStatEid : FieldAt := ⟨Adr.sbStat, 15, 8⟩
def Fd.sbStatAddr : FieldAt := ⟨Adr.sbStat, 6, 0⟩
def Adr.sbAuthRefused : Nat := 0x210008
def Fd.sbAuthRefusedCount : FieldAt := ⟨Adr.sbAuthRefused, 19, 0⟩
def Adr.sbAuthLast0 : Nat := 0x21000C
def Fd.sbAuthLast0Off : FieldAt := ⟨Adr.sbAuthLast0, 15, 0⟩
def Adr.sbAuthLast1 : Nat := 0x210010
def Fd.sbAuthLast1Master : FieldAt := ⟨Adr.sbAuthLast1, 12, 10⟩
def Fd.sbAuthLast1Off : FieldAt := ⟨Adr.sbAuthLast1, 9, 0⟩
def Adr.thStat : Nat := 0x220000
def Fd.thStatLife : FieldAt := ⟨Adr.thStat, 19, 18⟩
def Fd.thStatAlarm : FieldAt := ⟨Adr.thStat, 17, 17⟩
def Fd.thStatZeroised : FieldAt := ⟨Adr.thStat, 16, 16⟩
def Fd.thStatBootOk : FieldAt := ⟨Adr.thStat, 15, 15⟩
def Fd.thStatMainOn : FieldAt := ⟨Adr.thStat, 14, 14⟩
def Fd.thStatBootSel : FieldAt := ⟨Adr.thStat, 13, 12⟩
def Adr.thAlarm : Nat := 0x220004
def Fd.thAlarmClear : FieldAt := ⟨Adr.thAlarm, 19, 19⟩
def Fd.thAlarmCause : FieldAt := ⟨Adr.thAlarm, 13, 0⟩
def Adr.thSense : Nat := 0x220008
def Fd.thSenseAsserted : FieldAt := ⟨Adr.thSense, 13, 0⟩
def Adr.thPol0 : Nat := 0x22000C
def Fd.thPol0Pol : FieldAt := ⟨Adr.thPol0, 15, 0⟩
def Adr.thPol1 : Nat := 0x220010
def Fd.thPol1Pol : FieldAt := ⟨Adr.thPol1, 11, 0⟩
def Adr.thDoor : Nat := 0x220014
def Fd.thDoorClosed : FieldAt := ⟨Adr.thDoor, 15, 8⟩
def Fd.thDoorOpen : FieldAt := ⟨Adr.thDoor, 7, 0⟩
def Adr.thDoorDeb : Nat := 0x220018
def Fd.thDoorDebMs : FieldAt := ⟨Adr.thDoorDeb, 7, 0⟩
def Adr.thRtc (j : Nat) : Nat := 0x22001C + 0x4 * j
def Fd.thRtcT (j : Nat) : FieldAt := ⟨Adr.thRtc j, 15, 0⟩
def Adr.thLogSeq : Nat := 0x220028
def Fd.thLogSeqSeq : FieldAt := ⟨Adr.thLogSeq, 19, 0⟩
def Adr.thPrcount : Nat := 0x22002C
def Fd.thPrcountCount : FieldAt := ⟨Adr.thPrcount, 19, 0⟩
def Adr.thRng : Nat := 0x220030
def Fd.thRngBits : FieldAt := ⟨Adr.thRng, 15, 0⟩
def Adr.thRngStat : Nat := 0x220034
def Fd.thRngStatValid : FieldAt := ⟨Adr.thRngStat, 1, 1⟩
def Fd.thRngStatFail : FieldAt := ⟨Adr.thRngStat, 0, 0⟩
def Adr.thNote : Nat := 0x220038
def Fd.thNoteRng : FieldAt := ⟨Adr.thNote, 4, 4⟩
def Fd.thNoteLog : FieldAt := ⟨Adr.thNote, 3, 3⟩
def Fd.thNoteDoor : FieldAt := ⟨Adr.thNote, 2, 2⟩
def Fd.thNoteCmd1 : FieldAt := ⟨Adr.thNote, 1, 1⟩
def Fd.thNoteCmd0 : FieldAt := ⟨Adr.thNote, 0, 0⟩
def Adr.thNoteEn : Nat := 0x22003C
def Fd.thNoteEnEn : FieldAt := ⟨Adr.thNoteEn, 4, 0⟩
def Adr.thPushBase0 : Nat := 0x220040
def Fd.thPushBase0A : FieldAt := ⟨Adr.thPushBase0, 15, 0⟩
def Adr.thPushBase1 : Nat := 0x220044
def Fd.thPushBase1A : FieldAt := ⟨Adr.thPushBase1, 15, 0⟩
def Adr.thPushBase2 : Nat := 0x220048
def Fd.thPushBase2A : FieldAt := ⟨Adr.thPushBase2, 15, 0⟩
def Adr.thPush : Nat := 0x22004C
def Fd.thPushD : FieldAt := ⟨Adr.thPush, 31, 0⟩
def Adr.thRtc3 : Nat := 0x220050
def Fd.thRtc3Frac : FieldAt := ⟨Adr.thRtc3, 15, 0⟩
def Adr.thIdpub (j : Nat) : Nat := 0x220400 + 0x4 * j
def Fd.thIdpubK (j : Nat) : FieldAt := ⟨Adr.thIdpub j, 15, 0⟩
def Adr.thMr0 (j : Nat) : Nat := 0x220800 + 0x4 * j
def Fd.thMr0V (j : Nat) : FieldAt := ⟨Adr.thMr0 j, 15, 0⟩
def Adr.thMrm (m : Nat) (j : Nat) : Nat := 0x220880 + 0x80 * m + 0x4 * j
def Fd.thMrmV (m : Nat) (j : Nat) : FieldAt := ⟨Adr.thMrm m j, 15, 0⟩
def Adr.thGrant (j : Nat) : Nat := 0x222000 + 0x4 * j
def Fd.thGrantG (j : Nat) : FieldAt := ⟨Adr.thGrant j, 15, 0⟩
def Adr.mbCmd (b : Nat) : Nat := 0x221000 + 0x400 * b
def Fd.mbCmdCode (b : Nat) : FieldAt := ⟨Adr.mbCmd b, 7, 0⟩
def Adr.mbCmdStat (b : Nat) : Nat := 0x221004 + 0x400 * b
def Fd.mbCmdStatBusy (b : Nat) : FieldAt := ⟨Adr.mbCmdStat b, 19, 19⟩
def Fd.mbCmdStatResult (b : Nat) : FieldAt := ⟨Adr.mbCmdStat b, 3, 0⟩
def Adr.mbNonce (b : Nat) (j : Nat) : Nat := 0x221040 + 0x400 * b + 0x4 * j
def Fd.mbNonceN (b : Nat) (j : Nat) : FieldAt := ⟨Adr.mbNonce b j, 15, 0⟩
def Adr.mbArg (b : Nat) (j : Nat) : Nat := 0x221100 + 0x400 * b + 0x4 * j
def Fd.mbArgA (b : Nat) (j : Nat) : FieldAt := ⟨Adr.mbArg b j, 15, 0⟩
def Adr.spCfg : Nat := 0x240000
def Fd.spCfgEn : FieldAt := ⟨Adr.spCfg, 19, 19⟩
def Fd.spCfgRootEn : FieldAt := ⟨Adr.spCfg, 18, 18⟩
def Fd.spCfgSyncUs : FieldAt := ⟨Adr.spCfg, 7, 0⟩
def Adr.spTol : Nat := 0x240004
def Fd.spTolNs : FieldAt := ⟨Adr.spTol, 15, 0⟩
def Adr.spVoteTo : Nat := 0x240008
def Fd.spVoteToUs : FieldAt := ⟨Adr.spVoteTo, 15, 0⟩
def Adr.spStat : Nat := 0x24000C
def Fd.spStatRefused : FieldAt := ⟨Adr.spStat, 6, 6⟩
def Fd.spStatLate : FieldAt := ⟨Adr.spStat, 5, 5⟩
def Fd.spStatDrop : FieldAt := ⟨Adr.spStat, 4, 4⟩
def Fd.spStatRootChange : FieldAt := ⟨Adr.spStat, 3, 3⟩
def Fd.spStatResync : FieldAt := ⟨Adr.spStat, 2, 2⟩
def Fd.spStatLinkDown : FieldAt := ⟨Adr.spStat, 1, 1⟩
def Fd.spStatJoined : FieldAt := ⟨Adr.spStat, 0, 0⟩
def Adr.spIen : Nat := 0x240010
def Fd.spIenEn : FieldAt := ⟨Adr.spIen, 6, 1⟩
def Adr.spMembers : Nat := 0x240014
def Fd.spMembersMask : FieldAt := ⟨Adr.spMembers, 15, 0⟩
def Adr.spRoot : Nat := 0x240018
def Fd.spRootHops : FieldAt := ⟨Adr.spRoot, 12, 8⟩
def Fd.spRootRoot : FieldAt := ⟨Adr.spRoot, 3, 0⟩
def Adr.spD : Nat := 0x24001C
def Fd.spDNs : FieldAt := ⟨Adr.spD, 15, 0⟩
def Adr.spLate : Nat := 0x240020
def Fd.spLateCount : FieldAt := ⟨Adr.spLate, 19, 0⟩
def Adr.spDrops : Nat := 0x240024
def Fd.spDropsCount : FieldAt := ⟨Adr.spDrops, 19, 0⟩
def Adr.sppCfg (n : Nat) : Nat := 0x241000 + 0x100 * n
def Fd.sppCfgEn (n : Nat) : FieldAt := ⟨Adr.sppCfg n, 19, 19⟩
def Fd.sppCfgPulseEn (n : Nat) : FieldAt := ⟨Adr.sppCfg n, 18, 18⟩
def Fd.sppCfgPulseExp (n : Nat) : FieldAt := ⟨Adr.sppCfg n, 5, 0⟩
def Adr.sppStat (n : Nat) : Nat := 0x241004 + 0x100 * n
def Fd.sppStatDupId (n : Nat) : FieldAt := ⟨Adr.sppStat n, 6, 6⟩
def Fd.sppStatMismatch (n : Nat) : FieldAt := ⟨Adr.sppStat n, 5, 5⟩
def Fd.sppStatCrcErr (n : Nat) : FieldAt := ⟨Adr.sppStat n, 4, 4⟩
def Fd.sppStatState (n : Nat) : FieldAt := ⟨Adr.sppStat n, 3, 2⟩
def Adr.sppPeer (n : Nat) : Nat := 0x241008 + 0x100 * n
def Fd.sppPeerValid (n : Nat) : FieldAt := ⟨Adr.sppPeer n, 4, 4⟩
def Fd.sppPeerPeer (n : Nat) : FieldAt := ⟨Adr.sppPeer n, 3, 0⟩
def Adr.sppDelay (n : Nat) : Nat := 0x24100C + 0x100 * n
def Fd.sppDelayNs (n : Nat) : FieldAt := ⟨Adr.sppDelay n, 11, 0⟩
def Adr.sppReplays (n : Nat) : Nat := 0x241010 + 0x100 * n
def Fd.sppReplaysCount (n : Nat) : FieldAt := ⟨Adr.sppReplays n, 19, 0⟩
def Adr.rcCtrl : Nat := 0x242000
def Fd.rcCtrlGo : FieldAt := ⟨Adr.rcCtrl, 19, 19⟩
def Fd.rcCtrlAbort : FieldAt := ⟨Adr.rcCtrl, 18, 18⟩
def Fd.rcCtrlDir : FieldAt := ⟨Adr.rcCtrl, 17, 17⟩
def Fd.rcCtrlChip : FieldAt := ⟨Adr.rcCtrl, 3, 0⟩
def Adr.rcLaddr (j : Nat) : Nat := 0x242004 + 0x4 * j
def Fd.rcLaddrA (j : Nat) : FieldAt := ⟨Adr.rcLaddr j, 15, 0⟩
def Adr.rcRaddr (j : Nat) : Nat := 0x242010 + 0x4 * j
def Fd.rcRaddrA (j : Nat) : FieldAt := ⟨Adr.rcRaddr j, 15, 0⟩
def Adr.rcLen (j : Nat) : Nat := 0x24201C + 0x4 * j
def Fd.rcLenN (j : Nat) : FieldAt := ⟨Adr.rcLen j, 15, 0⟩
def Adr.rcEvt : Nat := 0x242024
def Fd.rcEvtDoneEn : FieldAt := ⟨Adr.rcEvt, 19, 19⟩
def Fd.rcEvtErrEn : FieldAt := ⟨Adr.rcEvt, 18, 18⟩
def Fd.rcEvtDoneChan : FieldAt := ⟨Adr.rcEvt, 15, 8⟩
def Fd.rcEvtErrChan : FieldAt := ⟨Adr.rcEvt, 7, 0⟩
def Adr.rcStat : Nat := 0x242028
def Fd.rcStatBusy : FieldAt := ⟨Adr.rcStat, 19, 19⟩
def Fd.rcStatRefused : FieldAt := ⟨Adr.rcStat, 3, 3⟩
def Fd.rcStatAborted : FieldAt := ⟨Adr.rcStat, 2, 2⟩
def Fd.rcStatPoison : FieldAt := ⟨Adr.rcStat, 1, 1⟩
def Fd.rcStatErr : FieldAt := ⟨Adr.rcStat, 0, 0⟩
def Adr.rcIen : Nat := 0x24202C
def Fd.rcIenEn : FieldAt := ⟨Adr.rcIen, 3, 0⟩
def Adr.pwrCfg : Nat := 0x223000
def Fd.pwrCfgAutoOn : FieldAt := ⟨Adr.pwrCfg, 0, 0⟩
def Adr.pwrStat : Nat := 0x223004
def Fd.pwrStatMainOn : FieldAt := ⟨Adr.pwrStat, 19, 19⟩
def Fd.pwrStatMainPg : FieldAt := ⟨Adr.pwrStat, 18, 18⟩
def Fd.pwrStatMainRst : FieldAt := ⟨Adr.pwrStat, 17, 17⟩
def Fd.pwrStatPerst : FieldAt := ⟨Adr.pwrStat, 16, 16⟩
def Fd.pwrStatIdle : FieldAt := ⟨Adr.pwrStat, 15, 15⟩
def Fd.pwrStatPgTimeout : FieldAt := ⟨Adr.pwrStat, 1, 1⟩
def Fd.pwrStatPgLost : FieldAt := ⟨Adr.pwrStat, 0, 0⟩
def Adr.pwrRstCause : Nat := 0x223008
def Fd.pwrRstCauseAon : FieldAt := ⟨Adr.pwrRstCause, 3, 3⟩
def Fd.pwrRstCausePowerUp : FieldAt := ⟨Adr.pwrRstCause, 2, 2⟩
def Fd.pwrRstCauseSideband : FieldAt := ⟨Adr.pwrRstCause, 1, 1⟩
def Fd.pwrRstCausePgLoss : FieldAt := ⟨Adr.pwrRstCause, 0, 0⟩
def Adr.pwrIdleHeads : Nat := 0x22300C
def Fd.pwrIdleHeadsHeads : FieldAt := ⟨Adr.pwrIdleHeads, 5, 0⟩
def Adr.pwrQrst : Nat := 0x223010
def Fd.pwrQrstGo : FieldAt := ⟨Adr.pwrQrst, 19, 19⟩
def Fd.pwrQrstQ : FieldAt := ⟨Adr.pwrQrst, 4, 0⟩
def Adr.pwrQstat : Nat := 0x223014
def Fd.pwrQstatInRst : FieldAt := ⟨Adr.pwrQstat, 31, 0⟩
def Adr.pwrEngGo : Nat := 0x223018
def Fd.pwrEngGoGo : FieldAt := ⟨Adr.pwrEngGo, 0, 0⟩
def Adr.pwrEngStart (e : Nat) : Nat := 0x223100 + 0x4 * e
def Fd.pwrEngStartRun (e : Nat) : FieldAt := ⟨Adr.pwrEngStart e, 31, 31⟩
def Fd.pwrEngStartPc (e : Nat) : FieldAt := ⟨Adr.pwrEngStart e, 19, 0⟩
def Adr.monTj : Nat := 0x223400
def Fd.monTjT : FieldAt := ⟨Adr.monTj, 11, 0⟩
def Adr.monTjMax : Nat := 0x223404
def Fd.monTjMaxT : FieldAt := ⟨Adr.monTjMax, 11, 0⟩
def Adr.monVcore : Nat := 0x223408
def Fd.monVcoreMv : FieldAt := ⟨Adr.monVcore, 11, 0⟩
def Adr.monVsram : Nat := 0x22340C
def Fd.monVsramMv : FieldAt := ⟨Adr.monVsram, 11, 0⟩
def Adr.monVaon : Nat := 0x223410
def Fd.monVaonMv : FieldAt := ⟨Adr.monVaon, 11, 0⟩
def Adr.monVbat : Nat := 0x223414
def Fd.monVbatMv : FieldAt := ⟨Adr.monVbat, 11, 0⟩

def Adr.pcHits : Nat := 0xA0000
def Fd.pcHitsCount : FieldAt := ⟨Adr.pcHits, 19, 0⟩
def Adr.pcMisses : Nat := 0xA0004
def Fd.pcMissesCount : FieldAt := ⟨Adr.pcMisses, 19, 0⟩

/-- R15: the registers of its table. -/
def RegMap.faceChip : Block :=
  { id := .faceChip, base := 0x2000, idx := [], auth := .either, dom := .main, regs := [
    ⟨0x0, [], [⟨15, 0, .ro, .now, 0x0, false⟩]⟩,
    ⟨0x4, [], [⟨15, 0, .ro, .now, 0x0, false⟩]⟩,
    ⟨0x8, [], [⟨15, 0, .ro, .now, 0x0, false⟩]⟩,
    ⟨0xC, [], [⟨15, 0, .ro, .now, 0x0, false⟩]⟩,
    ⟨0x10, [], [⟨14, 12, .ro, .now, 0x0, false⟩, ⟨11, 11, .ro, .now, 0x0, false⟩, ⟨10, 9, .ro, .now, 0x0, false⟩, ⟨8, 7, .ro, .now, 0x0, false⟩, ⟨6, 4, .ro, .now, 0x0, false⟩, ⟨3, 2, .ro, .now, 0x0, false⟩, ⟨1, 0, .ro, .now, 0x0, false⟩]⟩,
    ⟨0x14, [], [⟨2, 0, .wo, .now, 0x0, false⟩]⟩,
    ⟨0x18, [], [⟨7, 0, .w1c, .now, 0x0, false⟩]⟩,
    ⟨0x1C, [], [⟨7, 0, .ro, .now, 0x0, false⟩]⟩,
    ⟨0x20, [], [⟨15, 15, .ro, .now, 0x0, false⟩, ⟨9, 0, .ro, .now, 0x0, false⟩]⟩,
    ⟨0x24, [], [⟨15, 8, .ro, .now, 0x0, false⟩, ⟨7, 0, .ro, .now, 0x0, false⟩]⟩,
    ⟨0x28, [], [⟨11, 0, .ro, .now, 0x0, false⟩]⟩] }

/-- R15: the registers of its table. -/
def RegMap.faceSpan : Block :=
  { id := .faceSpan, base := 0x3000, idx := [], auth := .either, dom := .main, regs := [
    ⟨0x0, [], [⟨15, 0, .ro, .now, 0x0, false⟩]⟩,
    ⟨0x4, [], [⟨15, 0, .ro, .now, 0x0, false⟩]⟩,
    ⟨0x8, [], [⟨15, 0, .ro, .now, 0x0, false⟩]⟩,
    ⟨0xC, [], [⟨15, 0, .ro, .now, 0x0, false⟩]⟩,
    ⟨0x10, [], [⟨14, 12, .ro, .now, 0x0, false⟩, ⟨11, 11, .ro, .now, 0x0, false⟩, ⟨10, 9, .ro, .now, 0x0, false⟩, ⟨8, 7, .ro, .now, 0x0, false⟩, ⟨6, 4, .ro, .now, 0x0, false⟩, ⟨3, 2, .ro, .now, 0x0, false⟩, ⟨1, 0, .ro, .now, 0x0, false⟩]⟩,
    ⟨0x14, [], [⟨2, 0, .wo, .now, 0x0, false⟩]⟩,
    ⟨0x18, [], [⟨7, 0, .w1c, .now, 0x0, false⟩]⟩,
    ⟨0x1C, [], [⟨7, 0, .ro, .now, 0x0, false⟩]⟩,
    ⟨0x20, [], [⟨15, 15, .ro, .now, 0x0, false⟩, ⟨9, 0, .ro, .now, 0x0, false⟩]⟩,
    ⟨0x24, [], [⟨15, 8, .ro, .now, 0x0, false⟩, ⟨7, 0, .ro, .now, 0x0, false⟩]⟩,
    ⟨0x28, [], [⟨11, 0, .ro, .now, 0x0, false⟩]⟩] }

/-- R15: the registers of its table. -/
def RegMap.faceGroup : Block :=
  { id := .faceGroup, base := 0x4000, idx := [], auth := .either, dom := .main, regs := [
    ⟨0x0, [], [⟨15, 0, .ro, .now, 0x0, false⟩]⟩,
    ⟨0x4, [], [⟨15, 0, .ro, .now, 0x0, false⟩]⟩,
    ⟨0x8, [], [⟨15, 0, .ro, .now, 0x0, false⟩]⟩,
    ⟨0xC, [], [⟨15, 0, .ro, .now, 0x0, false⟩]⟩,
    ⟨0x10, [], [⟨14, 12, .ro, .now, 0x0, false⟩, ⟨11, 11, .ro, .now, 0x0, false⟩, ⟨10, 9, .ro, .now, 0x0, false⟩, ⟨8, 7, .ro, .now, 0x0, false⟩, ⟨6, 4, .ro, .now, 0x0, false⟩, ⟨3, 2, .ro, .now, 0x0, false⟩, ⟨1, 0, .ro, .now, 0x0, false⟩]⟩,
    ⟨0x14, [], [⟨2, 0, .wo, .now, 0x0, false⟩]⟩,
    ⟨0x18, [], [⟨7, 0, .w1c, .now, 0x0, false⟩]⟩,
    ⟨0x1C, [], [⟨7, 0, .ro, .now, 0x0, false⟩]⟩,
    ⟨0x20, [], [⟨15, 15, .ro, .now, 0x0, false⟩, ⟨9, 0, .ro, .now, 0x0, false⟩]⟩,
    ⟨0x24, [], [⟨15, 8, .ro, .now, 0x0, false⟩, ⟨7, 0, .ro, .now, 0x0, false⟩]⟩,
    ⟨0x28, [], [⟨11, 0, .ro, .now, 0x0, false⟩]⟩] }

/-- R15: the registers of its table. -/
def RegMap.faceHall : Block :=
  { id := .faceHall, base := 0x10000, idx := [(8, 0x1000)], auth := .either, dom := .main, regs := [
    ⟨0x0, [], [⟨15, 0, .ro, .now, 0x0, false⟩]⟩,
    ⟨0x4, [], [⟨15, 0, .ro, .now, 0x0, false⟩]⟩,
    ⟨0x8, [], [⟨15, 0, .ro, .now, 0x0, false⟩]⟩,
    ⟨0xC, [], [⟨15, 0, .ro, .now, 0x0, false⟩]⟩,
    ⟨0x10, [], [⟨14, 12, .ro, .now, 0x0, false⟩, ⟨11, 11, .ro, .now, 0x0, false⟩, ⟨10, 9, .ro, .now, 0x0, false⟩, ⟨8, 7, .ro, .now, 0x0, false⟩, ⟨6, 4, .ro, .now, 0x0, false⟩, ⟨3, 2, .ro, .now, 0x0, false⟩, ⟨1, 0, .ro, .now, 0x0, false⟩]⟩,
    ⟨0x14, [], [⟨2, 0, .wo, .now, 0x0, false⟩]⟩,
    ⟨0x18, [], [⟨7, 0, .w1c, .now, 0x0, false⟩]⟩,
    ⟨0x1C, [], [⟨7, 0, .ro, .now, 0x0, false⟩]⟩,
    ⟨0x20, [], [⟨15, 15, .ro, .now, 0x0, false⟩, ⟨9, 0, .ro, .now, 0x0, false⟩]⟩,
    ⟨0x24, [], [⟨15, 8, .ro, .now, 0x0, false⟩, ⟨7, 0, .ro, .now, 0x0, false⟩]⟩,
    ⟨0x28, [], [⟨11, 0, .ro, .now, 0x0, false⟩]⟩] }

/-- R15: the registers of its table. -/
def RegMap.faceQuad : Block :=
  { id := .faceQuad, base := 0x1000000, idx := [(32, 0x10000)], auth := .either, dom := .main, regs := [
    ⟨0x0, [], [⟨15, 0, .ro, .now, 0x0, false⟩]⟩,
    ⟨0x4, [], [⟨15, 0, .ro, .now, 0x0, false⟩]⟩,
    ⟨0x8, [], [⟨15, 0, .ro, .now, 0x0, false⟩]⟩,
    ⟨0xC, [], [⟨15, 0, .ro, .now, 0x0, false⟩]⟩,
    ⟨0x10, [], [⟨14, 12, .ro, .now, 0x0, false⟩, ⟨11, 11, .ro, .now, 0x0, false⟩, ⟨10, 9, .ro, .now, 0x0, false⟩, ⟨8, 7, .ro, .now, 0x0, false⟩, ⟨6, 4, .ro, .now, 0x0, false⟩, ⟨3, 2, .ro, .now, 0x0, false⟩, ⟨1, 0, .ro, .now, 0x0, false⟩]⟩,
    ⟨0x14, [], [⟨2, 0, .wo, .now, 0x0, false⟩]⟩,
    ⟨0x18, [], [⟨7, 0, .w1c, .now, 0x0, false⟩]⟩,
    ⟨0x1C, [], [⟨7, 0, .ro, .now, 0x0, false⟩]⟩,
    ⟨0x20, [], [⟨15, 15, .ro, .now, 0x0, false⟩, ⟨9, 0, .ro, .now, 0x0, false⟩]⟩,
    ⟨0x24, [], [⟨15, 8, .ro, .now, 0x0, false⟩, ⟨7, 0, .ro, .now, 0x0, false⟩]⟩,
    ⟨0x28, [], [⟨11, 0, .ro, .now, 0x0, false⟩]⟩] }

/-- R15: the registers of its table. -/
def RegMap.faceEng : Block :=
  { id := .faceEng, base := 0x1001000, idx := [(32, 0x10000), (4, 0x1000)], auth := .either, dom := .main, regs := [
    ⟨0x0, [], [⟨15, 0, .ro, .now, 0x0, false⟩]⟩,
    ⟨0x4, [], [⟨15, 0, .ro, .now, 0x0, false⟩]⟩,
    ⟨0x8, [], [⟨15, 0, .ro, .now, 0x0, false⟩]⟩,
    ⟨0xC, [], [⟨15, 0, .ro, .now, 0x0, false⟩]⟩,
    ⟨0x10, [], [⟨14, 12, .ro, .now, 0x0, false⟩, ⟨11, 11, .ro, .now, 0x0, false⟩, ⟨10, 9, .ro, .now, 0x0, false⟩, ⟨8, 7, .ro, .now, 0x0, false⟩, ⟨6, 4, .ro, .now, 0x0, false⟩, ⟨3, 2, .ro, .now, 0x0, false⟩, ⟨1, 0, .ro, .now, 0x0, false⟩]⟩,
    ⟨0x14, [], [⟨2, 0, .wo, .now, 0x0, false⟩]⟩,
    ⟨0x18, [], [⟨7, 0, .w1c, .now, 0x0, false⟩]⟩,
    ⟨0x1C, [], [⟨7, 0, .ro, .now, 0x0, false⟩]⟩,
    ⟨0x20, [], [⟨15, 15, .ro, .now, 0x0, false⟩, ⟨9, 0, .ro, .now, 0x0, false⟩]⟩,
    ⟨0x24, [], [⟨15, 8, .ro, .now, 0x0, false⟩, ⟨7, 0, .ro, .now, 0x0, false⟩]⟩,
    ⟨0x28, [], [⟨11, 0, .ro, .now, 0x0, false⟩]⟩] }

/-- R57: the registers of its table. -/
def RegMap.tl : Block :=
  { id := .tl, base := 0x20000, idx := [(32, 0x100)], auth := .either, dom := .main, regs := [
    ⟨0x0, [], [⟨19, 0, .ro, .now, 0x0, false⟩]⟩,
    ⟨0x4, [], [⟨19, 0, .ro, .now, 0x0, false⟩]⟩,
    ⟨0x8, [], [⟨19, 0, .rw, .now, 0x0, false⟩]⟩,
    ⟨0xC, [], [⟨19, 17, .rw, .stop, 0x0, false⟩, ⟨16, 16, .rw, .now, 0x0, false⟩]⟩,
    ⟨0x10, [], [⟨19, 0, .rw, .stop, 0x0, false⟩]⟩,
    ⟨0x14, [], [⟨19, 10, .rw, .stop, 0x0, false⟩, ⟨7, 0, .rw, .stop, 0x0, false⟩]⟩,
    ⟨0x18, [], [⟨19, 10, .rw, .stop, 0x0, false⟩, ⟨9, 0, .rw, .stop, 0x0, false⟩]⟩,
    ⟨0x1C, [], [⟨19, 18, .rw, .stop, 0x0, false⟩, ⟨17, 17, .rw, .stop, 0x0, false⟩, ⟨16, 15, .rw, .now, 0x0, false⟩, ⟨14, 13, .rw, .now, 0x0, false⟩, ⟨12, 8, .rw, .stop, 0x0, false⟩]⟩,
    ⟨0x20, [], [⟨19, 0, .rw, .now, 0x0, false⟩]⟩,
    ⟨0x24, [], [⟨19, 18, .rw, .stop, 0x0, false⟩, ⟨15, 0, .rw, .now, 0x0, false⟩]⟩,
    ⟨0x28, [], [⟨19, 19, .ro, .now, 0x0, false⟩, ⟨18, 18, .ro, .now, 0x0, false⟩, ⟨15, 0, .ro, .now, 0x0, false⟩]⟩,
    ⟨0x2C, [], [⟨15, 10, .rw, .now, 0x3F, false⟩, ⟨9, 0, .rw, .now, 0x3FF, false⟩]⟩,
    ⟨0x30, [], [⟨19, 0, .wo, .now, 0x0, false⟩]⟩,
    ⟨0x34, [], [⟨19, 0, .wo, .now, 0x0, false⟩]⟩,
    ⟨0x38, [], [⟨19, 0, .wo, .now, 0x0, false⟩]⟩,
    ⟨0x3C, [], [⟨7, 7, .w1c, .now, 0x0, false⟩, ⟨6, 6, .w1c, .now, 0x0, false⟩, ⟨5, 5, .w1c, .now, 0x0, false⟩, ⟨4, 4, .w1c, .now, 0x0, false⟩, ⟨3, 3, .w1c, .now, 0x0, false⟩, ⟨2, 2, .w1c, .now, 0x0, false⟩, ⟨1, 1, .w1c, .now, 0x0, false⟩, ⟨0, 0, .ro, .now, 0x0, false⟩]⟩,
    ⟨0x40, [], [⟨19, 0, .rc, .now, 0x0, false⟩]⟩,
    ⟨0x44, [], [⟨19, 0, .ro, .now, 0x0, false⟩]⟩,
    ⟨0x48, [], [⟨19, 0, .rw, .now, 0x0, false⟩]⟩] }

/-- R77: the registers of its table. -/
def RegMap.l : Block :=
  { id := .l, base := 0x40000, idx := [(512, 0x40)], auth := .either, dom := .main, regs := [
    ⟨0x0, [], [⟨19, 18, .rw, .stop, 0x0, false⟩, ⟨17, 16, .rw, .stop, 0x0, false⟩, ⟨15, 15, .rw, .now, 0x0, false⟩, ⟨14, 14, .rw, .now, 0x0, false⟩, ⟨13, 13, .rw, .now, 0x0, false⟩, ⟨12, 8, .rw, .stop, 0x0, false⟩, ⟨7, 0, .rw, .now, 0x0, false⟩]⟩,
    ⟨0x4, [], [⟨19, 0, .rw, .now, 0x0, false⟩]⟩,
    ⟨0x8, [], [⟨19, 0, .rw, .now, 0x0, false⟩]⟩,
    ⟨0xC, [], [⟨19, 0, .rw, .now, 0x0, false⟩]⟩,
    ⟨0x10, [], [⟨19, 0, .rw, .now, 0x0, false⟩]⟩,
    ⟨0x14, [], [⟨7, 0, .rw, .stop, 0x0, false⟩]⟩,
    ⟨0x18, [], [⟨19, 0, .rw, .now, 0x0, false⟩]⟩,
    ⟨0x1C, [], [⟨4, 4, .ro, .now, 0x0, false⟩, ⟨3, 3, .w1c, .now, 0x0, false⟩, ⟨2, 2, .w1c, .now, 0x0, false⟩, ⟨1, 1, .w1c, .now, 0x0, false⟩, ⟨0, 0, .w1c, .now, 0x0, false⟩]⟩,
    ⟨0x20, [], [⟨15, 0, .rc, .now, 0x0, false⟩]⟩,
    ⟨0x24, [], [⟨19, 0, .ro, .now, 0x0, false⟩]⟩] }

/-- R86: the registers of its table. -/
def RegMap.eq : Block :=
  { id := .eq, base := 0x60000, idx := [(1024, 0x40)], auth := .either, dom := .main, regs := [
    ⟨0x0, [], [⟨19, 15, .rw, .stop, 0x0, false⟩, ⟨14, 14, .rw, .stop, 0x0, false⟩, ⟨13, 12, .rw, .now, 0x0, false⟩, ⟨11, 11, .rw, .now, 0x0, false⟩, ⟨7, 0, .rw, .stop, 0x0, false⟩]⟩,
    ⟨0x4, [], [⟨19, 19, .rw, .now, 0x0, false⟩, ⟨18, 11, .rw, .now, 0x0, false⟩, ⟨10, 10, .rw, .now, 0x0, false⟩, ⟨9, 2, .rw, .now, 0x0, false⟩]⟩,
    ⟨0x8, [], [⟨11, 9, .ro, .now, 0x0, false⟩, ⟨8, 7, .ro, .now, 0x0, false⟩, ⟨6, 6, .w1c, .now, 0x0, false⟩, ⟨5, 5, .w1c, .now, 0x0, false⟩, ⟨4, 4, .w1c, .now, 0x0, false⟩, ⟨3, 3, .w1c, .now, 0x0, false⟩, ⟨2, 2, .w1c, .now, 0x0, false⟩, ⟨1, 1, .w1c, .now, 0x0, false⟩]⟩,
    ⟨0xC, [], [⟨19, 0, .wo, .now, 0x0, false⟩]⟩,
    ⟨0x10, [], [⟨19, 0, .wo, .now, 0x0, false⟩]⟩,
    ⟨0x14, [], [⟨19, 0, .wo, .now, 0x0, false⟩]⟩,
    ⟨0x18, [], [⟨19, 0, .wo, .now, 0x0, false⟩]⟩,
    ⟨0x1C, [], [⟨0, 0, .wo, .now, 0x0, false⟩]⟩,
    ⟨0x20, [], [⟨19, 19, .ro, .now, 0x0, false⟩, ⟨18, 18, .ro, .now, 0x0, false⟩]⟩,
    ⟨0x24, [], [⟨19, 0, .ro, .now, 0x0, false⟩]⟩,
    ⟨0x28, [], [⟨19, 0, .rc, .now, 0x0, false⟩]⟩] }

/-- R105: the registers of its table. -/
def RegMap.c : Block :=
  { id := .c, base := 0x30000, idx := [(256, 0x20)], auth := .either, dom := .main, regs := [
    ⟨0x0, [], [⟨19, 17, .rw, .now, 0x0, false⟩, ⟨16, 16, .rw, .now, 0x0, false⟩, ⟨6, 0, .rw, .now, 0x0, false⟩]⟩,
    ⟨0x4, [], [⟨19, 19, .rw, .now, 0x0, false⟩, ⟨18, 17, .rw, .now, 0x0, false⟩, ⟨16, 10, .rw, .now, 0x0, false⟩, ⟨9, 7, .rw, .now, 0x0, false⟩]⟩,
    ⟨0x8, [], [⟨19, 19, .rw, .now, 0x0, false⟩, ⟨18, 17, .rw, .now, 0x0, false⟩, ⟨16, 10, .rw, .now, 0x0, false⟩, ⟨9, 7, .rw, .now, 0x0, false⟩]⟩,
    ⟨0xC, [], [⟨0, 0, .rw, .now, 0x0, false⟩]⟩,
    ⟨0x10, [], [⟨0, 0, .wo, .now, 0x0, false⟩]⟩,
    ⟨0x14, [], [⟨0, 0, .w1c, .now, 0x0, false⟩]⟩,
    ⟨0x18, [], [⟨19, 0, .rc, .now, 0x0, false⟩]⟩] }

/-- R107: the registers of its table. -/
def RegMap.ti : Block :=
  { id := .ti, base := 0x34000, idx := [(128, 0x40)], auth := .either, dom := .quad, regs := [
    ⟨0x0, [(8, 0x4)], [⟨4, 4, .w1c, .now, 0x0, false⟩, ⟨3, 0, .rw, .now, 0x0, false⟩]⟩,
    ⟨0x20, [(8, 0x4)], [⟨19, 0, .ro, .now, 0x0, false⟩]⟩] }

/-- R169: the registers of its table. -/
def RegMap.eng : Block :=
  { id := .eng, base := 0x1001000, idx := [(32, 0x10000), (4, 0x1000)], auth := .either, dom := .quad, regs := [
    ⟨0x100, [], [⟨19, 8, .rw, .now, 0x0, false⟩]⟩,
    ⟨0x104, [], [⟨19, 19, .rw, .now, 0x0, false⟩, ⟨15, 0, .rw, .now, 0x0, false⟩]⟩,
    ⟨0x108, [], [⟨19, 0, .wo, .now, 0x0, false⟩]⟩,
    ⟨0x10C, [], [⟨19, 19, .ro, .now, 0x0, false⟩, ⟨15, 0, .ro, .now, 0x0, false⟩]⟩,
    ⟨0x110, [], [⟨19, 19, .rw, .now, 0x0, false⟩, ⟨18, 18, .wo, .now, 0x0, false⟩, ⟨17, 17, .rw, .now, 0x0, false⟩]⟩,
    ⟨0x114, [], [⟨19, 19, .ro, .now, 0x0, false⟩, ⟨18, 18, .ro, .now, 0x0, false⟩, ⟨17, 17, .ro, .now, 0x0, false⟩, ⟨3, 0, .ro, .now, 0x0, false⟩]⟩,
    ⟨0x118, [], [⟨19, 0, .rw, .stop, 0x0, false⟩]⟩,
    ⟨0x140, [(16, 0x4)], [⟨19, 0, .rw, .stop, 0x0, false⟩]⟩,
    ⟨0x180, [(16, 0x4)], [⟨19, 0, .rw, .stop, 0x0, false⟩]⟩] }

/-- R202: the registers of its table. -/
def RegMap.join : Block :=
  { id := .join, base := 0x80000, idx := [(6, 0x4000)], auth := .either, dom := .main, regs := [
    ⟨0x100, [], [⟨9, 9, .rw, .frame, 0x0, false⟩, ⟨8, 8, .rw, .frame, 0x0, false⟩, ⟨7, 4, .rw, .now, 0x2, false⟩, ⟨3, 0, .rw, .frame, 0x4, false⟩]⟩,
    ⟨0x104, [], [⟨29, 20, .rw, .line, 0x0, false⟩, ⟨19, 10, .rw, .line, 0x0, false⟩, ⟨9, 0, .rw, .line, 0x0, false⟩]⟩,
    ⟨0x108, [], [⟨19, 0, .rw, .line, 0x43210, false⟩]⟩,
    ⟨0x10C, [], [⟨19, 0, .rw, .line, 0x98765, false⟩]⟩,
    ⟨0x110, [], [⟨15, 0, .rw, .line, 0xDCBA, false⟩]⟩,
    ⟨0x114, [], [⟨19, 16, .ro, .now, 0x0, false⟩, ⟨12, 0, .ro, .now, 0x0, false⟩]⟩,
    ⟨0x118, [], [⟨19, 0, .rc, .now, 0x0, false⟩]⟩,
    ⟨0x120, [], [⟨0, 0, .rw, .frame, 0x0, false⟩]⟩,
    ⟨0x124, [], [⟨27, 0, .rw, .frame, 0x0, false⟩]⟩,
    ⟨0x128, [], [⟨4, 4, .w1c, .now, 0x0, false⟩, ⟨3, 3, .w1c, .now, 0x0, false⟩, ⟨2, 2, .w1c, .now, 0x0, false⟩, ⟨1, 1, .w1c, .now, 0x0, false⟩, ⟨0, 0, .ro, .now, 0x0, false⟩]⟩,
    ⟨0x12C, [], [⟨19, 0, .ro, .now, 0x0, false⟩]⟩] }

/-- R203: the registers of its table. -/
def RegMap.vid : Block :=
  { id := .vid, base := 0x80200, idx := [(6, 0x4000), (4, 0x80)], auth := .either, dom := .main, regs := [
    ⟨0x0, [], [⟨8, 8, .rw, .frame, 0x0, false⟩, ⟨7, 7, .rw, .line, 0x0, false⟩, ⟨6, 6, .rw, .line, 0x0, false⟩, ⟨5, 4, .rw, .frame, 0x0, false⟩, ⟨3, 1, .rw, .frame, 0x6, false⟩, ⟨0, 0, .rw, .line, 0x0, false⟩]⟩,
    ⟨0x4, [], [⟨31, 6, .rw, .frame, 0x0, false⟩]⟩,
    ⟨0x8, [], [⟨31, 0, .rw, .frame, 0x0, false⟩]⟩,
    ⟨0xC, [], [⟨17, 6, .rw, .frame, 0x0, false⟩]⟩,
    ⟨0x10, [], [⟨13, 0, .rw, .frame, 0x0, false⟩]⟩,
    ⟨0x14, [], [⟨13, 0, .rw, .frame, 0x0, false⟩]⟩,
    ⟨0x18, [], [⟨13, 0, .rw, .frame, 0x0, false⟩]⟩,
    ⟨0x1C, [], [⟨13, 0, .rw, .frame, 0x0, false⟩]⟩,
    ⟨0x20, [], [⟨14, 0, .rw, .line, 0x0, false⟩]⟩,
    ⟨0x24, [], [⟨14, 0, .rw, .frame, 0x0, false⟩]⟩,
    ⟨0x28, [], [⟨13, 0, .rw, .line, 0x0, false⟩]⟩,
    ⟨0x2C, [], [⟨13, 0, .rw, .frame, 0x0, false⟩]⟩,
    ⟨0x30, [], [⟨19, 0, .rw, .frame, 0x10000, false⟩]⟩,
    ⟨0x34, [], [⟨19, 0, .rw, .frame, 0x10000, false⟩]⟩,
    ⟨0x38, [], [⟨15, 0, .rw, .frame, 0x0, false⟩]⟩,
    ⟨0x3C, [], [⟨15, 0, .rw, .frame, 0x0, false⟩]⟩,
    ⟨0x40, [], [⟨31, 0, .rw, .line, 0xFFFFFFFF, false⟩]⟩,
    ⟨0x44, [], [⟨8, 8, .rw, .now, 0x0, false⟩, ⟨7, 3, .rw, .now, 0x0, false⟩, ⟨2, 0, .rw, .now, 0x0, false⟩]⟩,
    ⟨0x48, [], [⟨9, 0, .rw, .stop, 0x0, false⟩]⟩,
    ⟨0x4C, [], [⟨1, 1, .w1c, .now, 0x0, false⟩, ⟨0, 0, .w1c, .now, 0x0, false⟩]⟩] }

/-- R204: the registers of its table. -/
def RegMap.til : Block :=
  { id := .til, base := 0x80400, idx := [(6, 0x4000), (8, 0x40)], auth := .either, dom := .main, regs := [
    ⟨0x0, [], [⟨11, 11, .rw, .line, 0x0, false⟩, ⟨10, 10, .rw, .line, 0x0, false⟩, ⟨9, 9, .rw, .line, 0x0, false⟩, ⟨8, 6, .rw, .line, 0x0, false⟩, ⟨5, 4, .rw, .line, 0x0, false⟩, ⟨0, 0, .rw, .line, 0x0, false⟩]⟩,
    ⟨0x4, [], [⟨18, 0, .rw, .line, 0x0, false⟩]⟩,
    ⟨0x8, [], [⟨16, 0, .rw, .line, 0x0, false⟩]⟩,
    ⟨0xC, [], [⟨16, 0, .rw, .line, 0x0, false⟩]⟩,
    ⟨0x10, [], [⟨11, 0, .rw, .line, 0x0, false⟩]⟩,
    ⟨0x14, [], [⟨11, 0, .rw, .line, 0x0, false⟩]⟩,
    ⟨0x18, [], [⟨12, 0, .rw, .line, 0x0, false⟩]⟩,
    ⟨0x1C, [], [⟨27, 0, .rw, .line, 0x0, false⟩]⟩,
    ⟨0x20, [], [⟨13, 0, .rw, .line, 0x0, false⟩]⟩,
    ⟨0x24, [], [⟨31, 0, .rw, .line, 0xFFFFFFFF, false⟩]⟩,
    ⟨0x28, [], [⟨13, 0, .rw, .line, 0x0, false⟩]⟩,
    ⟨0x2C, [], [⟨13, 0, .rw, .line, 0x3FFF, false⟩]⟩,
    ⟨0x30, [], [⟨0, 0, .w1c, .now, 0x0, false⟩]⟩] }

/-- R218: the registers of its table. -/
def RegMap.spr : Block :=
  { id := .spr, base := 0x80000, idx := [(6, 0x4000)], auth := .either, dom := .main, regs := [
    ⟨0x600, [], [⟨19, 19, .rw, .line, 0x0, false⟩, ⟨14, 0, .rw, .line, 0x4000, false⟩]⟩,
    ⟨0x604, [], [⟨13, 0, .rw, .line, 0x0, false⟩]⟩,
    ⟨0x608, [], [⟨3, 3, .w1c, .now, 0x0, false⟩, ⟨2, 2, .w1c, .now, 0x0, false⟩, ⟨1, 1, .w1c, .now, 0x0, false⟩, ⟨0, 0, .w1c, .now, 0x0, false⟩]⟩,
    ⟨0x60C, [], [⟨8, 0, .ro, .now, 0x0, false⟩]⟩,
    ⟨0x610, [], [⟨19, 0, .rc, .now, 0x0, false⟩]⟩,
    ⟨0x614, [], [⟨12, 0, .ro, .now, 0x0, false⟩]⟩] }

/-- R219: the registers of its table. -/
def RegMap.plane : Block :=
  { id := .plane, base := 0x80640, idx := [(6, 0x4000), (2, 0x20)], auth := .either, dom := .main, regs := [
    ⟨0x0, [], [⟨2, 2, .rw, .line, 0x0, false⟩, ⟨1, 1, .rw, .line, 0x0, false⟩, ⟨0, 0, .rw, .line, 0x0, false⟩]⟩,
    ⟨0x4, [], [⟨27, 0, .rw, .line, 0x0, false⟩]⟩,
    ⟨0x8, [], [⟨13, 0, .rw, .line, 0x0, false⟩]⟩,
    ⟨0xC, [], [⟨31, 0, .rw, .line, 0xFFFFFFFF, false⟩]⟩,
    ⟨0x10, [], [⟨0, 0, .w1c, .now, 0x0, false⟩]⟩] }

/-- R247: the registers of its table. -/
def RegMap.head : Block :=
  { id := .head, base := 0x80000, idx := [(6, 0x4000)], auth := .either, dom := .main, regs := [
    ⟨0x0, [], [⟨4, 4, .rw, .now, 0x0, false⟩, ⟨3, 3, .rw, .stop, 0x0, false⟩, ⟨2, 1, .rw, .stop, 0x0, false⟩, ⟨0, 0, .rw, .now, 0x0, false⟩]⟩,
    ⟨0x4, [], [⟨5, 5, .ro, .now, 0x0, false⟩, ⟨4, 4, .ro, .now, 0x0, false⟩, ⟨3, 3, .w1c, .now, 0x0, false⟩, ⟨2, 2, .w1c, .now, 0x0, false⟩, ⟨1, 1, .ro, .now, 0x0, false⟩, ⟨0, 0, .ro, .now, 0x0, false⟩]⟩,
    ⟨0x8, [], [⟨13, 0, .rw, .stop, 0x0, false⟩]⟩,
    ⟨0xC, [], [⟨14, 0, .rw, .frame, 0x0, false⟩]⟩,
    ⟨0x10, [], [⟨29, 16, .rw, .stop, 0x0, false⟩, ⟨13, 0, .rw, .stop, 0x0, false⟩]⟩,
    ⟨0x14, [], [⟨12, 0, .rw, .stop, 0x0, false⟩]⟩,
    ⟨0x18, [], [⟨13, 0, .rw, .frame, 0x0, false⟩]⟩,
    ⟨0x1C, [], [⟨28, 16, .rw, .stop, 0x0, false⟩, ⟨12, 0, .rw, .stop, 0x0, false⟩]⟩,
    ⟨0x20, [], [⟨2, 2, .rw, .stop, 0x1, false⟩, ⟨1, 1, .rw, .stop, 0x0, false⟩, ⟨0, 0, .rw, .stop, 0x0, false⟩]⟩,
    ⟨0x24, [], [⟨20, 0, .rw, .stop, 0x0, false⟩]⟩,
    ⟨0x28, [], [⟨16, 16, .ro, .now, 0x0, false⟩, ⟨15, 0, .ro, .now, 0x0, false⟩]⟩,
    ⟨0x30, [], [⟨25, 16, .rw, .stop, 0x0, false⟩, ⟨14, 12, .rw, .now, 0x3, false⟩, ⟨10, 8, .rw, .stop, 0x0, false⟩, ⟨4, 4, .rw, .stop, 0x0, false⟩, ⟨2, 0, .rw, .stop, 0x0, false⟩]⟩,
    ⟨0x34, [], [⟨26, 14, .rw, .now, 0x0, false⟩, ⟨13, 0, .rw, .now, 0x0, false⟩]⟩,
    ⟨0x38, [], [⟨31, 16, .rw, .now, 0x1F4, false⟩, ⟨15, 0, .rw, .now, 0x40, false⟩]⟩,
    ⟨0x3C, [], [⟨31, 0, .rw, .stop, 0x0, false⟩]⟩,
    ⟨0x40, [], [⟨31, 0, .rw, .now, 0x0, false⟩]⟩,
    ⟨0x44, [], [⟨19, 19, .ro, .now, 0x0, false⟩, ⟨18, 18, .ro, .now, 0x0, false⟩, ⟨17, 17, .ro, .now, 0x0, false⟩, ⟨2, 0, .ro, .now, 0x0, false⟩]⟩,
    ⟨0x48, [], [⟨19, 0, .ro, .now, 0x0, false⟩]⟩,
    ⟨0x4C, [], [⟨19, 0, .rc, .now, 0x0, false⟩]⟩,
    ⟨0x50, [], [⟨15, 0, .ro, .now, 0x0, false⟩]⟩,
    ⟨0x700, [(5, 0x4)], [⟨8, 8, .rw, .now, 0x0, false⟩, ⟨7, 0, .rw, .now, 0x0, false⟩]⟩,
    ⟨0x720, [], [⟨19, 0, .rc, .now, 0x0, false⟩]⟩,
    ⟨0x724, [], [⟨12, 0, .ro, .now, 0x0, false⟩]⟩,
    ⟨0x728, [], [⟨6, 0, .w1c, .now, 0x0, false⟩]⟩,
    ⟨0x72C, [], [⟨6, 0, .rw, .now, 0x0, false⟩]⟩,
    ⟨0x780, [], [⟨19, 0, .ro, .now, 0x0, false⟩]⟩,
    ⟨0x784, [], [⟨31, 0, .ro, .now, 0x0, false⟩]⟩,
    ⟨0x788, [], [⟨27, 0, .ro, .now, 0x0, false⟩]⟩,
    ⟨0x78C, [], [⟨4, 0, .ro, .now, 0x0, false⟩]⟩,
    ⟨0x800, [], [⟨9, 9, .rw, .stop, 0x0, false⟩, ⟨8, 8, .rw, .now, 0x0, false⟩, ⟨7, 4, .rw, .stop, 0x0, false⟩, ⟨1, 0, .rw, .stop, 0x0, false⟩]⟩,
    ⟨0x804, [], [⟨0, 0, .wo, .now, 0x0, false⟩]⟩,
    ⟨0x808, [], [⟨12, 12, .ro, .now, 0x0, false⟩, ⟨11, 11, .ro, .now, 0x0, false⟩, ⟨10, 10, .ro, .now, 0x0, false⟩, ⟨9, 8, .ro, .now, 0x0, false⟩, ⟨7, 4, .ro, .now, 0x0, false⟩, ⟨3, 3, .ro, .now, 0x0, false⟩]⟩,
    ⟨0x840, [], [⟨31, 28, .rw, .now, 0x0, false⟩, ⟨27, 8, .rw, .now, 0x0, false⟩, ⟨3, 0, .rw, .now, 0x0, false⟩]⟩,
    ⟨0x844, [(4, 0x4)], [⟨31, 0, .rw, .now, 0x0, false⟩]⟩,
    ⟨0x854, [], [⟨19, 19, .ro, .now, 0x0, false⟩, ⟨18, 16, .ro, .now, 0x0, false⟩, ⟨4, 0, .ro, .now, 0x0, false⟩]⟩,
    ⟨0x880, [], [⟨4, 4, .rw, .stop, 0x0, false⟩, ⟨3, 3, .rw, .stop, 0x0, false⟩, ⟨2, 2, .rw, .stop, 0x0, false⟩, ⟨1, 1, .rw, .stop, 0x1, false⟩, ⟨0, 0, .rw, .stop, 0x1, false⟩]⟩,
    ⟨0x8C0, [], [⟨20, 16, .rw, .stop, 0xA, false⟩, ⟨12, 8, .rw, .stop, 0xA, false⟩, ⟨0, 0, .rw, .stop, 0x0, false⟩]⟩,
    ⟨0x8C4, [], [⟨4, 0, .rw, .frame, 0x0, false⟩]⟩,
    ⟨0x8C8, [(8, 0x4)], [⟨24, 16, .rw, .frame, 0x0, false⟩, ⟨8, 0, .rw, .frame, 0x0, false⟩]⟩] }

/-- R272: the registers of its table. -/
def RegMap.aud : Block :=
  { id := .aud, base := 0x0, idx := [], auth := .either, dom := .main, regs := [
    ⟨0xC0000, [], [⟨4, 4, .rw, .stop, 0x0, false⟩, ⟨0, 0, .rw, .now, 0x0, false⟩]⟩,
    ⟨0xC0004, [], [⟨5, 5, .ro, .now, 0x0, false⟩, ⟨4, 4, .w1c, .now, 0x0, false⟩, ⟨3, 3, .w1c, .now, 0x0, false⟩, ⟨2, 2, .w1c, .now, 0x0, false⟩, ⟨1, 1, .w1c, .now, 0x0, false⟩, ⟨0, 0, .w1c, .now, 0x0, false⟩]⟩,
    ⟨0xC0008, [], [⟨4, 0, .rw, .now, 0x0, false⟩]⟩,
    ⟨0xC000C, [], [⟨9, 0, .ro, .now, 0x0, false⟩]⟩,
    ⟨0xC0010, [], [⟨19, 0, .rc, .now, 0x0, false⟩]⟩] }

/-- R273: the registers of its table. -/
def RegMap.v : Block :=
  { id := .v, base := 0xD0000, idx := [(512, 0x80)], auth := .either, dom := .main, regs := [
    ⟨0x0, [], [⟨19, 18, .rw, .sample, 0x0, false⟩, ⟨17, 17, .rw, .sample, 0x0, false⟩, ⟨16, 16, .rw, .sample, 0x0, false⟩, ⟨15, 15, .rw, .now, 0x0, false⟩, ⟨7, 0, .rw, .now, 0x0, false⟩]⟩,
    ⟨0x4, [], [⟨1, 0, .wo, .sample, 0x0, false⟩]⟩,
    ⟨0x8, [], [⟨19, 0, .rw, .sample, 0x0, false⟩]⟩,
    ⟨0xC, [], [⟨19, 0, .rw, .sample, 0x0, false⟩]⟩,
    ⟨0x10, [], [⟨19, 0, .rw, .sample, 0x0, false⟩]⟩,
    ⟨0x14, [], [⟨19, 0, .rw, .sample, 0x0, false⟩]⟩,
    ⟨0x18, [], [⟨19, 0, .rw, .sample, 0x0, false⟩]⟩,
    ⟨0x1C, [], [⟨19, 0, .rw, .sample, 0x10000, false⟩]⟩,
    ⟨0x20, [], [⟨15, 0, .rw, .sample, 0x0, false⟩]⟩,
    ⟨0x24, [], [⟨15, 0, .rw, .sample, 0x0, false⟩]⟩,
    ⟨0x28, [], [⟨7, 0, .rw, .sample, 0xFF, false⟩]⟩,
    ⟨0x2C, [], [⟨15, 0, .rw, .sample, 0x0, false⟩]⟩,
    ⟨0x30, [], [⟨19, 19, .rw, .now, 0x0, false⟩, ⟨18, 18, .rw, .now, 0x0, false⟩, ⟨7, 0, .rw, .now, 0x0, false⟩]⟩,
    ⟨0x34, [], [⟨19, 17, .ro, .now, 0x0, false⟩, ⟨5, 5, .w1c, .now, 0x0, false⟩, ⟨4, 4, .w1c, .now, 0x0, false⟩, ⟨3, 3, .w1c, .now, 0x0, false⟩, ⟨2, 2, .w1c, .now, 0x0, false⟩, ⟨1, 1, .w1c, .now, 0x0, false⟩, ⟨0, 0, .w1c, .now, 0x0, false⟩]⟩,
    ⟨0x38, [], [⟨19, 0, .ro, .now, 0x0, false⟩]⟩,
    ⟨0x3C, [], [⟨19, 0, .ro, .now, 0x0, false⟩]⟩,
    ⟨0x40, [(4, 0x8)], [⟨19, 19, .rw, .sample, 0x0, false⟩, ⟨18, 14, .rw, .sample, 0x0, false⟩, ⟨8, 0, .rw, .sample, 0x80, false⟩]⟩,
    ⟨0x44, [(4, 0x8)], [⟨7, 0, .rw, .sample, 0xFF, false⟩]⟩] }

/-- R274: the registers of its table. -/
def RegMap.bus : Block :=
  { id := .bus, base := 0xC1000, idx := [(32, 0x40)], auth := .either, dom := .main, regs := [
    ⟨0x0, [], [⟨8, 0, .rw, .sample, 0x0, false⟩]⟩,
    ⟨0x4, [], [⟨15, 0, .rw, .sample, 0x1000, false⟩]⟩,
    ⟨0x8, [], [⟨19, 19, .rw, .sample, 0x0, false⟩, ⟨18, 14, .rw, .sample, 0x0, false⟩, ⟨7, 0, .rw, .sample, 0xFF, false⟩]⟩,
    ⟨0xC, [], [⟨9, 0, .ro, .now, 0x0, false⟩]⟩,
    ⟨0x10, [], [⟨19, 16, .rw, .now, 0x0, false⟩, ⟨15, 12, .rw, .now, 0x0, false⟩, ⟨11, 0, .rw, .now, 0x0, false⟩]⟩,
    ⟨0x14, [], [⟨18, 0, .rw, .now, 0x7FFFF, false⟩]⟩,
    ⟨0x18, [], [⟨19, 19, .rw, .now, 0x0, false⟩, ⟨7, 0, .rw, .now, 0x0, false⟩]⟩,
    ⟨0x1C, [], [⟨18, 0, .ro, .now, 0x0, false⟩]⟩,
    ⟨0x20, [], [⟨18, 0, .ro, .now, 0x0, false⟩]⟩,
    ⟨0x24, [], [⟨18, 0, .ro, .now, 0x0, false⟩]⟩,
    ⟨0x28, [], [⟨18, 0, .ro, .now, 0x0, false⟩]⟩,
    ⟨0x2C, [], [⟨3, 3, .w1c, .now, 0x0, false⟩, ⟨2, 2, .w1c, .now, 0x0, false⟩, ⟨1, 1, .w1c, .now, 0x0, false⟩, ⟨0, 0, .w1c, .now, 0x0, false⟩]⟩] }

/-- R275: the registers of its table. -/
def RegMap.port : Block :=
  { id := .port, base := 0xC2000, idx := [(16, 0x40)], auth := .either, dom := .main, regs := [
    ⟨0x0, [], [⟨17, 17, .rw, .stop, 0x0, false⟩, ⟨16, 15, .rw, .stop, 0x0, false⟩, ⟨14, 13, .rw, .stop, 0x0, false⟩, ⟨12, 11, .rw, .stop, 0x0, false⟩, ⟨10, 10, .rw, .stop, 0x0, false⟩]⟩,
    ⟨0x4, [], [⟨0, 0, .rw, .now, 0x0, false⟩]⟩,
    ⟨0x10, [(8, 0x4)], [⟨19, 19, .rw, .sample, 0x0, false⟩, ⟨17, 13, .rw, .sample, 0x0, false⟩, ⟨12, 12, .rw, .sample, 0x0, false⟩]⟩] }

/-- R276: the registers of its table. -/
def RegMap.spd : Block :=
  { id := .spd, base := 0x0, idx := [], auth := .either, dom := .main, regs := [
    ⟨0xC2400, [], [⟨0, 0, .rw, .now, 0x0, false⟩]⟩,
    ⟨0xC2404, [], [⟨16, 16, .rw, .now, 0x0, false⟩, ⟨15, 8, .rw, .now, 0x0, false⟩]⟩,
    ⟨0xC2408, [(2, 0x4)], [⟨19, 19, .rw, .sample, 0x0, false⟩, ⟨17, 13, .rw, .sample, 0x0, false⟩, ⟨12, 12, .rw, .sample, 0x0, false⟩]⟩] }

/-- R276: the registers of its table. -/
def RegMap.dpa : Block :=
  { id := .dpa, base := 0xC2800, idx := [(4, 0x40)], auth := .either, dom := .main, regs := [
    ⟨0x0, [], [⟨19, 19, .rw, .now, 0x0, false⟩, ⟨4, 4, .rw, .stop, 0x1, false⟩, ⟨1, 0, .rw, .stop, 0x0, false⟩]⟩,
    ⟨0x10, [(8, 0x4)], [⟨19, 19, .rw, .sample, 0x0, false⟩, ⟨17, 13, .rw, .sample, 0x0, false⟩, ⟨12, 12, .rw, .sample, 0x0, false⟩]⟩] }

/-- R277: the registers of its table. -/
def RegMap.inp : Block :=
  { id := .inp, base := 0xC3000, idx := [(32, 0x20)], auth := .either, dom := .main, regs := [
    ⟨0x0, [], [⟨19, 19, .rw, .now, 0x0, false⟩, ⟨18, 18, .rw, .stop, 0x0, false⟩, ⟨17, 14, .rw, .stop, 0x0, false⟩, ⟨13, 11, .rw, .stop, 0x0, false⟩]⟩,
    ⟨0x4, [], [⟨19, 19, .rw, .sample, 0x0, false⟩, ⟨18, 14, .rw, .sample, 0x0, false⟩, ⟨8, 0, .rw, .sample, 0x80, false⟩]⟩,
    ⟨0x8, [], [⟨7, 0, .rw, .sample, 0xFF, false⟩]⟩,
    ⟨0xC, [], [⟨18, 0, .ro, .now, 0x0, false⟩]⟩] }

/-- R294: the registers of its table. -/
def RegMap.post : Block :=
  { id := .post, base := 0x100000, idx := [(1024, 0x80)], auth := .either, dom := .main, regs := [
    ⟨0x0, [], [⟨19, 16, .rw, .now, 0x0, false⟩, ⟨15, 14, .rw, .now, 0x0, false⟩, ⟨13, 12, .rw, .now, 0x0, false⟩, ⟨11, 11, .rw, .now, 0x1, false⟩, ⟨10, 10, .rw, .now, 0x0, false⟩, ⟨9, 9, .rw, .now, 0x0, false⟩, ⟨8, 7, .rw, .now, 0x1, false⟩, ⟨6, 6, .rw, .now, 0x0, false⟩]⟩,
    ⟨0x4, [], [⟨19, 17, .rw, .now, 0x0, false⟩, ⟨16, 16, .rw, .now, 0x0, false⟩, ⟨6, 0, .rw, .now, 0x0, false⟩]⟩,
    ⟨0x8, [], [⟨1, 1, .rw, .now, 0x0, false⟩, ⟨0, 0, .rw, .now, 0x0, false⟩]⟩,
    ⟨0xC, [], [⟨2, 2, .ro, .now, 0x0, false⟩, ⟨1, 1, .ro, .now, 0x0, false⟩, ⟨0, 0, .ro, .now, 0x0, false⟩]⟩,
    ⟨0x10, [], [⟨19, 0, .wo, .now, 0x0, false⟩]⟩,
    ⟨0x14, [], [⟨4, 3, .ro, .now, 0x0, false⟩, ⟨2, 2, .ro, .now, 0x0, false⟩, ⟨1, 1, .w1c, .now, 0x0, false⟩, ⟨0, 0, .w1c, .now, 0x0, false⟩]⟩,
    ⟨0x18, [], [⟨19, 11, .rw, .now, 0x0, false⟩, ⟨10, 2, .rw, .now, 0x0, false⟩]⟩] }

/-- R295: the registers of its table. -/
def RegMap.prt : Block :=
  { id := .prt, base := 0x120000, idx := [(32, 0x1000)], auth := .either, dom := .main, regs := [
    ⟨0x0, [], [⟨0, 0, .rw, .stop, 0x0, false⟩]⟩,
    ⟨0x4, [], [⟨3, 3, .ro, .now, 0x0, false⟩, ⟨2, 2, .ro, .now, 0x0, false⟩, ⟨1, 1, .ro, .now, 0x0, true⟩, ⟨0, 0, .ro, .now, 0x0, true⟩]⟩,
    ⟨0x8, [], [⟨31, 0, .ro, .now, 0x0, false⟩]⟩,
    ⟨0xC, [], [⟨31, 0, .wo, .now, 0x0, false⟩]⟩,
    ⟨0x10, [], [⟨31, 0, .wo, .now, 0x0, false⟩]⟩,
    ⟨0x14, [], [⟨31, 0, .wo, .now, 0x0, false⟩]⟩,
    ⟨0x18, [], [⟨31, 0, .wo, .now, 0x0, false⟩]⟩,
    ⟨0x1C, [], [⟨19, 0, .rc, .now, 0x0, false⟩]⟩,
    ⟨0x40, [], [⟨19, 18, .rw, .now, 0x0, false⟩, ⟨17, 17, .rw, .stop, 0x0, false⟩, ⟨16, 16, .rw, .stop, 0x0, false⟩, ⟨15, 15, .rw, .stop, 0x0, false⟩, ⟨14, 14, .rw, .stop, 0x0, false⟩, ⟨13, 13, .rw, .stop, 0x0, false⟩, ⟨12, 12, .rw, .stop, 0x0, false⟩]⟩,
    ⟨0x44, [], [⟨15, 0, .rw, .stop, 0x0, false⟩]⟩,
    ⟨0x48, [], [⟨11, 11, .wo, .now, 0x0, false⟩, ⟨10, 10, .wo, .now, 0x0, false⟩, ⟨9, 9, .wo, .now, 0x0, false⟩, ⟨8, 8, .wo, .now, 0x0, false⟩, ⟨7, 0, .wo, .now, 0x0, false⟩]⟩,
    ⟨0x4C, [], [⟨8, 8, .rc, .now, 0x0, false⟩, ⟨7, 0, .rc, .now, 0x0, false⟩]⟩,
    ⟨0x50, [], [⟨19, 15, .ro, .now, 0x0, false⟩, ⟨14, 10, .ro, .now, 0x0, false⟩, ⟨7, 7, .ro, .now, 0x0, false⟩, ⟨6, 6, .ro, .now, 0x1, false⟩, ⟨5, 5, .w1c, .now, 0x0, false⟩, ⟨4, 4, .w1c, .now, 0x0, false⟩, ⟨3, 3, .w1c, .now, 0x0, false⟩, ⟨2, 2, .w1c, .now, 0x0, false⟩, ⟨1, 1, .w1c, .now, 0x0, false⟩, ⟨0, 0, .w1c, .now, 0x0, false⟩]⟩,
    ⟨0x54, [], [⟨7, 0, .rw, .now, 0x0, false⟩]⟩] }

/-- R296: the registers of its table. -/
def RegMap.pil : Block :=
  { id := .pil, base := 0x140000, idx := [(32, 0x10)], auth := .either, dom := .main, regs := [
    ⟨0x0, [], [⟨19, 19, .rw, .now, 0x0, false⟩, ⟨18, 16, .rw, .now, 0x0, false⟩, ⟨15, 11, .rw, .now, 0x0, false⟩, ⟨4, 0, .rw, .now, 0x0, false⟩]⟩,
    ⟨0x4, [], [⟨8, 8, .rw, .now, 0x0, false⟩, ⟨7, 0, .rw, .now, 0x0, false⟩]⟩,
    ⟨0x8, [], [⟨1, 1, .w1c, .now, 0x0, false⟩, ⟨0, 0, .ro, .now, 0x0, false⟩]⟩] }

/-- R306: the registers of its table. -/
def RegMap.k : Block :=
  { id := .k, base := 0xF0000, idx := [(32, 0x100)], auth := .either, dom := .main, regs := [
    ⟨0x0, [], [⟨19, 19, .rw, .now, 0x0, false⟩, ⟨18, 18, .rw, .stop, 0x0, false⟩, ⟨17, 16, .rw, .stop, 0x2, false⟩, ⟨15, 14, .rw, .stop, 0x0, false⟩, ⟨13, 13, .rw, .stop, 0x0, false⟩, ⟨12, 12, .rw, .stop, 0x0, false⟩, ⟨11, 11, .rw, .stop, 0x0, false⟩, ⟨7, 7, .rw, .stop, 0x0, false⟩, ⟨6, 0, .rw, .stop, 0x20, false⟩]⟩,
    ⟨0x4, [], [⟨19, 16, .rw, .stop, 0x0, false⟩, ⟨15, 8, .rw, .stop, 0x0, false⟩, ⟨7, 7, .rw, .stop, 0x0, false⟩]⟩,
    ⟨0x8, [], [⟨19, 18, .rw, .stop, 0x0, false⟩, ⟨15, 0, .rw, .stop, 0x0, false⟩]⟩,
    ⟨0xC, [], [⟨19, 16, .rw, .stop, 0x0, false⟩, ⟨7, 0, .rw, .stop, 0x0, false⟩]⟩,
    ⟨0x10, [], [⟨19, 19, .rw, .now, 0x0, false⟩, ⟨18, 15, .rw, .stop, 0x0, false⟩, ⟨14, 0, .rw, .stop, 0x0, false⟩]⟩,
    ⟨0x14, [], [⟨15, 0, .rw, .stop, 0x1, false⟩]⟩,
    ⟨0x18, [], [⟨19, 19, .rw, .now, 0x0, false⟩, ⟨18, 18, .rw, .now, 0x0, false⟩, ⟨15, 8, .rw, .now, 0x0, false⟩, ⟨7, 0, .rw, .now, 0x0, false⟩]⟩,
    ⟨0x1C, [], [⟨6, 6, .w1c, .now, 0x0, false⟩, ⟨5, 5, .w1c, .now, 0x0, false⟩, ⟨4, 4, .w1c, .now, 0x0, false⟩, ⟨3, 3, .w1c, .now, 0x0, false⟩, ⟨2, 2, .w1c, .now, 0x0, false⟩, ⟨1, 1, .w1c, .now, 0x0, false⟩, ⟨0, 0, .ro, .now, 0x0, false⟩]⟩,
    ⟨0x20, [], [⟨6, 1, .rw, .now, 0x0, false⟩]⟩,
    ⟨0x24, [], [⟨19, 0, .rc, .now, 0x0, false⟩]⟩,
    ⟨0x28, [], [⟨19, 0, .rc, .now, 0x0, false⟩]⟩,
    ⟨0x2C, [], [⟨19, 0, .ro, .now, 0x0, false⟩]⟩,
    ⟨0x30, [(4, 0x4)], [⟨15, 0, .ro, .now, 0x0, false⟩]⟩,
    ⟨0x40, [(4, 0x4)], [⟨15, 0, .rw, .now, 0x0, false⟩]⟩,
    ⟨0x50, [(4, 0x4)], [⟨15, 0, .rw, .stop, 0x0, false⟩]⟩,
    ⟨0x60, [(4, 0x4)], [⟨15, 0, .rw, .stop, 0x0, false⟩]⟩,
    ⟨0x70, [(4, 0x4)], [⟨15, 0, .rw, .stop, 0x0, false⟩]⟩,
    ⟨0x80, [(3, 0x4)], [⟨15, 0, .rw, .stop, 0x0, false⟩]⟩,
    ⟨0x8C, [(3, 0x4)], [⟨15, 0, .rw, .stop, 0x0, false⟩]⟩,
    ⟨0xA0, [(3, 0x4)], [⟨15, 0, .rw, .stop, 0x0, false⟩]⟩,
    ⟨0xAC, [], [⟨15, 0, .rw, .stop, 0x0, false⟩]⟩,
    ⟨0xB0, [], [⟨15, 0, .ro, .now, 0x0, false⟩]⟩,
    ⟨0xB4, [], [⟨15, 0, .rw, .now, 0x0, false⟩]⟩,
    ⟨0xB8, [], [⟨19, 0, .rc, .now, 0x0, false⟩]⟩] }

/-- R319: the registers of its table. -/
def RegMap.mem : Block :=
  { id := .mem, base := 0x0, idx := [], auth := .either, dom := .main, regs := [
    ⟨0x160000, [(3, 0x4)], [⟨15, 0, .ro, .now, 0x0, false⟩]⟩,
    ⟨0x16000C, [], [⟨7, 0, .rw, .now, 0x20, false⟩]⟩,
    ⟨0x160020, [], [⟨19, 0, .rc, .now, 0x0, false⟩]⟩,
    ⟨0x160024, [], [⟨19, 0, .rc, .now, 0x0, false⟩]⟩] }

/-- R319: the registers of its table. -/
def RegMap.mc : Block :=
  { id := .mc, base := 0x160100, idx := [(4, 0x100)], auth := .either, dom := .main, regs := [
    ⟨0x0, [], [⟨19, 19, .ro, .now, 0x0, false⟩, ⟨18, 18, .ro, .now, 0x0, false⟩, ⟨17, 17, .ro, .now, 0x0, false⟩, ⟨7, 0, .ro, .now, 0x0, false⟩]⟩,
    ⟨0x4, [], [⟨19, 19, .rw, .now, 0x0, false⟩, ⟨7, 0, .rw, .now, 0xFF, false⟩]⟩,
    ⟨0x8, [], [⟨19, 0, .rc, .now, 0x0, false⟩]⟩,
    ⟨0xC, [], [⟨19, 0, .rc, .now, 0x0, false⟩]⟩,
    ⟨0x10, [], [⟨19, 0, .rc, .now, 0x0, false⟩]⟩,
    ⟨0x14, [], [⟨3, 3, .w1c, .now, 0x0, false⟩, ⟨2, 2, .w1c, .now, 0x0, false⟩, ⟨1, 1, .w1c, .now, 0x0, false⟩, ⟨0, 0, .w1c, .now, 0x0, false⟩]⟩,
    ⟨0x18, [(3, 0x4)], [⟨15, 0, .ro, .now, 0x0, false⟩]⟩,
    ⟨0x24, [], [⟨3, 0, .rw, .now, 0x0, false⟩]⟩] }

/-- R327: the registers of its table. -/
def RegMap.d : Block :=
  { id := .d, base := 0x1008000, idx := [(32, 0x10000), (2, 0x40)], auth := .either, dom := .quad, regs := [
    ⟨0x0, [], [⟨19, 19, .wo, .now, 0x0, false⟩, ⟨18, 18, .wo, .now, 0x0, false⟩, ⟨17, 17, .rw, .stop, 0x0, false⟩, ⟨16, 15, .rw, .stop, 0x0, false⟩, ⟨14, 14, .rw, .stop, 0x0, false⟩, ⟨13, 11, .rw, .stop, 0x0, false⟩, ⟨10, 10, .rw, .stop, 0x0, false⟩, ⟨9, 9, .rw, .stop, 0x0, false⟩]⟩,
    ⟨0x4, [], [⟨16, 0, .rw, .stop, 0x0, false⟩]⟩,
    ⟨0x8, [], [⟨19, 0, .rw, .stop, 0x0, false⟩]⟩,
    ⟨0xC, [(3, 0x4)], [⟨15, 0, .rw, .stop, 0x0, false⟩]⟩,
    ⟨0x18, [], [⟨7, 0, .rw, .stop, 0x0, false⟩]⟩,
    ⟨0x1C, [], [⟨19, 19, .rw, .now, 0x0, false⟩, ⟨18, 18, .rw, .now, 0x0, false⟩, ⟨15, 8, .rw, .now, 0x0, false⟩, ⟨7, 0, .rw, .now, 0x0, false⟩]⟩,
    ⟨0x20, [], [⟨19, 19, .ro, .now, 0x0, false⟩, ⟨18, 18, .ro, .now, 0x0, false⟩, ⟨8, 5, .ro, .now, 0x0, false⟩, ⟨4, 4, .w1c, .now, 0x0, false⟩, ⟨3, 3, .w1c, .now, 0x0, false⟩, ⟨2, 2, .w1c, .now, 0x0, false⟩, ⟨1, 1, .w1c, .now, 0x0, false⟩, ⟨0, 0, .w1c, .now, 0x0, false⟩]⟩,
    ⟨0x24, [], [⟨19, 0, .ro, .now, 0x0, false⟩]⟩,
    ⟨0x28, [], [⟨4, 0, .rw, .now, 0x0, false⟩]⟩] }

/-- R334: the registers of its table. -/
def RegMap.bg : Block :=
  { id := .bg, base := 0x180000, idx := [(16, 0x100)], auth := .either, dom := .main, regs := [
    ⟨0x0, [(4, 0x4)], [⟨15, 0, .ro, .now, 0x0, false⟩]⟩,
    ⟨0x10, [(4, 0x4)], [⟨15, 0, .ro, .now, 0x0, false⟩]⟩,
    ⟨0x20, [(2, 0x4)], [⟨15, 0, .ro, .now, 0x0, false⟩]⟩,
    ⟨0x28, [], [⟨4, 0, .ro, .now, 0x0, false⟩]⟩,
    ⟨0x40, [(4, 0x4)], [⟨15, 0, .rw, .now, 0x0, false⟩]⟩,
    ⟨0x50, [(4, 0x4)], [⟨15, 0, .rw, .now, 0x0, false⟩]⟩,
    ⟨0x60, [(2, 0x4)], [⟨15, 0, .rw, .now, 0x0, false⟩]⟩,
    ⟨0x68, [], [⟨4, 4, .rw, .now, 0x0, false⟩, ⟨3, 3, .rw, .now, 0x0, false⟩, ⟨2, 2, .rw, .now, 0x0, false⟩, ⟨1, 1, .rw, .now, 0x0, false⟩, ⟨0, 0, .rw, .now, 0x0, false⟩]⟩,
    ⟨0x80, [], [⟨19, 19, .wo, .now, 0x0, false⟩, ⟨18, 18, .wo, .now, 0x0, false⟩, ⟨17, 17, .rw, .now, 0x0, false⟩]⟩,
    ⟨0x84, [], [⟨18, 18, .rw, .now, 0x0, false⟩, ⟨15, 8, .rw, .now, 0x0, false⟩, ⟨7, 0, .rw, .now, 0x0, false⟩]⟩,
    ⟨0x88, [], [⟨7, 0, .rw, .stop, 0x0, false⟩]⟩,
    ⟨0x8C, [], [⟨19, 19, .ro, .now, 0x0, false⟩, ⟨18, 18, .ro, .now, 0x0, false⟩, ⟨17, 17, .ro, .now, 0x0, false⟩, ⟨10, 7, .ro, .now, 0x0, false⟩, ⟨6, 6, .w1c, .now, 0x0, false⟩, ⟨5, 5, .w1c, .now, 0x0, false⟩, ⟨4, 4, .w1c, .now, 0x0, false⟩, ⟨3, 3, .w1c, .now, 0x0, false⟩, ⟨1, 1, .w1c, .now, 0x0, false⟩, ⟨0, 0, .w1c, .now, 0x0, false⟩]⟩,
    ⟨0x90, [(2, 0x4)], [⟨15, 0, .ro, .now, 0x0, false⟩]⟩,
    ⟨0x98, [], [⟨6, 0, .rw, .now, 0x0, false⟩]⟩] }

/-- R341: the registers of its table. -/
def RegMap.pl : Block :=
  { id := .pl, base := 0x1A0000, idx := [], auth := .either, dom := .main, regs := [
    ⟨0x0, [], [⟨19, 19, .wo, .now, 0x0, false⟩, ⟨18, 18, .wo, .now, 0x0, false⟩, ⟨17, 15, .rw, .stop, 0x0, false⟩, ⟨14, 13, .rw, .stop, 0x0, false⟩, ⟨12, 12, .rw, .stop, 0x0, false⟩]⟩,
    ⟨0x4, [(3, 0x4)], [⟨15, 0, .rw, .stop, 0x0, false⟩]⟩,
    ⟨0x10, [(3, 0x4)], [⟨15, 0, .rw, .stop, 0x0, false⟩]⟩,
    ⟨0x1C, [], [⟨17, 0, .rw, .stop, 0x0, false⟩]⟩,
    ⟨0x20, [], [⟨17, 0, .rw, .stop, 0x0, false⟩]⟩,
    ⟨0x24, [], [⟨14, 0, .rw, .stop, 0x0, false⟩]⟩,
    ⟨0x28, [], [⟨14, 0, .rw, .stop, 0x0, false⟩]⟩,
    ⟨0x2C, [(2, 0x4)], [⟨15, 0, .rw, .stop, 0x0, false⟩]⟩,
    ⟨0x34, [(2, 0x4)], [⟨15, 0, .rw, .stop, 0x0, false⟩]⟩,
    ⟨0x3C, [(2, 0x4)], [⟨15, 0, .rw, .stop, 0xFFFF, false⟩]⟩,
    ⟨0x44, [], [⟨14, 0, .rw, .stop, 0x0, false⟩]⟩,
    ⟨0x48, [], [⟨14, 0, .rw, .stop, 0x0, false⟩]⟩,
    ⟨0x4C, [], [⟨14, 0, .rw, .stop, 0x0, false⟩]⟩,
    ⟨0x50, [], [⟨14, 0, .rw, .stop, 0x0, false⟩]⟩,
    ⟨0x54, [(2, 0x4)], [⟨15, 0, .rw, .stop, 0x0, false⟩]⟩,
    ⟨0x5C, [], [⟨19, 19, .rw, .now, 0x0, false⟩, ⟨18, 18, .rw, .now, 0x0, false⟩, ⟨15, 8, .rw, .now, 0x0, false⟩, ⟨7, 0, .rw, .now, 0x0, false⟩]⟩,
    ⟨0x60, [], [⟨5, 5, .ro, .now, 0x0, false⟩, ⟨4, 4, .w1c, .now, 0x0, false⟩, ⟨3, 3, .w1c, .now, 0x0, false⟩, ⟨1, 1, .w1c, .now, 0x0, false⟩, ⟨0, 0, .w1c, .now, 0x0, false⟩]⟩,
    ⟨0x64, [], [⟨4, 0, .rw, .now, 0x0, false⟩]⟩] }

/-- R355: the registers of its table. -/
def RegMap.ic : Block :=
  { id := .ic, base := 0x0, idx := [], auth := .either, dom := .main, regs := [
    ⟨0x1C0000, [], [⟨4, 2, .rw, .stop, 0x0, false⟩, ⟨0, 0, .rw, .stop, 0x0, false⟩]⟩,
    ⟨0x1C0004, [], [⟨1, 1, .w1c, .now, 0x0, false⟩, ⟨0, 0, .w1c, .now, 0x0, false⟩]⟩,
    ⟨0x1C0008, [], [⟨9, 0, .wo, .now, 0x0, false⟩]⟩,
    ⟨0x1C0100, [(64, 0x4)], [⟨16, 16, .ro, .now, 0x0, false⟩, ⟨15, 0, .rw, .now, 0x0, false⟩]⟩,
    ⟨0x1C1000, [(32, 0x4)], [⟨31, 0, .w1c, .now, 0x0, false⟩]⟩,
    ⟨0x1C1080, [(32, 0x4)], [⟨31, 0, .ro, .now, 0x0, false⟩]⟩] }

/-- R356: the registers of its table. -/
def RegMap.src : Block :=
  { id := .src, base := 0x1C2000, idx := [(1024, 0x4)], auth := .either, dom := .main, regs := [
    ⟨0x0, [], [⟨19, 19, .rw, .now, 0x0, false⟩, ⟨18, 18, .rw, .now, 0x0, false⟩, ⟨17, 17, .rw, .now, 0x0, false⟩, ⟨16, 10, .rw, .now, 0x0, false⟩, ⟨9, 9, .ro, .now, 0x0, false⟩, ⟨8, 8, .ro, .now, 0x0, false⟩, ⟨7, 0, .rw, .now, 0x0, false⟩]⟩] }

/-- R357: the registers of its table. -/
def RegMap.icE : Block :=
  { id := .icE, base := 0x1C4000, idx := [(128, 0x20)], auth := .either, dom := .quad, regs := [
    ⟨0x0, [], [⟨19, 19, .ro, .now, 0x0, false⟩, ⟨9, 0, .ro, .now, 0x0, false⟩]⟩,
    ⟨0x4, [], [⟨12, 8, .ro, .now, 0x0, false⟩, ⟨4, 0, .ro, .now, 0x0, false⟩]⟩,
    ⟨0x8, [], [⟨0, 0, .wo, .now, 0x0, false⟩]⟩,
    ⟨0xC, [], [⟨3, 0, .ro, .now, 0x0, false⟩]⟩] }

/-- R358: the registers of its table. -/
def RegMap.icV : Block :=
  { id := .icV, base := 0x1C6000, idx := [(64, 0x10)], auth := .either, dom := .main, regs := [
    ⟨0x0, [], [⟨19, 19, .ro, .now, 0x0, false⟩, ⟨9, 0, .ro, .now, 0x0, false⟩]⟩,
    ⟨0x4, [], [⟨0, 0, .wo, .now, 0x0, false⟩]⟩,
    ⟨0x8, [], [⟨1, 1, .ro, .now, 0x0, false⟩, ⟨0, 0, .ro, .now, 0x0, false⟩]⟩] }

/-- R361: the registers of its table. -/
def RegMap.stop : Block :=
  { id := .stop, base := 0x0, idx := [], auth := .either, dom := .main, regs := [
    ⟨0x1E1000, [], [⟨19, 0, .rc, .now, 0x0, false⟩]⟩,
    ⟨0x1E1004, [], [⟨15, 0, .ro, .now, 0x0, false⟩]⟩,
    ⟨0x1E1008, [], [⟨9, 0, .ro, .now, 0x0, false⟩]⟩] }

/-- R370: the registers of its table. -/
def RegMap.rg : Block :=
  { id := .rg, base := 0x1E0000, idx := [(16, 0x100)], auth := .either, dom := .main, regs := [
    ⟨0x0, [], [⟨19, 19, .wo, .now, 0x0, false⟩, ⟨18, 18, .wo, .now, 0x0, false⟩, ⟨17, 17, .rw, .now, 0x0, false⟩, ⟨16, 16, .rw, .stop, 0x0, false⟩]⟩,
    ⟨0x4, [], [⟨15, 8, .ro, .now, 0x0, false⟩, ⟨6, 6, .w1c, .now, 0x0, false⟩, ⟨5, 5, .w1c, .now, 0x0, false⟩, ⟨4, 4, .w1c, .now, 0x0, false⟩, ⟨3, 3, .w1c, .now, 0x0, false⟩, ⟨2, 2, .w1c, .now, 0x0, false⟩, ⟨0, 0, .ro, .now, 0x0, false⟩]⟩,
    ⟨0x8, [], [⟨19, 0, .ro, .now, 0x0, false⟩]⟩,
    ⟨0xC, [], [⟨19, 0, .ro, .now, 0x0, false⟩]⟩,
    ⟨0x10, [], [⟨19, 0, .ro, .now, 0x0, false⟩]⟩,
    ⟨0x20, [(8, 0x8)], [⟨19, 19, .rw, .stop, 0x0, false⟩, ⟨18, 16, .rw, .stop, 0x0, false⟩, ⟨15, 6, .rw, .stop, 0x0, false⟩, ⟨5, 0, .rw, .stop, 0x0, false⟩]⟩,
    ⟨0x24, [(8, 0x8)], [⟨7, 0, .rw, .stop, 0x0, false⟩]⟩,
    ⟨0x60, [(8, 0x4)], [⟨19, 0, .ro, .now, 0x0, false⟩]⟩] }

/-- R390: the registers of its table. -/
def RegMap.hl : Block :=
  { id := .hl, base := 0x200000, idx := [], auth := .either, dom := .main, regs := [
    ⟨0x0, [], [⟨19, 19, .ro, .now, 0x0, false⟩, ⟨18, 16, .ro, .now, 0x0, false⟩, ⟨15, 13, .ro, .now, 0x0, false⟩, ⟨3, 3, .w1c, .now, 0x0, false⟩, ⟨2, 2, .w1c, .now, 0x0, false⟩, ⟨1, 1, .w1c, .now, 0x0, false⟩, ⟨0, 0, .w1c, .now, 0x0, false⟩]⟩,
    ⟨0x4, [], [⟨3, 0, .rw, .now, 0x0, false⟩]⟩,
    ⟨0x8, [], [⟨15, 0, .rw, .now, 0x0, false⟩]⟩] }

/-- R391: the registers of its table. -/
def RegMap.sb : Block :=
  { id := .sb, base := 0x210000, idx := [], auth := .sideband, dom := .aon, regs := [
    ⟨0x0, [], [⟨2, 2, .rw, .now, 0x0, true⟩, ⟨1, 1, .rw, .now, 0x0, true⟩, ⟨0, 0, .rw, .now, 0x0, true⟩]⟩,
    ⟨0x4, [], [⟨15, 8, .ro, .now, 0x0, true⟩, ⟨6, 0, .ro, .now, 0x0, true⟩]⟩,
    ⟨0x8, [], [⟨19, 0, .rc, .now, 0x0, true⟩]⟩,
    ⟨0xC, [], [⟨15, 0, .ro, .now, 0x0, true⟩]⟩,
    ⟨0x10, [], [⟨12, 10, .ro, .now, 0x0, true⟩, ⟨9, 0, .ro, .now, 0x0, true⟩]⟩] }

/-- R417: the registers of its table. -/
def RegMap.th : Block :=
  { id := .th, base := 0x0, idx := [], auth := .either, dom := .aon, regs := [
    ⟨0x220000, [], [⟨19, 18, .ro, .now, 0x0, true⟩, ⟨17, 17, .ro, .now, 0x0, true⟩, ⟨16, 16, .ro, .now, 0x0, true⟩, ⟨15, 15, .ro, .now, 0x0, false⟩, ⟨14, 14, .ro, .now, 0x0, false⟩, ⟨13, 12, .ro, .now, 0x0, true⟩]⟩,
    ⟨0x220004, [], [⟨19, 19, .wo, .now, 0x0, false⟩, ⟨13, 0, .ro, .now, 0x0, true⟩]⟩,
    ⟨0x220008, [], [⟨13, 0, .ro, .now, 0x0, false⟩]⟩,
    ⟨0x22000C, [], [⟨15, 0, .rw, .now, 0x0, true⟩]⟩,
    ⟨0x220010, [], [⟨11, 0, .rw, .now, 0x0, true⟩]⟩,
    ⟨0x220014, [], [⟨15, 8, .rw, .now, 0x0, true⟩, ⟨7, 0, .ro, .now, 0x0, true⟩]⟩,
    ⟨0x220018, [], [⟨7, 0, .rw, .now, 0x0, true⟩]⟩,
    ⟨0x22001C, [(3, 0x4)], [⟨15, 0, .ro, .now, 0x0, true⟩]⟩,
    ⟨0x220028, [], [⟨19, 0, .ro, .now, 0x0, true⟩]⟩,
    ⟨0x22002C, [], [⟨19, 0, .rc, .now, 0x0, false⟩]⟩,
    ⟨0x220030, [], [⟨15, 0, .ro, .now, 0x0, false⟩]⟩,
    ⟨0x220034, [], [⟨1, 1, .ro, .now, 0x0, false⟩, ⟨0, 0, .ro, .now, 0x0, false⟩]⟩,
    ⟨0x220038, [], [⟨4, 4, .w1c, .now, 0x0, false⟩, ⟨3, 3, .w1c, .now, 0x0, false⟩, ⟨2, 2, .w1c, .now, 0x0, false⟩, ⟨1, 1, .w1c, .now, 0x0, false⟩, ⟨0, 0, .w1c, .now, 0x0, false⟩]⟩,
    ⟨0x22003C, [], [⟨4, 0, .rw, .now, 0x0, false⟩]⟩,
    ⟨0x220040, [], [⟨15, 0, .rw, .now, 0x0, false⟩]⟩,
    ⟨0x220044, [], [⟨15, 0, .rw, .now, 0x0, false⟩]⟩,
    ⟨0x220048, [], [⟨15, 0, .rw, .now, 0x0, false⟩]⟩,
    ⟨0x22004C, [], [⟨31, 0, .wo, .now, 0x0, false⟩]⟩,
    ⟨0x220050, [], [⟨15, 0, .ro, .now, 0x0, true⟩]⟩,
    ⟨0x220400, [(16, 0x4)], [⟨15, 0, .ro, .now, 0x0, true⟩]⟩,
    ⟨0x220800, [(32, 0x4)], [⟨15, 0, .ro, .now, 0x0, true⟩]⟩,
    ⟨0x220880, [(7, 0x80), (32, 0x4)], [⟨15, 0, .ro, .now, 0x0, false⟩]⟩,
    ⟨0x222000, [(8, 0x4)], [⟨15, 0, .rw, .now, 0x0, false⟩]⟩] }

/-- R417: the registers of its table. -/
def RegMap.mb : Block :=
  { id := .mb, base := 0x221000, idx := [(2, 0x400)], auth := .either, dom := .aon, regs := [
    ⟨0x0, [], [⟨7, 0, .wo, .now, 0x0, false⟩]⟩,
    ⟨0x4, [], [⟨19, 19, .ro, .now, 0x0, false⟩, ⟨3, 0, .ro, .now, 0x0, false⟩]⟩,
    ⟨0x40, [(16, 0x4)], [⟨15, 0, .ro, .now, 0x0, false⟩]⟩,
    ⟨0x100, [(128, 0x4)], [⟨15, 0, .rw, .now, 0x0, false⟩]⟩] }

/-- R444: the registers of its table. -/
def RegMap.sp : Block :=
  { id := .sp, base := 0x0, idx := [], auth := .either, dom := .main, regs := [
    ⟨0x240000, [], [⟨19, 19, .rw, .now, 0x0, false⟩, ⟨18, 18, .rw, .stop, 0x1, false⟩, ⟨7, 0, .rw, .stop, 0xA, false⟩]⟩,
    ⟨0x240004, [], [⟨15, 0, .rw, .now, 0x100, false⟩]⟩,
    ⟨0x240008, [], [⟨15, 0, .rw, .now, 0x64, false⟩]⟩,
    ⟨0x24000C, [], [⟨6, 6, .w1c, .now, 0x0, false⟩, ⟨5, 5, .w1c, .now, 0x0, false⟩, ⟨4, 4, .w1c, .now, 0x0, false⟩, ⟨3, 3, .w1c, .now, 0x0, false⟩, ⟨2, 2, .w1c, .now, 0x0, false⟩, ⟨1, 1, .w1c, .now, 0x0, false⟩, ⟨0, 0, .ro, .now, 0x0, false⟩]⟩,
    ⟨0x240010, [], [⟨6, 1, .rw, .now, 0x0, false⟩]⟩,
    ⟨0x240014, [], [⟨15, 0, .ro, .now, 0x0, false⟩]⟩,
    ⟨0x240018, [], [⟨12, 8, .ro, .now, 0x0, false⟩, ⟨3, 0, .ro, .now, 0x0, false⟩]⟩,
    ⟨0x24001C, [], [⟨15, 0, .ro, .now, 0x80, false⟩]⟩,
    ⟨0x240020, [], [⟨19, 0, .rc, .now, 0x0, false⟩]⟩,
    ⟨0x240024, [], [⟨19, 0, .rc, .now, 0x0, false⟩]⟩] }

/-- R444: the registers of its table. -/
def RegMap.spp : Block :=
  { id := .spp, base := 0x241000, idx := [(4, 0x100)], auth := .either, dom := .main, regs := [
    ⟨0x0, [], [⟨19, 19, .rw, .stop, 0x1, false⟩, ⟨18, 18, .rw, .now, 0x0, false⟩, ⟨5, 0, .rw, .now, 0x18, false⟩]⟩,
    ⟨0x4, [], [⟨6, 6, .w1c, .now, 0x0, false⟩, ⟨5, 5, .w1c, .now, 0x0, false⟩, ⟨4, 4, .w1c, .now, 0x0, false⟩, ⟨3, 2, .ro, .now, 0x0, false⟩]⟩,
    ⟨0x8, [], [⟨4, 4, .ro, .now, 0x0, false⟩, ⟨3, 0, .ro, .now, 0x0, false⟩]⟩,
    ⟨0xC, [], [⟨11, 0, .ro, .now, 0x0, false⟩]⟩,
    ⟨0x10, [], [⟨19, 0, .rc, .now, 0x0, false⟩]⟩] }

/-- R445: the registers of its table. -/
def RegMap.rc : Block :=
  { id := .rc, base := 0x242000, idx := [], auth := .either, dom := .main, regs := [
    ⟨0x0, [], [⟨19, 19, .wo, .now, 0x0, false⟩, ⟨18, 18, .wo, .now, 0x0, false⟩, ⟨17, 17, .rw, .stop, 0x0, false⟩, ⟨3, 0, .rw, .stop, 0x0, false⟩]⟩,
    ⟨0x4, [(3, 0x4)], [⟨15, 0, .rw, .stop, 0x0, false⟩]⟩,
    ⟨0x10, [(3, 0x4)], [⟨15, 0, .rw, .stop, 0x0, false⟩]⟩,
    ⟨0x1C, [(2, 0x4)], [⟨15, 0, .rw, .stop, 0x0, false⟩]⟩,
    ⟨0x24, [], [⟨19, 19, .rw, .now, 0x0, false⟩, ⟨18, 18, .rw, .now, 0x0, false⟩, ⟨15, 8, .rw, .now, 0x0, false⟩, ⟨7, 0, .rw, .now, 0x0, false⟩]⟩,
    ⟨0x28, [], [⟨19, 19, .ro, .now, 0x0, false⟩, ⟨3, 3, .w1c, .now, 0x0, false⟩, ⟨2, 2, .w1c, .now, 0x0, false⟩, ⟨1, 1, .w1c, .now, 0x0, false⟩, ⟨0, 0, .w1c, .now, 0x0, false⟩]⟩,
    ⟨0x2C, [], [⟨3, 0, .rw, .now, 0x0, false⟩]⟩] }

/-- R457: the registers of its table. -/
def RegMap.pwr : Block :=
  { id := .pwr, base := 0x0, idx := [], auth := .either, dom := .aon, regs := [
    ⟨0x223000, [], [⟨0, 0, .rw, .now, 0x1, true⟩]⟩,
    ⟨0x223004, [], [⟨19, 19, .ro, .now, 0x0, true⟩, ⟨18, 18, .ro, .now, 0x0, true⟩, ⟨17, 17, .ro, .now, 0x1, true⟩, ⟨16, 16, .ro, .now, 0x0, true⟩, ⟨15, 15, .ro, .now, 0x0, true⟩, ⟨1, 1, .w1c, .now, 0x0, true⟩, ⟨0, 0, .w1c, .now, 0x0, true⟩]⟩,
    ⟨0x223008, [], [⟨3, 3, .ro, .now, 0x0, true⟩, ⟨2, 2, .ro, .now, 0x0, true⟩, ⟨1, 1, .ro, .now, 0x0, true⟩, ⟨0, 0, .ro, .now, 0x0, true⟩]⟩,
    ⟨0x22300C, [], [⟨5, 0, .w1c, .now, 0x0, true⟩]⟩,
    ⟨0x223010, [], [⟨19, 19, .wo, .now, 0x0, true⟩, ⟨4, 0, .wo, .now, 0x0, true⟩]⟩,
    ⟨0x223014, [], [⟨31, 0, .ro, .now, 0x0, true⟩]⟩,
    ⟨0x223018, [], [⟨0, 0, .wo, .now, 0x0, true⟩]⟩,
    ⟨0x223100, [(128, 0x4)], [⟨31, 31, .rw, .now, 0x0, false⟩, ⟨19, 0, .rw, .now, 0x0, false⟩]⟩] }

/-- R468: the registers of its table. -/
def RegMap.mon : Block :=
  { id := .mon, base := 0x0, idx := [], auth := .either, dom := .aon, regs := [
    ⟨0x223400, [], [⟨11, 0, .ro, .now, 0x0, true⟩]⟩,
    ⟨0x223404, [], [⟨11, 0, .rc, .now, 0x0, true⟩]⟩,
    ⟨0x223408, [], [⟨11, 0, .ro, .now, 0x0, true⟩]⟩,
    ⟨0x22340C, [], [⟨11, 0, .ro, .now, 0x0, true⟩]⟩,
    ⟨0x223410, [], [⟨11, 0, .ro, .now, 0x0, true⟩]⟩,
    ⟨0x223414, [], [⟨11, 0, .ro, .now, 0x0, true⟩]⟩] }

/-- R200: the counters of the pattern cache. -/
def RegMap.pc : Block :=
  { id := .pc, base := 0xA0000, idx := [], auth := .either, dom := .main, regs := [
    ⟨0x0, [], [⟨19, 0, .rc, .now, 0x0, false⟩]⟩,
    ⟨0x4, [], [⟨19, 0, .rc, .now, 0x0, false⟩]⟩] }

def RegMap.blocks : List Block :=
  [RegMap.faceChip, RegMap.faceSpan, RegMap.faceGroup, RegMap.faceHall, RegMap.faceQuad, RegMap.faceEng, RegMap.tl, RegMap.l, RegMap.eq, RegMap.c, RegMap.ti, RegMap.eng, RegMap.join, RegMap.vid, RegMap.til, RegMap.spr, RegMap.plane, RegMap.head, RegMap.aud, RegMap.v, RegMap.bus, RegMap.port, RegMap.spd, RegMap.dpa, RegMap.inp, RegMap.post, RegMap.prt, RegMap.pil, RegMap.k, RegMap.mem, RegMap.mc, RegMap.d, RegMap.bg, RegMap.pl, RegMap.ic, RegMap.src, RegMap.icE, RegMap.icV, RegMap.stop, RegMap.rg, RegMap.hl, RegMap.sb, RegMap.th, RegMap.mb, RegMap.sp, RegMap.spp, RegMap.rc, RegMap.pwr, RegMap.mon, RegMap.pc]

/-- The indices that an offset spells in nested repetitions, and what remains. -/
def RegMap.peel : List (Nat × Nat) → Nat → Option (List Nat × Nat)
  | [], r => some ([], r)
  | (c, st) :: t, r =>
    if r / st < c then (RegMap.peel t (r % st)).map fun p => (r / st :: p.1, p.2) else none

/-- A register found in the map: its block, the block's indices, the register and the register's own indices. -/
structure RegHit where
  blk : Block
  idx : List Nat
  reg : RegDef
  ridx : List Nat
deriving DecidableEq, Repr

/-- The register of a list whose place is the remainder `r`. -/
def RegMap.findReg (r : Nat) : List RegDef → Option (RegDef × List Nat)
  | [] => none
  | d :: t =>
    if d.off ≤ r then
      match RegMap.peel d.idx (r - d.off) with
      | some (ix, 0) => some (d, ix)
      | _ => RegMap.findReg r t
    else RegMap.findReg r t

/-- The register of a block at a control-space offset. -/
def RegMap.inBlock (b : Block) (off : Nat) : Option RegHit :=
  if b.base ≤ off then
    match RegMap.peel b.idx (off - b.base) with
    | some (ix, r) => (RegMap.findReg r b.regs).map fun p => { blk := b, idx := ix, reg := p.1, ridx := p.2 }
    | none => none
  else none

/-- The register at a control-space offset, where the map lists one (R307, R375). -/
def RegMap.find : List Block → Nat → Option RegHit
  | [], _ => none
  | b :: t, off =>
    match RegMap.inBlock b off with
    | some h => some h
    | none => RegMap.find t off

def RegMap.lookup (off : Nat) : Option RegHit := RegMap.find RegMap.blocks off

/-- The reset value a list of fields makes. -/
def RegMap.fldsReset (fs : List Fld) : Nat := fs.foldl (fun a f => a + f.rst * 2 ^ f.lo) 0

/-- CFG of timeline k at reset (R57): kinds 1, 2 and 3 on T0, T1-T6 and T7; T0 runs. -/
def RegMap.tlCfgReset (k : Nat) : Dword :=
  if k = 0 then 0x30000 else if k ≤ 6 then 0x40000 else if k = 7 then 0x60000 else 0

/-- The reset value of the register at an offset (R9). The tables of R57 and R356 give some by instance. -/
def RegMap.resetVal (off : Nat) : Dword :=
  match RegMap.lookup off with
  | none => 0
  | some h =>
    match h.blk.id, h.idx with
    | .tl, [k] => if h.reg.off = 0x0C then RegMap.tlCfgReset k else BitVec.ofNat 32 (RegMap.fldsReset h.reg.flds)
    | .src, [n] => if 396 ≤ n ∧ n ≤ 399 then 0x40000 else 0
    | _, _ => BitVec.ofNat 32 (RegMap.fldsReset h.reg.flds)

end Sys2Proof.Machine
end

