-- ==== Sys2Proof/Config.lean ====
section
/-! DEFINITION. What an implementation or the outside world fixes, and the free values: constants with no body,
so that no proof can see what they are. -/

namespace Sys2Proof

/-- The n-th free value: a value the spec leaves open where the machine goes on (DESIGN CHOICE, log entry 2). The step reads it at
the plain counter `State.freeCtr` and advances the counter. -/
opaque Config.free : Nat → BitVec 64

/-- SHA-512 of a byte string (R246, R395, R400, R401): the named standard function, left uninterpreted (DESIGN CHOICE, log entry 4). -/
opaque Config.sha512 : List Byte → BitVec 512

/-- The Ed25519 public key of a private seed (R401), left uninterpreted (DESIGN CHOICE, log entry 4). -/
opaque Config.ed25519Public : BitVec 256 → BitVec 256

/-- The Ed25519 signature by a private seed over a message (R415, R416), left uninterpreted (DESIGN CHOICE, log entry 4). -/
opaque Config.ed25519Sign : BitVec 256 → List Byte → BitVec 512

/-- Ed25519 verification of key, message, signature (R396, R405), left uninterpreted (DESIGN CHOICE, log entry 4). -/
opaque Config.ed25519Verify : BitVec 256 → List Byte → BitVec 512 → Bool

/-- The contents of the boot NOR (R394): outside the chip, and the device never writes it (DESIGN CHOICE, log entry 5). -/
opaque Config.norByte : Nat → Byte

/-- The size of the fitted NOR device in bytes (R394). -/
opaque Config.norSize : Nat

/-- The two Mehrust keys of mask ROM (R395). -/
opaque Config.mehrustKey : Nat → BitVec 256

/-- The PCI Vendor ID of the endpoint's configuration header (R383). -/
opaque Config.vendorId : BitVec 16

/-- The 8 × 16 font of mask ROM (R455): row r of character ch. -/
opaque Config.fontRow : Nat → Nat → Byte

/-- One step of the decimation filter of a PDM line (R265): its state and 64 bits of the stream, the first lowest. The
spec gives its rate and group delay, not its response (DESIGN CHOICE, log entry 6). -/
opaque Config.pdmFilter : BitVec 64 → BitVec 64 → BitVec 64 × Word

/-- The SPDM certificate chain of slot 0 in the NOR (R394): its length, and the key of its leaf. -/
opaque Config.chainLength : Nat
opaque Config.chainLeaf : BitVec 256

/-- The message that an SPDM signature covers (R415 rests on DSP0274 for its layout), from the kind of response and
what goes into it (DESIGN CHOICE, log entry 4). -/
opaque Config.spdmMessage : Nat → List Byte → List Byte

/-- The character of a banner cell (R455 gives what a row says, not its layout), from the row, the column and what the
row reports (DESIGN CHOICE, log entry 25). -/
opaque Config.bannerChar : Nat → Nat → List Nat → Nat

/-- The value of an operand-dependent gap of the spec: which unit, and its inputs as one number (DESIGN CHOICE, log entry 2). -/
opaque Config.openOf : Nat → Nat → BitVec 64

end Sys2Proof
end

