-- ==== Sys2Proof/Machine/State.lean ====
section
/-! DEFINITION. The state of the block: every register of control space, and every piece of state behind the
registers that the spec gives the machine. A map is a list of (key, value) pairs in rising key order that lists no
value equal to what an unlisted key reads as, so that equal states are equal data. -/

namespace Sys2Proof.Machine

/-- No command of the block ends in a fault: every stop that the spec describes (a Bus fault, an Unsupported Request, a
refused write) is an effect on the state. -/
inductive Fault where
  /-- Raised by no meaning: the spec gives every command an effect. Safe. -/
  | stuck
deriving DecidableEq, Repr

/-- Why a command has no effect here. -/
inductive Refusal where
  /-- Raised by Dispatch for a command without a meaning: safe. -/
  | notModelled (mnemonic : String)
deriving DecidableEq, Repr

/-- The members of the family (R1). -/
inductive Variant where
  | xm128 | xm64 | xm32l
deriving DecidableEq, Repr

/-- What a command answered to the master that sent it: a completion code, then data. -/
structure Resp where
  code : Nat
  data : List Nat
deriving DecidableEq, Repr

/-- A timeline's state behind its registers (R34-R57): the linear position (R36), LAP, the
cycle of the last wrap with its LAP step (R38), the held set_hi, the
prescaler, the last filtered encoder inputs with the cycles of their last changes (R44, R45), whether the index condition
of R46 holds, the cycle of the last slip that hardware made (R55), the ordinary advances that slips have taken the place
of and that are still to be left out (R35, R53), and the mains tracker (R47-R49; times in ns): the rate is `mUnits` phase
units in `mSpan` ns from cycle `mFrom` on, of which `mDone` have been made. -/
structure TlUnit where
  pos : Nat
  lap : Nat
  wrapAt : Option (Nat × Int)
  setHi : Nat
  prescale : Nat
  encA : Bool
  encB : Bool
  encAAt : Option Nat
  encBAt : Option Nat
  idxOn : Bool
  hwSlipAt : Option Nat
  adv : Option (Nat × Nat × Nat)
  owed : Nat
  mAcq : List Nat
  mLast : Option Nat
  mMiss : Nat
  mPeriod : Nat
  mFrom : Nat
  mSpan : Nat
  mUnits : Nat
  mDone : Nat
deriving DecidableEq, Repr

def TlUnit.reset : TlUnit :=
  { pos := 0, lap := 0, wrapAt := none, setHi := 0, prescale := 0, encA := false, encB := false, encAAt := none,
    encBAt := none, idxOn := false, hwSlipAt := none, adv := none, owed := 0, mAcq := [], mLast := none, mMiss := 0, mPeriod := 0,
    mFrom := 0, mSpan := 0, mUnits := 0, mDone := 0 }

/-- A requester's latch of one timeline (R60, R61). -/
structure TlLatch where
  held : Bool
  lo : Nat
  hi : Nat
  lap : Nat
deriving DecidableEq, Repr

def TlLatch.reset : TlLatch := { held := false, lo := 0, hi := 0, lap := 0 }

/-- An auto-add as a CMP0 write of its cycle undoes it (R72): the cycle, PASSED and CMP1 as they stood before it, and
whether it set bit 6 of the engine's FAULT_OWN. -/
structure AutoAdd where
  at' : Nat
  passed : Nat
  cmpHi : Nat
  raised : Bool
deriving DecidableEq, Repr

/-- A landing unit's state behind its registers: held high words (R70), the freeze in progress (R75), the cycle's
auto-add (R72), and the cycle in which PASSED last rose. -/
structure LandUnit where
  heldCmp : Option Nat
  heldInt : Option Nat
  frozen : Bool
  recorded : Bool
  firedAt : Option AutoAdd
  passedAt : Option Nat
deriving DecidableEq, Repr

def LandUnit.reset : LandUnit :=
  { heldCmp := none, heldInt := none, frozen := false, recorded := false, firedAt := none, passedAt := none }

/-- The levels an edge queue drives (R79). -/
inductive Lvl where
  | low | high | z
deriving DecidableEq, Repr

/-- A post edge queue and its capture FIFO (R79-R85); `capDue` are the qualified edges, by the cycle in which they
reached the pad and the level after them, whose stamp is the position four cycles later. -/
structure EqUnit where
  entries : List (Nat × Lvl)
  r : Nat
  level : Lvl
  push1 : Nat
  slipTo : Option Nat
  stamps : List (Nat × Bool)
  capDue : List (Nat × Bool)
deriving DecidableEq, Repr

def EqUnit.reset : EqUnit :=
  { entries := [], r := 0, level := .low, push1 := 0, slipTo := none, stamps := [], capDue := [] }

/-- The error mark of a granule or a beat: what a read of it finds (R119, R314-R316). -/
inductive EccMark where
  | ok | single | bad
deriving DecidableEq, Repr

/-- A granule of engine RAM (R115). -/
structure Granule where
  w0 : Word
  w1 : Word
  w2 : Word
  lock : Bool
  watch : BitVec 3
  mark : EccMark
deriving DecidableEq, Repr

def Granule.zero : Granule := { w0 := 0, w1 := 0, w2 := 0, lock := false, watch := 0, mark := .ok }

/-- A branch that waits for its delay slot (R138), or the pending transfer of a return (`pt`, R159, R164); `link` says
that it writes g15 with its slot. -/
structure Branch where
  addr : Word
  target : Word
  taken : Bool
  link : Bool
  pt : Bool
deriving DecidableEq, Repr

/-- Where an access that leaves the engine goes: a chip address by a window, or a word address of the device registers
beyond the engine's own (R123, R127). -/
inductive FabTgt where
  | chip (a : Addr)
  | dev (a : Word)
deriving DecidableEq, Repr

/-- A load or a posted store that has not reached its target yet (R129, R130), with the level at which it was issued
(R128). `age` is 0 until the instruction after the load has issued; `killed` that it discards the loaded value. -/
inductive FabOp where
  | load (rd : BitVec 4) (t : FabTgt) (level : BitVec 2) (age : Nat) (killed : Bool)
  | store (t : FabTgt) (v : Word) (level : BitVec 2)
deriving DecidableEq, Repr

/-- One engine (R110-R169). `pendLd` are loaded values that the next instruction does not see yet (R136); `skipSlot`
that a return asked for a NOP in the slot of the branch at the PC (R160); `shadow` the level that DROP lowers to;
`delayed` the delayed faults (true while one more instruction runs before it; class; EADDR) and `impr` the imprecise
ones (R129, R130); `fbuf` the granules that the fetch buffer holds (R142); `win` and `winHeld` the window bases in effect
and the held WINk_HI; `oddHeld` the held odd word and `evenLatch` the bits latched for each register's next odd read
(R125); `stepping` that one instruction runs, `stopDue` that it has run and the halt is due, `haltReq` that a halt was
written while it ran (R167); `wdNs` the watchdog's time left in ns. -/
structure Eng where
  g : List (Nat × Word)
  pc : Word
  sat : Bool
  bw : Bool
  la : Bool
  mask : BitVec 4
  level : BitVec 2
  ceil : BitVec 2
  lc : Word
  ls : Word
  le : Word
  epc : Word
  estat : Word
  ecause : Word
  eaddr : Word
  einst0 : Word
  einst1 : Word
  vbase : Word
  bwSp : Word
  bwpc : Word
  bwst : Word
  flvl0 : Word
  flvl1 : Word
  pendLd : List (BitVec 4 × Word)
  branch : Option Branch
  skipSlot : Bool
  shadow : Option (BitVec 2)
  fab : List FabOp
  delayed : List (Bool × Nat × Word)
  impr : List Word
  fbuf : List (Nat × Granule)
  win : List (Nat × Nat)
  winHeld : List (Nat × Nat)
  tpSel : BitVec 2
  tpIdx : Word
  tpHi : BitVec 12
  oddHeld : Option (Nat × Nat)
  evenLatch : List (Nat × Nat)
  wdNs : Nat
  wdStage : Bool
  wdDue : Bool
  halted : Bool
  stepping : Bool
  stopDue : Bool
  haltReq : Bool
  locked : Bool
  lockCls : BitVec 4
  dbgPc : Word
  sleep : Option (BitVec 4 × BitVec 8)
  held : Bool
deriving DecidableEq, Repr

/-- An engine after quad reset (R110, R112, R124, R157, R169), held (R450). -/
def Eng.reset : Eng :=
  { g := [], pc := 0, sat := false, bw := false, la := false, mask := 15, level := 1, ceil := 1, lc := 0, ls := 0,
    le := 0, epc := 0, estat := 0, ecause := 0, eaddr := 0, einst0 := 0, einst1 := 0, vbase := 0, bwSp := 0,
    bwpc := 0, bwst := 0, flvl0 := 0xFFFFF, flvl1 := 0xFFFF, pendLd := [], branch := none, skipSlot := false,
    shadow := none, fab := [], delayed := [], impr := [], fbuf := [], win := [], winHeld := [], tpSel := 0, tpIdx := 0,
    tpHi := 0, oddHeld := none, evenLatch := [], wdNs := 0, wdStage := false, wdDue := false, halted := false,
    stepping := false, stopDue := false, haltReq := false, locked := false, lockCls := 0, dbgPc := 0, sleep := none, held := true }

/-- The interrupt controller's state for one engine (R347-R349): running rank, source in service, stack. -/
structure IcEng where
  pr : Nat
  cur : Option Nat
  stack : List (Nat × Option Nat)
deriving DecidableEq, Repr

def IcEng.reset : IcEng := { pr := 0, cur := none, stack := [] }

/-- The interrupt controller behind its registers: edge latches, active sources, the sources each vector claimed,
outstanding vectors, and hold-off time left in ns (R344-R352). -/
structure IcState where
  latch : List Nat
  active : List Nat
  claimed : List (Nat × Nat)
  outstanding : List Nat
  hold : List (Nat × Nat)
  engs : List (Nat × IcEng)
deriving DecidableEq, Repr

def IcState.reset : IcState :=
  { latch := [], active := [], claimed := [], outstanding := [], hold := [], engs := [] }

/-- The raise groups behind their registers (R363-R369): staged copies, marks, when a torn
interval began, and the slots of each group whose trigger has carried an event (R365). -/
structure RgState where
  staged : List (Nat × Dword)
  marked : List Nat
  tornAt : List (Nat × Nat)
  due : List (Nat × List (Nat × Nat))
  round : Nat
deriving DecidableEq, Repr

def RgState.reset : RgState := { staged := [], marked := [], tornAt := [], due := [], round := 0 }

/-- DRAM behind its registers (R310-R316): the bytes that differ from zero, poisoned granules, granules with a
single-bit error, granules with an uncorrectable error not yet found, corrected granules waiting for their write-back,
MEM_TOP, the patrol's next line by channel, and how many classes a request has risen (R312). -/
structure MemState where
  cells : List Host.Cell
  poison : List Nat
  single : List Nat
  bad : List Nat
  writeBack : List Nat
  top : Nat
  scrubAt : List (Nat × Nat)
  aged : List (Nat × Nat)
deriving DecidableEq, Repr

def MemState.reset : MemState :=
  { cells := [], poison := [], single := [], bad := [], writeBack := [], top := 0, scrubAt := [], aged := [] }

/-- What an unlisted address of DRAM reads as: training writes zero through every granule (R310). -/
def Memory.unlisted : Byte := 0

/-- The canonical form of memory: addresses strictly rising, no byte equal to what an unlisted address reads as. -/
def Memory.wf : List Host.Cell → Bool
  | [] => true
  | [c] => c.2 ≠ Memory.unlisted
  | c :: d :: t => c.1 < d.1 && c.2 ≠ Memory.unlisted && Memory.wf (d :: t)

/-- What a post's driver does to its pad: nothing, a level, or a signal whose levels the model does not place in time
(DESIGN CHOICE, log entry 7). -/
inductive PadDrv where
  | none | level (b : Bool) | signal
deriving DecidableEq, Repr

/-- A switch of a post (R285): its cycle c, the driver and the pull of c, the level the pad had in c where the driver
drove it (the keeper's), and whether the post is awake before and after. -/
structure PadSwitch where
  at' : Nat
  drv : PadDrv
  pull : Option Bool
  keep : Option Bool
  awake : Bool
deriving DecidableEq, Repr

/-- A post behind its registers (R279-R292): PWM level, the last switch, the cycle from which an input function sees the
pad, the level a hold sleep state drives, the requester of the pegging sequence, what the board drives, and the pad's
levels of the last seven cycles, newest first (none: open). -/
structure PostUnit where
  pwm : Bool
  sw : Option PadSwitch
  seeAt : Nat
  hold : Option Bool
  pegBy : Nat
  ext : Option Bool
  past : List (Option Bool)
deriving DecidableEq, Repr

def PostUnit.reset : PostUnit :=
  { pwm := false, sw := none, seeAt := 0, hold := none, pegBy := 0, ext := none, past := [] }

/-- A serial unit behind its registers (R288): the FIFOs, activity, the CTS input, whether the oldest byte has begun, and
whether a byte is being received. -/
structure SerUnit where
  tx : List Nat
  rx : List Byte
  inTransfer : Bool
  cts : Bool
  begun : Bool
  receiving : Bool
deriving DecidableEq, Repr

def SerUnit.reset : SerUnit :=
  { tx := [], rx := [], inTransfer := false, cts := false, begun := false, receiving := false }

/-- The host side of the link (R373, R378): Bus Master Enable, the MSI-X function mask, the masked vectors, the table's
address and data by vector, the last message sent (address, data), and that AER has logged an Unsupported Request
(R377). -/
structure HostState where
  busMaster : Bool
  fnMask : Bool
  masked : List Nat
  table : List (Nat × (Nat × Nat))
  lastMsg : Option (Nat × Nat)
  aerUr : Bool
deriving DecidableEq, Repr

/-- A host that has enumerated the device: no command of the table writes these (DESIGN CHOICE, log entry 22). -/
def HostState.reset : HostState :=
  { busMaster := true, fnMask := false, masked := [], table := [], lastMsg := none, aerUr := false }

/-- What a member's last sync frame said (R22, R422). -/
structure SpanView where
  tiView : Nat
  waiting : Nat
  delay : Nat
deriving DecidableEq, Repr

def SpanView.reset : SpanView := { tiView := 0, waiting := 0, delay := 0 }

/-- One span port behind its registers (R419-R429): the last seq sent and received, the last ack, the frames kept for
replay, the root, hops, delay and mask its peer last named, the cycle of the last sync frame, whether its link is the
parent's, whether it is refused until main reset, and the sync intervals since its last probe. -/
structure SpanPort where
  txSeq : Nat
  rxSeq : Nat
  acked : Nat
  replay : List Nat
  root : Nat
  rootOk : Bool
  hops : Nat
  peerDelay : Nat
  reach : Nat
  syncAt : Nat
  parent : Bool
  refused : Bool
  probes : Nat
deriving DecidableEq, Repr

def SpanPort.reset : SpanPort :=
  { txSeq := 0, rxSeq := 0, acked := 0, replay := [], root := 0, rootOk := false, hops := 0, peerDelay := 0, reach := 0,
    syncAt := 0, parent := false, refused := false, probes := 0 }

/-- A raise vote as a member holds it (R437-R439): it has sent ACK at a cycle, and holds the arm time and number. -/
structure SpanVote where
  ackedAt : Option Nat
  arm : Option (Nat × Nat)
deriving DecidableEq, Repr

def SpanVote.reset : SpanVote := { ackedAt := none, arm := none }

/-- A raise vote as the root runs it (R437-R439). -/
structure RootVote where
  origin : Nat
  acks : List Nat
  next : Nat
  startedAt : Nat
deriving DecidableEq, Repr

/-- A frame that the block sends on its span links, as the model tells it apart: kind, target or group, and value. -/
structure SpanOut where
  kind : Nat
  arg : Nat
  value : Nat
deriving DecidableEq, Repr

/-- The span layer behind its registers (R418-R443). `held` are apply times with their masks of C192-C255; `asked` are
the groups whose REQ this chip has sent and no answer has ended; `own` is what the chip's own last sync frame said (R22). -/
structure SpanState where
  steer : Int
  steerNs : Nat
  delayRoot : Nat
  fresh : Bool
  held : List (Nat × Nat)
  views : List (Nat × SpanView)
  ports : List (Nat × SpanPort)
  votes : List (Nat × SpanVote)
  rootVotes : List (Nat × RootVote)
  sent : List SpanOut
  rcLeft : Nat
  rcAt : Nat
  rcOut : List Nat
  asked : List Nat
  own : SpanView
deriving DecidableEq, Repr

def SpanState.reset : SpanState :=
  { steer := 0, steerNs := 0, delayRoot := 0, fresh := true, held := [], views := [], ports := [], votes := [],
    rootVotes := [], sent := [], rcLeft := 0, rcAt := 0, rcOut := [], asked := [], own := .reset }

/-- A sprite that a head's evaluator has listed (R206, R210): quarters 0-2 of its entry, the row it draws, and the address of that row's pattern. -/
structure SprEntry where
  q0 : Nat
  q1 : Nat
  q2 : Nat
  row : Nat
  addr : Nat
deriving DecidableEq, Repr

/-- A sprite with the pattern bytes of its row; true marks a byte that must not be shown (R187). -/
abbrev DrawnSprite := SprEntry × List (Byte × Bool)

/-- A sprite evaluation (R210-R212): the line and its screen coordinate, the cycle c it began in, the scan range, PAT_BASE of
the two planes, the sprites found by rank, whether the scan has ended, how many the limit dropped, the listed sprites not
yet drawn, the one being drawn with the cycle it is finished in, the drawn ones, and the pattern-cache lines that missed;
`waits` says that composition waits for it (head start). -/
structure SprEval where
  line : Nat
  y : Nat
  at' : Nat
  first : Nat
  count : Nat
  pat : Nat × Nat
  found : List (Nat × SprEntry)
  listed : Bool
  dropped : Nat
  rest : List SprEntry
  cur : Option (Nat × DrawnSprite)
  drawn : List DrawnSprite
  fills : List Nat
  waits : Bool
deriving DecidableEq, Repr

/-- The line being composed (R192): its number, screen coordinate (R225), start cycle, the sprites it shows, the
pattern-cache lines that missed for it, how many spans are composed with their pixels (R181), and the cycles it has
stalled (R196). -/
structure Compose where
  line : Nat
  y : Nat
  at' : Nat
  sprites : List DrawnSprite
  fills : List Nat
  spans : Nat
  done : List Nat
  stall : Nat
deriving DecidableEq, Repr

/-- A line in the line buffer: its pixels, packed as r, g, b of 10 bits, its background colour, and whether it was
composed for 10 bits per component (R173). -/
structure LineBuf where
  pix : List Nat
  bg : Nat
  deep : Bool
deriving DecidableEq, Repr

/-- What scan-out shows: a finished line, the line that is still being composed, or background colour only. -/
inductive ScanOut where
  | buf (b : LineBuf)
  | live
  | bg (c : Nat)
deriving DecidableEq, Repr

/-- What the command-mode bus carries in a write slot (R242): its cycle, whether WRX pulses, CSX, DCX and the data. -/
structure BusSlot where
  at' : Nat
  write : Bool
  csx : Bool
  dcx : Bool
  data : Nat
deriving DecidableEq, Repr

/-- A head with its Joiner behind their registers (R190-R247): placement, composition, line buffer, scan-out, sprite
evaluation, line table (next record, stopped, records of the frame and of the line about to start), video rows fetched, cycles of the start and of the last two marks, the witness record in progress,
and retries of the AUX transaction. -/
structure HeadUnit where
  placed : Bool
  comp : Option Compose
  next : Nat
  lines : List (Nat × LineBuf)
  scan : ScanOut
  eval : Option SprEval
  restarted : Bool
  ltPtr : Option Nat
  ltStop : Bool
  ltCount : Nat
  ltWhole : Bool
  ltLine : Nat
  rows : List (Nat × List (Byte × Bool))
  runAt : Nat
  markAt : Option Nat
  markBefore : Option Nat
  wit : Option (Nat × Nat)
  witFlags : Nat
  auxTries : Nat
  placedAt : Option Nat
  pix : Nat
  half : Nat
  links : List Nat
  slot : Option BusSlot
  teFix : Int
deriving DecidableEq, Repr

def HeadUnit.reset : HeadUnit :=
  { placed := false, comp := none, next := 0, lines := [], scan := .bg 0, eval := none, restarted := false,
    ltPtr := none, ltStop := false, ltCount := 0, ltWhole := false, ltLine := 0, rows := [], runAt := 0, markAt := none, markBefore := none,
    wit := none, witFlags := 0, auxTries := 0, placedAt := none, pix := 0, half := 0, links := [], slot := none, teFix := 0 }

/-- The pattern cache (R200): the lines it holds by number (byte address / 256), the most recently used first, and those
held as poisoned (R317) and those with an uncorrectable error of the cache's own memory (R318). -/
structure PatCache where
  lines : List Nat
  bad : List Nat
  sram : List Nat
deriving DecidableEq, Repr

def PatCache.reset : PatCache := { lines := [], bad := [], sram := [] }

/-- A tally unit behind its registers (R298-R305): whether it has met the start of a frame since it was enabled, the
frame in progress, the alive reference, the record count, the drop mark, and ring records whose write response is due. -/
structure TallyUnit where
  synced : Bool
  inFrame : Bool
  bytes : List Byte
  line : Nat
  ref : Option Nat
  records : Nat
  afterDrop : Bool
  ring : List (Nat × List Byte)
deriving DecidableEq, Repr

def TallyUnit.reset : TallyUnit :=
  { synced := false, inFrame := false, bytes := [], line := 0, ref := none, records := 0, afterDrop := false,
    ring := [] }

/-- A voice behind its registers (R254, R273): the position of its next sample, and the held START_HI. -/
structure Voice where
  i : Nat
  f : Nat
  heldHi : Option Nat
deriving DecidableEq, Repr

def Voice.reset : Voice := { i := 0, f := 0, heldHi := none }

/-- A bus meter behind its registers (R264): hold counts, the largest magnitudes of the window, and its samples. -/
structure BusMeter where
  holdL : Nat
  holdR : Nat
  maxL : Nat
  maxR : Nat
  count : Nat
deriving DecidableEq, Repr

def BusMeter.reset : BusMeter := { holdL := 0, holdR := 0, maxL := 0, maxR := 0, count := 0 }

/-- The filter of an input channel (R266): the last two samples and the last two outputs, these with 30 fractional
bits. -/
structure InFilter where
  x1 : Int
  x2 : Int
  y1 : Int
  y2 : Int
deriving DecidableEq, Repr

def InFilter.reset : InFilter := { x1 := 0, x2 := 0, y1 := 0, y2 := 0 }

/-- One side of a PDM line (R265): the decimation filter's state, and the samples inside its group delay of 12. -/
structure PdmLine where
  filt : BitVec 64
  wait : List Nat
deriving DecidableEq, Repr

def PdmLine.reset : PdmLine := { filt := 0, wait := List.replicate 12 0 }

/-- The audio system behind its registers (R248-R271): voices, meters, filter state and delayed raw samples of the
input channels, the PDM lines, the words of the samples computed and not yet sent, the words of the present frame (eight
of each port, two subframes of S/PDIF, eight words of each DisplayPort head), and the frame in the S/PDIF block. -/
structure AudState where
  voices : List (Nat × Voice)
  meters : List (Nat × BusMeter)
  filters : List (Nat × InFilter)
  delays : List (Nat × List Nat)
  pdm : List (Nat × PdmLine)
  queue : List (List Nat)
  out : List Nat
  spdFrame : Nat
deriving DecidableEq, Repr

def AudState.reset : AudState :=
  { voices := [], meters := [], filters := [], delays := [], pdm := [], queue := [], out := [], spdFrame := 0 }

/-- The Tollhouse behind its registers (R392-R417): whether standby is present and its firmware runs; the share, the
OTP (seed, fuses, owner keys, revoked slots, counters), the derived private key; the counter and version of the running
image; the log ring by index, the battery FIFO (entries without number) with its lost events, and the sensors whose
alarm waits for standby; the RTC; the push count; engines opened by DEBUG_OPEN; the time and number of each engine's last
Privilege Return entry; mailbox commands that start after this step (master, code) and results
due (code, result); SPDM algorithms selected; that the main power cycle still waits for its boot; and, by head, the number
of the idle program's reading of a sink whose link it trains (R454). -/
structure ThState where
  aonUp : Bool
  fw : Bool
  share : Option Nat
  seed : Option Nat
  provisionFuse : Bool
  deployFuse : Bool
  retireFuse : Bool
  ownerKeys : List (Nat × Nat)
  revoked : List Nat
  counters : List (Nat × Nat)
  priv : Option Nat
  running : Option (Nat × Nat)
  log : List (Nat × List Byte)
  fifo : List (List Byte)
  lost : Nat
  batteryAlarm : Nat
  rtcSec : Nat
  rtcFrac : Nat
  pushCount : Nat
  debugOpen : Nat
  prLast : List (Nat × (Nat × Nat))
  starts : List (Nat × (Master × Nat))
  results : List (Nat × (Nat × Nat))
  spdm : Bool
  bootDue : Bool
  probes : List (Nat × Nat)
deriving DecidableEq, Repr

/-- A Blank device with standby present and its firmware running. -/
def ThState.reset : ThState :=
  { aonUp := true, fw := true, share := none, seed := none, provisionFuse := false, deployFuse := false,
    retireFuse := false, ownerKeys := [], revoked := [], counters := [], priv := none, running := none, log := [],
    fifo := [], lost := 0, batteryAlarm := 0, rtcSec := 0, rtcFrac := 0, pushCount := 0, debugOpen := 0, prLast := [],
    starts := [], results := [], spdm := false, bootDue := true, probes := [] }

/-- The state of the block. `pending` is the queue of commands; `freeCtr`, `clock`, `resp`, `ferryDue` and `landDue` are the
model's own: the place in the stream of free values, the number of reference cycles so far, the last answer to a
master, and the ferry events (`ferryDue`) and landing events (`landDue`) not yet delivered. `sets` are the registers in
which hardware has set bits in the present cycle, each with its value before and the bits set (R7; a bay's FAULT_OWN
stands under 2^32 and its number). `trimAt` is the cycle of T0's last trimmed advance (R40). `regs` holds the values in
effect, `waiting` the values written and not yet latched (R359);
`coefs` holds the scaler coefficients that differ from bilinear (R184), `dispBad` and `dispOne` the entries of the display
memories with uncorrectable and single-bit errors (R181, R215); `bargeLoaded` holds channels whose load stands before
their start, `bargeAborts` those whose abort ends with the step; `quadRst` holds, for a quad in reset, twice the cycle of
its release, plus one for a watchdog's reset; `pilAt` the cycle in which a pin line's level last changed (R289);
`readLatch` holds what a RESULT0 or TH_RTC0 read latched for a requester (R305, R417). -/
structure State where
  pending : List Instr
  freeCtr : Nat
  clock : Nat
  resp : Option Resp
  variant : Variant
  regs : List (Nat × Dword)
  waiting : List (Nat × Dword)
  ferryDue : List Nat
  landDue : List Nat
  sets : List (Nat × (Nat × Nat))
  trimAt : Option Nat
  tls : List (Nat × TlUnit)
  latches : List (Nat × TlLatch)
  lands : List (Nat × LandUnit)
  eqs : List (Nat × EqUnit)
  faultOwn : List (Nat × Nat)
  faultFirst : List (Nat × Nat)
  engs : List (Nat × Eng)
  ram : List (Nat × Granule)
  ramWb : List Nat
  quadRst : List (Nat × Nat)
  spanId : BitVec 4
  ic : IcState
  rg : RgState
  mem : MemState
  bargeLoaded : List Nat
  bargeAborts : List Nat
  posts : List (Nat × PostUnit)
  sers : List (Nat × SerUnit)
  pilAt : List (Nat × Nat)
  beamTotals : List (Nat × (Nat × Nat))
  span : SpanState
  keyDue : List Nat
  tallies : List (Nat × TallyUnit)
  readLatch : List (Nat × List Nat)
  host : HostState
  heads : List (Nat × HeadUnit)
  coefs : List (Nat × Nat)
  cache : PatCache
  dispBad : List Nat
  dispOne : List Nat
  aud : AudState
  th : ThState
deriving DecidableEq, Repr

/-- The registers off the reset values of their tables right after the release of main reset: SB_STAT with address 0x64,
TH_STAT zeroised and main on, PWR_STAT main on with power good, RST_CAUSE power-up. -/
def State.resetRegs : List (Nat × Dword) :=
  [(0x210004, 0x64), (0x220000, 0x14000), (0x223004, 0xC0000), (0x223008, 0x4)]

def State.reset : State :=
  { pending := [], freeCtr := 0, clock := 0, resp := none, variant := .xm128, regs := State.resetRegs, waiting := [],
    ferryDue := [], landDue := [], sets := [], trimAt := none, tls := [], latches := [], lands := [], eqs := [],
    faultOwn := [], faultFirst := [], engs := [], ram := [], ramWb := [], quadRst := [], spanId := 0, ic := .reset,
    rg := .reset, mem := .reset, bargeLoaded := [], bargeAborts := [], posts := [], sers := [], pilAt := [],
    beamTotals := [], span := .reset, keyDue := [], tallies := [], readLatch := [], host := .reset, heads := [],
    coefs := [], cache := .reset, dispBad := [], dispOne := [], aud := .reset, th := .reset }

end Sys2Proof.Machine
end

