-- ==== Sys2Proof/Machine/Ops.lean ====
section
/-! DEFINITION. The named operations over the state: sparse maps, registers and their fields, DRAM bytes, free
values, faults, the presence of units, and the masters of accesses. -/

namespace Sys2Proof.Machine

/-! ### Sparse maps -/

/-- The value at a key; an unlisted key reads as `d`. -/
def Sparse.get {α : Type} (d : α) (k : Nat) : List (Nat × α) → α
  | [] => d
  | p :: t => if p.1 = k then p.2 else Sparse.get d k t

/-- The value at a key, where one is listed. -/
def Sparse.find {α : Type} (k : Nat) : List (Nat × α) → Option α
  | [] => none
  | p :: t => if p.1 = k then some p.2 else Sparse.find k t

def Sparse.del {α : Type} (k : Nat) : List (Nat × α) → List (Nat × α)
  | [] => []
  | p :: t => if p.1 = k then Sparse.del k t else p :: Sparse.del k t

def Sparse.ins {α : Type} (k : Nat) (v : α) : List (Nat × α) → List (Nat × α)
  | [] => [(k, v)]
  | p :: t =>
    if p.1 < k then p :: Sparse.ins k v t
    else if p.1 = k then (k, v) :: t
    else (k, v) :: p :: t

/-- Writes the value at a key and keeps the canonical form: writing the unlisted value removes the entry. -/
def Sparse.put {α : Type} [DecidableEq α] (d : α) (k : Nat) (v : α) (m : List (Nat × α)) : List (Nat × α) :=
  if v = d then Sparse.del k m else Sparse.ins k v m

/-- The keys of a map from `lo` to below `hi`. -/
def Sparse.keys {α : Type} (lo hi : Nat) (m : List (Nat × α)) : List Nat :=
  (m.filter fun p => decide (lo ≤ p.1) && decide (p.1 < hi)).map Prod.fst

/-- Adds a number to a rising list of numbers. -/
def NSet.ins (k : Nat) : List Nat → List Nat
  | [] => [k]
  | p :: t => if p < k then p :: NSet.ins k t else if p = k then p :: t else k :: p :: t

def NSet.del (k : Nat) (l : List Nat) : List Nat := l.filter fun p => decide (p ≠ k)

def NSet.has (k : Nat) (l : List Nat) : Bool := l.any fun p => decide (p = k)

/-- The distinct numbers of a list, rising. -/
def NSet.norm (l : List Nat) : List Nat := l.foldl (fun a k => NSet.ins k a) []

/-! ### Bit fields -/

/-- Bits `hi` to `lo` of a number. -/
def bits (w hi lo : Nat) : Nat := w / 2 ^ lo % 2 ^ (hi + 1 - lo)

/-- The number with bits `hi` to `lo` replaced by those of `v`. -/
def setBits (w hi lo v : Nat) : Nat :=
  w / 2 ^ (hi + 1) * 2 ^ (hi + 1) + v % 2 ^ (hi + 1 - lo) * 2 ^ lo + w % 2 ^ lo

def bit (w i : Nat) : Bool := w / 2 ^ i % 2 = 1

/-- A number of `n` bits read as two's complement. -/
def signedN (n v : Nat) : Int :=
  if v % 2 ^ n < 2 ^ (n - 1) then (v % 2 ^ n : Nat) else ((v % 2 ^ n : Nat) : Int) - (2 ^ n : Nat)

/-- An integer as `n` bits of two's complement. -/
def wrapN (n : Nat) (v : Int) : Nat := (v % (2 ^ n : Nat)).toNat

/-- An integer clamped to the range of `n` bits of two's complement. -/
def clampN (n : Nat) (v : Int) : Int :=
  if v > (2 ^ (n - 1) : Nat) - 1 then (2 ^ (n - 1) : Nat) - 1
  else if v < -((2 ^ (n - 1) : Nat) : Int) then -((2 ^ (n - 1) : Nat) : Int) else v

def boolNat (b : Bool) : Nat := if b then 1 else 0

/-! ### Registers -/

/-- The value in effect of the register at a control-space offset (R11). -/
def rget (s : State) (off : Nat) : Dword := Sparse.get (RegMap.resetVal off) off s.regs

def rput (s : State) (off : Nat) (v : Dword) : State :=
  { s with regs := Sparse.put (RegMap.resetVal off) off v s.regs }

def fget (s : State) (f : FieldAt) : Nat := bits (rget s f.off).toNat f.hi f.lo

def fset (s : State) (f : FieldAt) (v : Nat) : State :=
  rput s f.off (BitVec.ofNat 32 (setBits (rget s f.off).toNat f.hi f.lo v))

def fbit (s : State) (f : FieldAt) : Bool := decide (fget s f ≠ 0)

/-- The record of what hardware sets in a cycle (R7): the value under key `key` before the first set of the cycle, and
the bits set since. -/
def noteSet (s : State) (key was mask : Nat) : State :=
  { s with sets := match Sparse.find key s.sets with
      | some p => Sparse.ins key (p.1, p.2 ||| mask) s.sets
      | none => Sparse.ins key (was, mask) s.sets }

/-- The bits under a key that hardware has set in the present cycle (R7). -/
def hwSets (s : State) (key : Nat) : Nat :=
  match Sparse.find key s.sets with
  | some p => p.2
  | none => 0

def fieldMask (f : FieldAt) : Nat := (2 ^ (f.hi + 1 - f.lo) - 1) * 2 ^ f.lo

/-- Hardware sets a one-bit field. -/
def fon (s : State) (f : FieldAt) : State := fset (noteSet s f.off (rget s f.off).toNat (fieldMask f)) f 1

/-- A count of hardware's, which saturates at the top of its field. -/
def fcount (s : State) (f : FieldAt) (n : Nat) : State :=
  fset (noteSet s f.off (rget s f.off).toNat (fieldMask f)) f (min (fget s f + n) (2 ^ (f.hi + 1 - f.lo) - 1))

/-- The next cycle begins: what hardware set before counts as earlier. -/
def nextCycle (s : State) : State := { s with sets := [] }

/-- A field whose value is split over registers of 16 bits at rising offsets (`MEM_TOPj`, `SRCj`, ...). -/
def split16 (s : State) (at' : Nat → Nat) (n : Nat) : Nat :=
  (List.range n).foldl (fun a j => a + bits (rget s (at' j)).toNat 15 0 * 2 ^ (16 * j)) 0

/-- The units that a range of registers repeats, restricted to those with a register off its reset value. -/
def touched (s : State) (base stride count : Nat) : List Nat :=
  NSet.norm ((Sparse.keys base (base + stride * count) s.regs).map fun k => (k - base) / stride)

/-! ### Free values (DESIGN CHOICE, log entry 2) -/

/-- The next free value. -/
def draw (s : State) : BitVec 64 := Config.free s.freeCtr

/-- The state after a free value has been used. -/
def drew (s : State) : State := { s with freeCtr := s.freeCtr + 1 }

/-- What a field that holds a reserved value acts as (R480 case 1): one of `n` defined choices, open from cycle to
cycle (DESIGN CHOICE, log entry 12). -/
def openField (s : State) (f : FieldAt) (n : Nat) : Nat := (Config.openOf (32 * f.off + f.lo) s.clock).toNat % n

/-! ### The family (R1) -/

def Variant.halls : Variant → Nat
  | .xm128 => 8 | .xm64 => 4 | .xm32l => 2

def Variant.quads (v : Variant) : Nat := 4 * v.halls
def Variant.engines (v : Variant) : Nat := 16 * v.halls
def Variant.lands (v : Variant) : Nat := 4 * v.engines
def Variant.ports (v : Variant) : Nat := 4 * v.halls
def Variant.posts (v : Variant) : Nat := 32 * v.ports

def Variant.head : Variant → Nat → Bool
  | .xm128, h => decide (h < 6)
  | .xm64, h => decide (h = 0 ∨ h = 1 ∨ h = 4 ∨ h = 5)
  | .xm32l, h => decide (h = 0 ∨ h = 4)

def Variant.voices48 : Variant → Nat
  | .xm128 => 512 | .xm64 => 256 | .xm32l => 128

def Variant.tallies : Variant → Nat → Bool
  | .xm128, k => decide (k < 32)
  | .xm64, k => decide (k < 2 ∨ 4 ≤ k ∧ k < 18)
  | .xm32l, k => decide (k = 0 ∨ 4 ≤ k ∧ k < 11)

def Variant.planer : Variant → Bool
  | .xm32l => false | _ => true

def Variant.spanPorts : Variant → Nat
  | .xm128 => 4 | .xm64 => 2 | .xm32l => 0

def Variant.channels : Variant → Nat
  | .xm32l => 2 | _ => 4

def Variant.scaler : Variant → Bool
  | .xm32l => false | _ => true

/-! ### Units kept in maps -/

def tlOf (s : State) (k : Nat) : TlUnit := Sparse.get TlUnit.reset k s.tls
def setTl (s : State) (k : Nat) (u : TlUnit) : State := { s with tls := Sparse.put TlUnit.reset k u s.tls }
def landOf (s : State) (n : Nat) : LandUnit := Sparse.get LandUnit.reset n s.lands
def setLand (s : State) (n : Nat) (u : LandUnit) : State := { s with lands := Sparse.put LandUnit.reset n u s.lands }
def eqOf (s : State) (n : Nat) : EqUnit := Sparse.get EqUnit.reset n s.eqs
def setEq (s : State) (n : Nat) (u : EqUnit) : State := { s with eqs := Sparse.put EqUnit.reset n u s.eqs }
def engOf (s : State) (e : Nat) : Eng := Sparse.get Eng.reset e s.engs
def setEng (s : State) (e : Nat) (u : Eng) : State := { s with engs := Sparse.put Eng.reset e u s.engs }
def icEngOf (s : State) (e : Nat) : IcEng := Sparse.get IcEng.reset e s.ic.engs
def postOf (s : State) (n : Nat) : PostUnit := Sparse.get PostUnit.reset n s.posts
def setPost (s : State) (n : Nat) (u : PostUnit) : State := { s with posts := Sparse.put PostUnit.reset n u s.posts }
def serOf (s : State) (p : Nat) : SerUnit := Sparse.get SerUnit.reset p s.sers
def setSer (s : State) (p : Nat) (u : SerUnit) : State := { s with sers := Sparse.put SerUnit.reset p u s.sers }
def tallyOf (s : State) (k : Nat) : TallyUnit := Sparse.get TallyUnit.reset k s.tallies
def setTally (s : State) (k : Nat) (u : TallyUnit) : State := { s with tallies := Sparse.put TallyUnit.reset k u s.tallies }
def granOf (s : State) (k : Nat) : Granule := Sparse.get Granule.zero k s.ram
def setGran (s : State) (k : Nat) (g : Granule) : State := { s with ram := Sparse.put Granule.zero k g s.ram }
def headOf (s : State) (h : Nat) : HeadUnit := Sparse.get HeadUnit.reset h s.heads
def setHead (s : State) (h : Nat) (u : HeadUnit) : State := { s with heads := Sparse.put HeadUnit.reset h u s.heads }
def setIcEng (s : State) (e : Nat) (u : IcEng) : State :=
  { s with ic := { s.ic with engs := Sparse.put IcEng.reset e u s.ic.engs } }

/-! ### DRAM bytes (R307, R310) -/

def memByte (s : State) (a : Nat) : Byte := Sparse.get Memory.unlisted a s.mem.cells

def setMemByte (s : State) (a : Nat) (b : Byte) : State :=
  { s with mem := { s.mem with cells := Sparse.put Memory.unlisted a b s.mem.cells } }

/-- The bytes from an address upward. -/
def memBytes (s : State) (a n : Nat) : List Byte := (List.range n).map fun i => memByte s (a + i)

def setMemBytes (s : State) (a : Nat) : List Byte → State
  | [] => s
  | b :: t => setMemBytes (setMemByte s a b) (a + 1) t

/-- The number that bytes make, the first the lowest (R4). -/
def leNat : List Byte → Nat
  | [] => 0
  | b :: t => b.toNat + 256 * leNat t

/-- The `n` low bytes of a number, the lowest first. -/
def leBytes (n v : Nat) : List Byte := (List.range n).map fun i => BitVec.ofNat 8 (v / 256 ^ i)

/-! ### Events and faults -/

/-- A producer fires a channel: it carries one event, however many producers fire it (R88). -/
def fire (s : State) (c : Nat) : State := { s with ferryDue := NSet.ins c s.ferryDue }

/-- A producer with an enable field fires the channel it names. -/
def fireIf (s : State) (en : Bool) (c : Nat) : State := if en then fire s c else s

/-- The bays by number: engines 0-127, quads 128-159, halls 160-167, the chip, its span bay, the span group (R14). -/
def bayEng (e : Nat) : Nat := e
def bayQuad (q : Nat) : Nat := 128 + q
def bayHall (h : Nat) : Nat := 160 + h
def bayChip : Nat := 168
def baySpan : Nat := 169
def bayGroup : Nat := 170

def faultOwn (s : State) (b : Nat) : Nat := Sparse.get 0 b s.faultOwn

def setFaultOwn (s : State) (b v : Nat) : State := { s with faultOwn := Sparse.put 0 b v s.faultOwn }

/-- The key of a bay's FAULT_OWN among the bits that hardware sets in a cycle (R7). -/
def faultKey (b : Nat) : Nat := 2 ^ 32 + b

/-- Sets a fault class in FAULT_OWN of a bay (R19). -/
def raise (s : State) (b i : Nat) : State :=
  let s := noteSet s (faultKey b) (faultOwn s b) (2 ^ i)
  if bit (faultOwn s b) i then s else setFaultOwn s b (faultOwn s b + 2 ^ i)

def raiseIf (s : State) (c : Bool) (b i : Nat) : State := if c then raise s b i else s

/-- The key of a source's edge latch among the bits that hardware sets in a cycle (R7, R344). -/
def latchKey (n : Nat) : Nat := 2 ^ 33 + n

/-- An edge source fires: its latch sets (R344). -/
def irqEdge (s : State) (n : Nat) : State :=
  let s := noteSet s (latchKey n) (boolNat (NSet.has n s.ic.latch)) 1
  { s with ic := { s.ic with latch := NSet.ins n s.ic.latch } }

/-! ### Masters (R12, R60, R385, R387) -/

def masterCode : Master → Nat
  | .host => 0 | .sideband => 1 | .engine _ _ => 2 | .barge _ => 3 | .bayDma _ => 3 | .lineTable _ => 4
  | .tollhouse => 5

/-- A Secure-level engine or the Tollhouse (R97). -/
def masterSecure : Master → Bool
  | .tollhouse => true
  | .engine _ l => decide (l = 0)
  | _ => false

/-- The requester's number among those that hold latches of their own (R60). -/
def requesterOf : Master → Nat
  | .host => 0 | .sideband => 1 | .tollhouse => 2 | .engine e _ => 3 + e.val | .barge n => 131 + n.val
  | .bayDma c => 147 + c.val | .lineTable h => 211 + h.val

def latchOf (s : State) (m : Master) (k : Nat) : TlLatch := Sparse.get TlLatch.reset (64 * requesterOf m + k) s.latches
def setLatch (s : State) (m : Master) (k : Nat) (l : TlLatch) : State :=
  { s with latches := Sparse.put TlLatch.reset (64 * requesterOf m + k) l s.latches }

/-- A write that a rule ignores and counts: the records of R387, and the named fault class of the named bay. -/
def refuse (s : State) (m : Master) (off b i : Nat) : State :=
  let s := fcount s Fd.sbAuthRefusedCount 1
  let s := fset s Fd.sbAuthLast0Off off
  let s := fset s Fd.sbAuthLast1Master (masterCode m)
  let s := fset s Fd.sbAuthLast1Off (off / 65536)
  raise s b i

/-- The refusal for authority, or under a rule that names no other bit or bay. -/
def refuseChip (s : State) (m : Master) (off : Nat) : State := refuse s m off bayChip 5

/-- An ignored Stop-class write (R361): FAULT_OWN bit 5 of the bay that holds the block, STOP_IGN, STOP_LAST. -/
def stopIgnored (s : State) (off b : Nat) : State :=
  let s := fcount s Fd.stopIgnCount 1
  let s := fset s Fd.stopLast0Off off
  let s := fset s Fd.stopLast1Off (off / 65536)
  raise s b 5

/-- The answer to a master outside the chip. -/
def setResp (s : State) (code : Nat) (data : List Nat) : State := { s with resp := some { code := code, data := data } }

end Sys2Proof.Machine
end

