-- ==== Sys2Proof/Machine/Operands.lean ====
section
/-! DEFINITION. Operand forms of the engine instructions (05_engine_isa.md): registers and pairs, sign extension,
effective addresses, instruction lengths. -/

namespace Sys2Proof.Machine

/-- A general register; g0 reads as zero (R110). -/
def greg (u : Eng) (r : Nat) : Word := if r = 0 then 0 else Sparse.get 0 r u.g

/-- A write of a general register; one of g0 is discarded (R110). -/
def gput (u : Eng) (r : Nat) (v : Word) : Eng := if r = 0 then u else { u with g := Sparse.put 0 r v u.g }

/-- Writes of registers, in order. -/
def gputs (u : Eng) (ws : List (Nat × Word)) : Eng := ws.foldl (fun u p => gput u p.1 p.2) u

/-- The signed immediate of the I format. -/
def sext6 (imm : BitVec 6) : Word := imm.signExtend 20

/-- The unsigned immediate of the I format. -/
def zext6 (imm : BitVec 6) : Word := imm.zeroExtend 20

/-- The signed offset of the B format. -/
def sext10 (off : BitVec 10) : Word := off.signExtend 20

/-- An effective address, modulo 2^20 (R114). -/
def effAddr (u : Eng) (ra : BitVec 4) (disp : Word) : Word := greg u ra.toNat + disp

/-- The 40-bit accumulator of the pair at an even register (R137). -/
def pairNat (u : Eng) (rd : Nat) : Nat := (greg u (rd + 1)).toNat * 2 ^ 20 + (greg u rd).toNat

/-- The writes of a 40-bit value to a pair: the high 20 bits to the odd register (R137). -/
def pairWrites (rd v : Nat) : List (Nat × Word) :=
  [(rd, BitVec.ofNat 20 (v % 2 ^ 20)), (rd + 1, BitVec.ofNat 20 (v / 2 ^ 20 % 2 ^ 20))]

/-- An opcode calls for a second word (R131). -/
def opTwoWords (op : Nat) : Bool :=
  decide (0x20 ≤ op ∧ op ≤ 0x26 ∨ op = 0x2A ∨ op = 0x2B ∨ 0x36 ≤ op ∧ op ≤ 0x39 ∨ op = 0x3C ∨ op = 0x3D)

/-- The length of the instruction whose first word is `w`. -/
def wordsOf (w : Word) : Nat := if opTwoWords (bits w.toNat 19 14) then 2 else 1

end Sys2Proof.Machine
end

