-- ==== Sys2Proof/Machine/EngDecode.lean ====
section
/-! DEFINITION. The words of the engine instructions (05_engine_isa.md R131, R132, R143): which instruction a word, with
the word after it, spells for engine `e`. -/

namespace Sys2Proof.Machine

/-- The S format: the sub-code in [5:0], its operands in [13:6]. -/
def engDecodeS (e : Fin 128) (w0 : Word) : Option Instr :=
  let ops := w0.extractLsb' 6 8
  match (w0.extractLsb' 0 6).toNat with
  | 0x01 => some (.trap e ops)
  | 0x02 => some (.rete e ops)
  | 0x03 => some (.drop e (w0.extractLsb' 8 6) (w0.extractLsb' 6 2))
  | 0x04 => some (.fence e ops)
  | 0x05 => some (.brk e ops)
  | 0x06 => some (.mfs e (w0.extractLsb' 10 4) (w0.extractLsb' 6 4))
  | 0x07 => some (.mts e (w0.extractLsb' 10 4) (w0.extractLsb' 6 4))
  | _ => none

/-- The instruction of a word; none for the reserved opcodes and sub-codes (R132). A field that a format marks zero is an
operand of the instruction, which judges it. -/
def engDecode (e : Fin 128) (w0 w1 : Word) : Option Instr :=
  let rd := w0.extractLsb' 10 4
  let ra := w0.extractLsb' 6 4
  let rb := w0.extractLsb' 2 4
  let x := w0.extractLsb' 0 2
  let imm := w0.extractLsb' 0 6
  let off := w0.extractLsb' 0 10
  let low := w0.extractLsb' 0 14
  match (w0.extractLsb' 14 6).toNat with
  | 0x00 => some (.add e rd ra rb x)
  | 0x01 => some (.sub e rd ra rb x)
  | 0x02 => some (.adds e rd ra rb x)
  | 0x03 => some (.subs e rd ra rb x)
  | 0x04 => some (.and e rd ra rb x)
  | 0x05 => some (.or e rd ra rb x)
  | 0x06 => some (.xor e rd ra rb x)
  | 0x07 => some (.shl e rd ra rb x)
  | 0x08 => some (.shr e rd ra rb x)
  | 0x09 => some (.sra e rd ra rb x)
  | 0x0A => some (.seq e rd ra rb x)
  | 0x0B => some (.sne e rd ra rb x)
  | 0x0C => some (.slt e rd ra rb x)
  | 0x0D => some (.sltu e rd ra rb x)
  | 0x0E => some (.mul e rd ra rb x)
  | 0x0F => some (.mac e rd ra rb x)
  | 0x10 => some (.addi e rd ra imm)
  | 0x11 => some (.andi e rd ra imm)
  | 0x12 => some (.ori e rd ra imm)
  | 0x13 => some (.xori e rd ra imm)
  | 0x14 => some (.shli e rd ra imm)
  | 0x15 => some (.shri e rd ra imm)
  | 0x16 => some (.srai e rd ra imm)
  | 0x17 => some (.seqi e rd ra imm)
  | 0x18 => some (.slti e rd ra imm)
  | 0x19 => some (.sltui e rd ra imm)
  | 0x1A => some (.sat e rd ra imm)
  | 0x20 => some (.addl e rd ra imm w1)
  | 0x21 => some (.andl e rd ra imm w1)
  | 0x22 => some (.orl e rd ra imm w1)
  | 0x23 => some (.xorl e rd ra imm w1)
  | 0x24 => some (.seql e rd ra imm w1)
  | 0x25 => some (.sltl e rd ra imm w1)
  | 0x26 => some (.sltul e rd ra imm w1)
  | 0x28 => some (.ld e rd ra imm)
  | 0x29 => some (.st e rd ra imm)
  | 0x2A => some (.ldl e rd ra imm w1)
  | 0x2B => some (.stl e rd ra imm w1)
  | 0x2C => some (.ldt e rd ra imm)
  | 0x2D => some (.stt e rd ra imm)
  | 0x2E => some (.lck e rd ra imm)
  | 0x2F => some (.ulk e rd ra imm)
  | 0x30 => some (.tagr e rd ra imm)
  | 0x31 => some (.tagw e rd ra imm)
  | 0x34 => some (.bz e rd off)
  | 0x35 => some (.bnz e rd off)
  | 0x36 => some (.bzl e rd off w1)
  | 0x37 => some (.bnzl e rd off w1)
  | 0x38 => some (.j e low w1)
  | 0x39 => some (.jal e low w1)
  | 0x3A => some (.jr e rd ra rb x)
  | 0x3B => some (.jalr e rd ra rb x)
  | 0x3C => some (.loop e rd ra imm w1)
  | 0x3D => some (.loopi e low w1)
  | 0x3E => some (.wait e rd (w0.extractLsb' 2 8) x)
  | 0x3F => engDecodeS e w0
  | _ => none

end Sys2Proof.Machine
end

