-- ==== Sys2Proof/Machine/Flags.lean ====
section
/-! DEFINITION. The one flag, STATUS.sat, and the arithmetic that sets it (R134, R137), with the shifts and compares. -/

namespace Sys2Proof.Machine

/-- An exact result narrowed by a clamp to `n` signed bits: the word, and whether it clamped (R134). -/
def clampWord (n : Nat) (v : Int) : Word × Bool := (BitVec.ofInt 20 (clampN n v), decide (clampN n v ≠ v))

/-- ADDS and SUBS (R134). -/
def addSat (a b : Word) : Word × Bool := clampWord 20 (a.toInt + b.toInt)
def subSat (a b : Word) : Word × Bool := clampWord 20 (a.toInt - b.toInt)

/-- Shifts by an amount that can pass the width (R134). -/
def shl20 (a : Word) (n : Nat) : Word := a <<< n
def shr20 (a : Word) (n : Nat) : Word := a >>> n
def sra20 (a : Word) (n : Nat) : Word := a.sshiftRight n

/-- The result of a compare (R135). -/
def cmpWord (b : Bool) : Word := if b then 1 else 0

/-- The exact product of MUL, by x: 0 signed, 1 unsigned, 2 signed by unsigned (R143). -/
def mulExact (x : Nat) (a b : Word) : Int :=
  if x = 0 then a.toInt * b.toInt else if x = 1 then (a.toNat * b.toNat : Nat) else a.toInt * (b.toNat : Int)

/-- MAC on a 40-bit accumulator: wrapped, or clamped to its signed range (R134, R137). -/
def macExact (clamp : Bool) (acc : Nat) (a b : Word) : Nat × Bool :=
  let v := signedN 40 acc + a.toInt * b.toInt
  if clamp then (wrapN 40 (clampN 40 v), decide (clampN 40 v ≠ v)) else (wrapN 40 v, false)

/-- A clamp sets sat; an instruction that does not clamp leaves it (R134). -/
def satSet (u : Eng) (c : Bool) : Eng := { u with sat := u.sat || c }

/-- STATUS as a word (R112). -/
def statusWord (u : Eng) : Nat :=
  boolNat u.sat * 512 + boolNat u.bw * 256 + boolNat u.la * 128 + u.mask.toNat * 4 + u.level.toNat

end Sys2Proof.Machine
end

