-- ==== Sys2Proof/Machine/Bays.lean ====
section
/-! DEFINITION. Bays (01_bays.md): the presence table, fault summaries, task-input counts and their views. -/

namespace Sys2Proof.Machine

/-! ### State of the domains -/

/-- The main domain is powered and out of reset (R446-R449). -/
def mainUp (s : State) : Bool := fbit s Fd.pwrStatMainOn && !fbit s Fd.pwrStatMainRst

/-- The chip is an admitted span member (R29). -/
def joined (s : State) : Bool := fbit s Fd.spStatJoined

/-- A quad of the variant (R1). -/
def quadPresent (s : State) (q : Nat) : Bool := decide (q < s.variant.quads)
def engPresent (s : State) (e : Nat) : Bool := decide (e < s.variant.engines)

/-- A quad is in reset (R448). -/
def inQuadReset (s : State) (q : Nat) : Bool := decide (Sparse.get 0 q s.quadRst ≠ 0)

/-- The Tollhouse has granted the engine Secure level (R144, R397). -/
def granted (s : State) (e : Nat) : Bool := bit (fget s (Fd.thGrantG (e / 16))) (e % 16)

/-! ### Presence table (R23-R30, R485) -/

/-- A descriptor's fields (R24). -/
structure Desc where
  typ : Nat
  inst : Nat
  cap : Nat
  base : Nat
  child : Nat
  next : Nat
deriving DecidableEq, Repr

def Desc.empty : Desc := { typ := 0, inst := 0, cap := 0, base := 0, child := 0, next := 0 }

/-- The 64 bits of a descriptor; version is 1 on stepping B0 (R24, R26). -/
def descBits (d : Desc) : Nat :=
  if d.typ = 0 then 0
  else d.typ * 2 ^ 58 + d.inst * 2 ^ 52 + 1 * 2 ^ 48 + d.cap * 2 ^ 36 + d.base * 2 ^ 20 + d.child * 2 ^ 10 + d.next

/-- Capability bits of a head's descriptor (R26). -/
def headCap (s : State) (h : Nat) : Nat :=
  (if h < 4 then 1 else 2) + (if h = 5 then 4 else 0) + (if s.variant.scaler then 8 else 0)

/-- A tally unit is fully configurable (R1, R297). -/
def tallyFull (v : Variant) (k : Nat) : Bool :=
  match v with
  | .xm128 => decide (k < 4) | .xm64 => decide (k < 2) | .xm32l => decide (k = 0)

/-- The chip-level units in ascending type code, then instance: type, instance, cap, base (R26, R27). -/
def chipUnits (s : State) : List (Nat × Nat × Nat × Nat) :=
  ((List.range 6).filter s.variant.head).map (fun h => (0x08, h, headCap s h, 0x80 + 4 * h)) ++
  [(0x0A, 0, 32, 0x20), (0x0B, 0, s.variant.lands, 0x40), (0x0C, 0, 256, 0x30),
   (0x0E, 0, s.variant.voices48, 0xC0)] ++
  ((List.range 32).filter s.variant.tallies).map
    (fun k => (0x0F, k, boolNat (tallyFull s.variant k), (0xF0000 + k * 0x100) / 4096)) ++
  [(0x10, 0, 16, 0x180)] ++
  (if s.variant.planer then [(0x11, 0, 0, 0x1A0)] else []) ++
  (List.range s.variant.channels).map (fun m => (0x12, m, fget s (Fd.mcStatCap m), 0x160)) ++
  [(0x13, 0, 1024, 0x1C0), (0x14, 0, 16, 0x1E0), (0x15, 0, 0, 0x200), (0x16, 0, 0, 0x210)] ++
  (List.range s.variant.spanPorts).map (fun n => (0x17, n, 0, 0x241)) ++
  [(0x18, 0, 0, 0x2000)]

/-- The first presence index of the chip-level units: each hall takes 25 entries (R27). -/
def chipUnitsAt (v : Variant) : Nat := 1 + 25 * v.halls

/-- The entry at offset `j` of hall `h`'s subtree of 25 (R27). -/
def hallDesc (s : State) (h j : Nat) : Desc :=
  let b := 1 + 25 * h
  if j = 0 then
    { typ := 0x03, inst := h, cap := 0xFF, base := 0x10 + h, child := b + 1,
      next := if h + 1 < s.variant.halls then b + 25 else chipUnitsAt s.variant }
  else if j ≤ 20 then
    let q := (j - 1) / 5
    let i := (j - 1) % 5
    let qb := 0x1000 + 0x10 * (4 * h + q)
    if i = 0 then
      { typ := 0x02, inst := q, cap := 0x160, base := qb, child := b + j + 1, next := b + j + 5 }
    else
      { typ := 0x01, inst := i - 1, cap := 24 + (if granted s (16 * h + 4 * q + (i - 1)) then 32 else 0),
        base := qb + i, child := 0, next := if i < 4 then b + j + 1 else 0 }
  else
    { typ := 0x0D, inst := 4 * h + (j - 21), cap := 32, base := 0x120 + (4 * h + (j - 21)), child := 0,
      next := if j < 24 then b + j + 1 else 0 }

/-- The descriptor of a presence entry: the local tree (R27), and the span entries while joined (R30). -/
def descAt (s : State) (i : Nat) : Desc :=
  let v := s.variant
  if i = 0 then
    { typ := 0x04, inst := 0, cap := v.engines + 0x100, base := 0x2, child := 1, next := 0 }
  else if i < chipUnitsAt v then hallDesc s ((i - 1) / 25) ((i - 1) % 25)
  else if i < 1022 then
    match (chipUnits s)[i - chipUnitsAt v]? with
    | some u =>
      { typ := u.1, inst := u.2.1, cap := u.2.2.1, base := u.2.2.2, child := 0,
        next := if i - chipUnitsAt v + 1 < (chipUnits s).length then i + 1 else 0 }
    | none => Desc.empty
  else if joined s then
    let mask := fget s Fd.spMembersMask
    let b := s.spanId.toNat / 4
    let root := fget s Fd.spRootRoot
    if i = 1022 then
      { typ := 0x05, inst := b, cap := bits mask (4 * b + 3) (4 * b) + (root % 4) * 16, base := 0x3, child := 0,
        next := 0 }
    else
      { typ := 0x06, inst := 0,
        cap := (List.range 4).foldl (fun a g => a + (if bits mask (4 * g + 3) (4 * g) ≠ 0 then 2 ^ g else 0)) 0,
        base := 0x4, child := 0, next := 0 }
  else Desc.empty

/-! ### Fault summaries (R19-R21) -/

/-- The bays that hold a bay, from its parent up; a chip has bays above it only while joined (R14). -/
def bayAbove (jn : Bool) (b : Nat) : List Nat :=
  let top := if jn then [baySpan, bayGroup] else []
  if b < 128 then [bayQuad (b / 4), bayHall (b / 16), bayChip] ++ top
  else if b < 160 then [bayHall ((b - 128) / 4), bayChip] ++ top
  else if b < 168 then bayChip :: top
  else if b = 168 then top
  else if b = 169 then [bayGroup]
  else []

/-- The child of bay `b` on the way down to bay `x`, by the number FAULT_FIRST.child gives it (R21). -/
def bayChild (s : State) (b x : Nat) : Nat :=
  let hallOf := if x < 128 then x / 16 else if x < 160 then (x - 128) / 4 else x - 160
  if b < 160 then 1 + 25 * (x / 16) + 1 + 5 * (x / 4 % 4) + 1 + x % 4
  else if b < 168 then
    let q := if x < 128 then x / 4 else x - 128
    1 + 25 * (q / 4) + 1 + 5 * (q % 4)
  else if b = 168 then 1 + 25 * hallOf
  else if b = 169 then s.spanId.toNat % 4
  else s.spanId.toNat / 4

/-- The other members of the span that bay `b` of level 5 or 6 holds (R14). -/
def otherMembers (s : State) (b : Nat) : List Nat :=
  if joined s && decide (169 ≤ b) then
    (List.range 16).filter fun m => bit (fget s Fd.spMembersMask) m && decide (m ≠ s.spanId.toNat) &&
      (decide (b = 170) || decide (m / 4 = s.spanId.toNat / 4))
  else []

/-- FAULT_SUM of the chip bay of another member. No frame of R423 carries it, so it is open in every cycle (DESIGN
CHOICE, log entry 60). -/
def memberFault (s : State) (m : Nat) : Nat := (Config.openOf 64 (s.clock * 16 + m)).toNat % 256

/-- FAULT_SUM of a bay: its own classes and those of the bays below it, those of the other members among them. -/
def faultSum (s : State) (b : Nat) : Nat :=
  (otherMembers s b).foldl (fun a m => a ||| memberFault s m)
    (s.faultOwn.foldl (fun a p => if p.1 = b ∨ b ∈ bayAbove (joined s) p.1 then a ||| p.2 else a) 0)

/-- The lowest child with a class set, or all ones for the bay's own (R21). -/
def faultCause (s : State) (b : Nat) : Nat :=
  ((otherMembers s b).filter fun m => decide (memberFault s m ≠ 0)).foldl
    (fun a m => min a (if b = 169 then m % 4 else m / 4))
    (s.faultOwn.foldl
      (fun a p => if b ∈ bayAbove (joined s) p.1 ∧ p.2 ≠ 0 then min a (bayChild s b p.1) else a) 0x3FF)

/-- FAULT_FIRST of one bay at the end of a step: 0 while FAULT_SUM is 0, else one more than the recorded child. -/
def settleFault (s : State) (b : Nat) : State :=
  let old := Sparse.get 0 b s.faultFirst
  let v := if faultSum s b = 0 then 0 else if old = 0 then faultCause s b + 1 else old
  { s with faultFirst := Sparse.put 0 b v s.faultFirst }

/-- The bays whose summary can have changed. -/
def faultBays (s : State) : List Nat :=
  (s.faultOwn.map Prod.fst).flatMap (fun b => b :: bayAbove (joined s) b) ++ s.faultFirst.map Prod.fst ++
    if joined s then [baySpan, bayGroup] else []

/-- FAULT_FIRST of every bay whose summary can have changed (R21). -/
def settleFaults (s : State) : State := (NSet.norm (faultBays s)).foldl settleFault s

/-- A write to FAULT_OWN: bit 7 clears only for a Secure-level engine or the Tollhouse (R20); a class that hardware sets
in the same cycle stays (R7). -/
def faultClear (s : State) (m : Master) (b v : Nat) : State :=
  let mask := if masterSecure m then v % 256 else v % 128
  setFaultOwn s b (faultOwn s b &&& ((255 - mask) ||| hwSets s (faultKey b)))

/-! ### Task inputs (R89-R95) -/

/-- One increment of a task input, with saturation and Coalesced; dropped in a quad reset and at absent engines. -/
def tiInc (s : State) (e k : Nat) : State :=
  if !engPresent s e || inQuadReset s (e / 4) then s
  else if fget s (Fd.tiTiCount e k) = 15 then fon s (Fd.tiTiCoalesced e k)
  else fset s (Fd.tiTiCount e k) (fget s (Fd.tiTiCount e k) + 1)

/-- The engines of a bay at levels 1 to 4. -/
def bayEngines (v : Variant) : Bay → List Nat
  | .engine e => [e.val]
  | .quad q => (List.range 4).map fun i => 4 * q.val + i
  | .hall h => (List.range 16).map fun i => 16 * h.val + i
  | .chip => List.range v.engines
  | .spanBay => []
  | .spanGroup => []

/-- A doorbell adds one to TI[ti] of every engine of the bay (R17). -/
def ringEngines (s : State) (es : List Nat) (k : Nat) : State := es.foldl (fun s e => tiInc s e k) s

/-- A WAIT or TAKE decrement (R92, R95). -/
def tiDec (s : State) (e k : Nat) : State := fset s (Fd.tiTiCount e k) (fget s (Fd.tiTiCount e k) - 1)

/-- The lowest-numbered non-zero task input of a mask (R92). -/
def tiReady (s : State) (e : Nat) (mask : Nat) : Option Nat :=
  (List.range 8).find? fun k => bit mask k && decide (fget s (Fd.tiTiCount e k) ≠ 0)

/-- TI_VIEW over a list of engines: any in [7:0], coalesced in [15:8] (R15). -/
def tiView (s : State) (es : List Nat) : Nat :=
  (List.range 8).foldl (fun a k =>
    a + (if es.any (fun e => decide (fget s (Fd.tiTiCount e k) ≠ 0)) then 2 ^ k else 0) +
    (if es.any (fun e => fbit s (Fd.tiTiCoalesced e k)) then 2 ^ (k + 8) else 0)) 0

/-- The engines of a list that sleep in WAIT (R92). -/
def waitingOf (s : State) (es : List Nat) : Nat := (es.filter fun e => (engOf s e).sleep.isSome).length

/-- The number of a bay. -/
def bayNum : Bay → Nat
  | .engine e => bayEng e.val
  | .quad q => bayQuad q.val
  | .hall h => bayHall h.val
  | .chip => bayChip
  | .spanBay => baySpan
  | .spanGroup => bayGroup

/-- A bay that the variant has; the span levels exist only while joined (R14, R30, R31). -/
def bayPresent (s : State) : Bay → Bool
  | .engine e => engPresent s e.val
  | .quad q => quadPresent s q.val
  | .hall h => decide (h.val < s.variant.halls)
  | .chip => true
  | .spanBay => joined s
  | .spanGroup => joined s

/-- PATH of a bay (R15). -/
def bayPath (s : State) : Bay → Nat
  | b =>
    let span := if joined s then 2048 + s.spanId.toNat * 128 else 0
    match b with
    | .engine e => 1 * 4096 + span + e.val / 16 * 16 + e.val / 4 % 4 * 4 + e.val % 4
    | .quad q => 2 * 4096 + span + q.val / 4 * 16 + q.val % 4 * 4
    | .hall h => 3 * 4096 + span + h.val * 16
    | .chip => 4 * 4096 + span
    | .spanBay => 5 * 4096 + span
    | .spanGroup => 6 * 4096 + span

end Sys2Proof.Machine
end

