-- ==== Sys2Proof/Machine/Timelines.lean ====
section
/-! DEFINITION. Timelines (02_timelines.md): kinds, lap lengths, linear positions, crossing, and readers. -/

namespace Sys2Proof.Machine

/-- The kind of a timeline. Code 2 on T8-T31 is reserved (R57) and acts as one of the other kinds. -/
def tlKind (s : State) (k : Nat) : Nat :=
  let c := fget s (Fd.tlCfgKind k)
  if 8 ≤ k ∧ c = 2 then [0, 1, 3, 4, 5, 6, 7].getD (openField s (Fd.tlCfgKind k) 7) 0 else c

/-- MOD, where 0 stands for 2^20 (R34). -/
def tlMod (s : State) (k : Nat) : Nat :=
  let m := fget s (Fd.tlModMod k)
  if m = 0 then 2 ^ 20 else m

/-- HTOTAL and VTOTAL in use by the mode generator of head `h` (R224). -/
def beamTotalsOf (s : State) (h : Nat) : Nat × Nat := Sparse.get (0, 0) h s.beamTotals

/-- The lap length L (R34). For Off, which has none, the position is kept as two words (DESIGN CHOICE, log entry 18). -/
def tlLap (s : State) (k : Nat) : Nat :=
  match tlKind s k with
  | 2 => (beamTotalsOf s (k - 1)).1 * (beamTotalsOf s (k - 1)).2
  | 3 => 2 ^ 20
  | 4 => tlMod s k
  | 5 => 2 ^ 20
  | 7 => tlMod s k
  | _ => 2 ^ 40

/-- The unit that holds a timeline's position: every Span-kind timeline shows the one span time (R50), unit 32. -/
def tlKey (s : State) (k : Nat) : Nat := if tlKind s k = 6 then 32 else k

/-- The linear position. A Local count can stand at or above a shortened period until its next event (R51). After a change
of kind or MOD on a stopped timeline it is the unit's stored position modulo the new L, and a timeline that leaves Span
shows its own unit's position again (DESIGN CHOICE, log entry 59: the spec does not say). -/
def tlPos (s : State) (k : Nat) : Nat :=
  let p := (tlOf s (tlKey s k)).pos
  if tlKind s k = 7 then p else if tlLap s k = 0 then 0 else p % tlLap s k

def tlLapCount (s : State) (k : Nat) : Nat := (tlOf s (tlKey s k)).lap

/-- The two words of a linear position (R34, R36). -/
def tlWords (s : State) (k p : Nat) : Nat × Nat :=
  match tlKind s k with
  | 2 =>
    let w := (beamTotalsOf s (k - 1)).1
    if w = 0 then (0, 0) else (p % w, p / w)
  | 0 => (p % 2 ^ 20, p / 2 ^ 20)
  | 1 => (p % 2 ^ 20, p / 2 ^ 20)
  | 6 => (p % 2 ^ 20, p / 2 ^ 20)
  | _ => (p % 2 ^ 20, 0)

/-- The linear position that a compare value of two words names; none where it is never crossed (R36, R37, R65). -/
def tlLinear (s : State) (k hi lo : Nat) : Option Nat :=
  let v :=
    match tlKind s k with
    | 2 =>
      let w := (beamTotalsOf s (k - 1)).1
      if lo % 2 ^ 14 < w then some (hi % 2 ^ 13 * w + lo % 2 ^ 14) else none
    | 0 => some (hi * 2 ^ 20 + lo)
    | 1 => some (hi * 2 ^ 20 + lo)
    | 6 => some (hi * 2 ^ 20 + lo)
    | _ => some lo
  match v with
  | some v => if v < tlLap s k then some v else none
  | none => none

/-- The linear length that an interval of two words names (R67). -/
def tlInterval (s : State) (k hi lo : Nat) : Nat :=
  match tlKind s k with
  | 2 => hi * (beamTotalsOf s (k - 1)).1 + lo
  | 0 => hi * 2 ^ 20 + lo
  | 1 => hi * 2 ^ 20 + lo
  | 6 => hi * 2 ^ 20 + lo
  | _ => lo

/-- The distance from `p` forward to `v` modulo L. -/
def ahead (l p v : Nat) : Nat := if l = 0 then 0 else (v % l + l - p % l) % l

/-- A value is crossed forward by an advance from `p` of distance `d` (R37). -/
def crossedFwd (l p d v : Nat) : Bool := decide (1 ≤ ahead l p v ∧ ahead l p v ≤ d)

/-- A value is crossed in reverse by a reverse advance from `p` of distance `d` (R37). -/
def crossedRev (l p d v : Nat) : Bool := decide (1 ≤ ahead l v p ∧ ahead l v p ≤ d)

/-- The moves of a timeline in one cycle (R35): an ordinary advance, the wrap of a Local timeline, which crosses
position 0 only (R51), or a slip with its signed distance (R53). -/
inductive Move where
  | fwd (d : Nat)
  | rev (d : Nat)
  | wrap
  | slip (dist : Int)
deriving DecidableEq, Repr

/-- The position after a move. -/
def moveTo (l p : Nat) : Move → Nat
  | .fwd d => (p + d) % l
  | .rev d => (p + (l - d % l)) % l
  | .wrap => 0
  | .slip x => wrapMod l ((p : Int) + x)
where
  wrapMod (l : Nat) (x : Int) : Nat := (x % (l : Int)).toNat

/-- The change of LAP by a move (R38, R53). -/
def lapStep (l p : Nat) : Move → Int
  | .fwd d => if l ≤ p % l + d then 1 else 0
  | .rev d => if p % l < d then -1 else 0
  | .wrap => 1
  | .slip x => if (l : Int) ≤ (p % l : Nat) + x then 1 else if ((p % l : Nat) : Int) + x < 0 then -1 else 0

/-- The slip distance to a target: (target - p) mod L, signed in -L/2 < s ≤ L/2 (R53). -/
def slipDist (l p target : Nat) : Int :=
  let d := ahead l p target
  if 2 * d ≤ l then (d : Int) else (d : Int) - (l : Int)

/-- The slip window W (R54). -/
def slipWindow (s : State) (k : Nat) : Nat :=
  min (fget s (Fd.tlSlipWinMant k) * 2 ^ fget s (Fd.tlSlipWinExp k)) (tlLap s k / 4)

/-- A forward slip within its window (R54). -/
def slipNear (s : State) (k : Nat) (x : Int) : Bool := decide (0 < x ∧ x ≤ (slipWindow s k : Int))

/-! ### Readers (R60-R62) -/

/-- A POS0 read: the live or held low word; it latches POS1 and LAP, or releases the hold. -/
def pos0Read (s : State) (m : Master) (k : Nat) : Nat × State :=
  let l := latchOf s m k
  if l.held then (l.lo, setLatch s m k { l with held := false })
  else
    let w := tlWords s k (tlPos s k)
    (w.1, setLatch s m k { held := false, lo := w.1, hi := w.2, lap := tlLapCount s k })

/-- SNAP of one timeline: the requester's latches take POS0, POS1 and LAP and are held (R61). -/
def snapOne (s : State) (m : Master) (k : Nat) : State :=
  let w := tlWords s k (tlPos s k)
  setLatch s m k { held := true, lo := w.1, hi := w.2, lap := tlLapCount s k }

def snapMask (s : State) (m : Master) (mask : Nat) : State :=
  (List.range 32).foldl (fun s k => if bit mask k then snapOne s m k else s) s

/-- STAT.running mirrors CFG.run, and reads 1 for a Span-kind timeline (R50, R57). -/
def tlRunning (s : State) (k : Nat) : Bool := decide (tlKind s k = 6) || fbit s (Fd.tlCfgRun k)

end Sys2Proof.Machine
end

