-- ==== Sys2Proof/Machine/Landings.lean ====
section
/-! DEFINITION. Landing units (03_landings.md, R63-R78): the test of a move, fires, the freeze, and writes. -/

namespace Sys2Proof.Machine

/-- The engine that owns a landing unit (R63). -/
def landOwner (n : Nat) : Nat := n / 4

/-- CTRL.mode; 3 is reserved and acts as one of the three modes. -/
def landMode (s : State) (n : Nat) : Nat :=
  let m := fget s (Fd.lCtrlMode n)
  if m = 3 then openField s (Fd.lCtrlMode n) 3 else m

/-- CTRL.dir; 3 is reserved and acts as one of the three directions. -/
def landDir (s : State) (n : Nat) : Nat :=
  let d := fget s (Fd.lCtrlDir n)
  if d = 3 then openField s (Fd.lCtrlDir n) 3 else d

def landArmed (s : State) (n : Nat) : Bool := fbit s (Fd.lCtrlArm n)

/-- The linear compare value (R65). -/
def landCmp (s : State) (n : Nat) : Option Nat :=
  tlLinear s (fget s (Fd.lCtrlTl n)) (fget s (Fd.lCmp1CmpHi n)) (fget s (Fd.lCmp0CmpLo n))

/-- PASSED rises, and FAULT_OWN bit 6 of the owning engine's bay sets (R69). -/
def landPassed (s : State) (n x : Nat) : State :=
  if x = 0 then s
  else
    let s := setLand s n { landOf s n with passedAt := some s.clock }
    raise (fcount s (Fd.lPassedCount n) x) (bayEng (landOwner n)) 6

/-- The unit sends an event: STAT.fired, the PWM posts that name it (R287), and its ferry channel (R65, R69). -/
def landSend (s : State) (n : Nat) : State :=
  let s := fon s (Fd.lStatFired n)
  let s := { s with landDue := NSet.ins n s.landDue }
  fireIf s (fbit s (Fd.lCtrlFerryEn n)) (fget s (Fd.lCtrlChan n))

/-- The smallest k ≥ 1 for which the value k intervals on is not crossed by the move that fired (R67); `x` is the
distance of the present value from the move's start. -/
def autoSteps (l i d : Nat) : Nat → Nat → Nat → Nat
  | 0, _, k => k
  | fuel + 1, x, k =>
    if x = 0 ∨ d < x then k
    else
      let j := (d - x) / i + 1
      autoSteps l i d fuel ((x + j * i) % l) (k + j)

/-- k of R67; an interval of whole laps leaves the value in place, so the unit fires once per lap. -/
def autoK (l i d x : Nat) : Nat :=
  if i % l = 0 then 1
  else autoSteps l (i % l) d l ((x + i) % l) 1

/-- Writes a linear compare value in the position form of the timeline (R67). -/
def landSetCmp (s : State) (n v : Nat) : State :=
  let k := fget s (Fd.lCtrlTl n)
  let w := tlWords s k v
  let s := fset s (Fd.lCmp0CmpLo n) w.1
  match tlKind s k with
  | 3 => s
  | 4 => s
  | 5 => s
  | 7 => s
  | _ => fset s (Fd.lCmp1CmpHi n) w.2

/-- The compare value moves on by whole intervals after a crossing at `v` by a move from `p` of distance `d`
(R67): the new state and k. -/
def landAdd (s : State) (n p d v : Nat) (rev : Bool) : State × Nat :=
  let tl := fget s (Fd.lCtrlTl n)
  let l := tlLap s tl
  let i := tlInterval s tl (fget s (Fd.lInt1IntHi n)) (fget s (Fd.lInt0IntLo n))
  let x := if rev then ahead l v p else ahead l p v
  let k := autoK l i d x
  let v' := if rev then (v + (l - k * i % l)) % l else (v + k * i) % l
  (landSetCmp s n v', k)

/-- A crossing that fires (R66, R67, R68), or that a frozen unit records (R75). -/
def landCross (s : State) (n p d v : Nat) (rev slipped : Bool) : State :=
  let u := landOf s n
  if u.frozen then
    let s := fon (fcount s (Fd.lFrozenCount n) 1) (Fd.lStatPending n)
    if landMode s n = 1 then
      let r := landAdd s n p d v rev
      landPassed r.1 n (r.2 - 1)
    else setLand s n { u with recorded := true }
  else
    let s := landSend s n
    let s := if slipped then fon s (Fd.lStatSlipped n) else s
    if landMode s n = 1 then
      let r := landAdd s n p d v rev
      let add : AutoAdd :=
        { at' := s.clock, passed := fget s (Fd.lPassedCount n), cmpHi := fget s (Fd.lCmp1CmpHi n),
          raised := decide (2 ≤ r.2) && !bit (faultOwn s (bayEng (landOwner n))) 6 }
      let s := setLand r.1 n { u with firedAt := some add }
      landPassed s n (r.2 - 1)
    else fset s (Fd.lCtrlArm n) 0

/-- A forward slip beyond the window passes over the unit (R54, R66, R68). -/
def landSkip (s : State) (n p d v : Nat) : State :=
  let s := landPassed s n 1
  if landMode s n = 1 then (landAdd s n p d v false).1 else s

/-- An armed unit tests a move of its timeline from `p` (R65, R68); a frozen one-shot that has recorded its
crossing tests nothing more (R75). -/
def landTest (s : State) (n p : Nat) (mv : Move) : State :=
  let tl := fget s (Fd.lCtrlTl n)
  if !landArmed s n || landMode s n = 2 || ((landOf s n).frozen && (landOf s n).recorded && landMode s n = 0) then s
  else
    match landCmp s n with
    | none => s
    | some v =>
      let l := tlLap s tl
      let dir := landDir s n
      match mv with
      | .fwd d => if dir ≠ 1 ∧ crossedFwd l p d v then landCross s n p d v false false else s
      | .wrap => if dir ≠ 1 ∧ v = 0 then landCross s n p 1 v false false else s
      | .rev d => if dir ≠ 0 ∧ crossedRev l p d v then landCross s n p d v true false else s
      | .slip x =>
        if 0 < x ∧ dir ≠ 1 ∧ crossedFwd l p x.toNat v then
          if slipNear s tl x then landCross s n p x.toNat v false true else landSkip s n p x.toNat v
        else s

/-- The units whose registers are off their reset values; the others are not armed (R64). -/
def landUnits (s : State) : List Nat := touched s 0x40000 0x40 512

/-- Every unit bound to timeline `k` tests its move from `p`. -/
def landsTest (s : State) (k p : Nat) (mv : Move) : State :=
  (landUnits s).foldl (fun s n => if fget s (Fd.lCtrlTl n) = k then landTest s n p mv else s) s

/-- A tick of a unit in Local period mode (R74); discarded while frozen (R75). -/
def landTick (s : State) (n : Nat) : State :=
  if !landArmed s n || landMode s n ≠ 2 || (landOf s n).frozen then s
  else
    let p := fget s (Fd.lInt0IntLo n)
    let p := if p = 0 then 2 ^ 20 else p
    let c := fget s (Fd.lLcountCount n) + 1
    if p ≤ c then landSend (fset s (Fd.lLcountCount n) 0) n else fset s (Fd.lLcountCount n) c

/-- A freeze begins, or ends with its catch-up event, as CTRL.freeze and the owner's debug halt now stand
(R75, R76). A unit whose arm is 0 by then fires nothing and counts nothing (R64); pending clears all the same. A
one-shot clears arm also where the CTRL write that ends the freeze carries arm 1 (DESIGN CHOICE, log entry 58: R76 and
R72 differ). -/
def landFreeze (s : State) (n : Nat) : State :=
  let u := landOf s n
  let want := fbit s (Fd.lCtrlFreeze n) && (engOf s (landOwner n)).halted
  if want && !u.frozen then
    fset (setLand s n { u with frozen := true, recorded := false }) (Fd.lFrozenCount n) 0
  else if !want && u.frozen then
    let s := setLand s n { u with frozen := false, recorded := false }
    if fbit s (Fd.lStatPending n) then
      let s := fset s (Fd.lStatPending n) 0
      if !landArmed s n then s
      else
        let s := fon (landSend s n) (Fd.lStatCaught n)
        let s := if landMode s n = 0 then fset s (Fd.lCtrlArm n) 0 else s
        landPassed s n (fget s (Fd.lFrozenCount n) - 1)
    else s
  else s

/-- The four units of an engine, when it enters or leaves debug halt. -/
def landFreezeAll (s : State) (e : Nat) : State :=
  (List.range 4).foldl (fun s i => landFreeze s (4 * e + i)) s

/-- The other units of the engine leave FAULT_OWN bit 6 alone in this cycle. -/
def passedAlone (s : State) (n : Nat) : Bool :=
  (List.range 4).all fun i =>
    decide (4 * landOwner n + i = n) || decide ((landOf s (4 * landOwner n + i)).passedAt ≠ some s.clock)

/-- An auto-add of the present cycle is lost (R72): CMP1, PASSED and the class that PASSED set are as before the fire,
and add_lost sets. -/
def landUndo (s : State) (n : Nat) (a : AutoAdd) : State :=
  let b := bayEng (landOwner n)
  let s := fset s (Fd.lCmp1CmpHi n) a.cmpHi
  let s := fset s (Fd.lPassedCount n) (min a.passed (fget s (Fd.lPassedCount n)))
  let s := if a.raised && passedAlone s n then setFaultOwn s b (faultOwn s b &&& 0xBF) else s
  fon s (Fd.lStatAddLost n)

/-- The auto-add of the present cycle, which a CMP0 write undoes (R72). -/
def autoAddNow (s : State) (n : Nat) : Option AutoAdd :=
  match (landOf s n).firedAt with
  | some a => if a.at' = s.clock ∧ landMode s n = 1 then some a else none
  | none => none

/-- A CMP0 write with the held CMP1 (R70); an auto-add of the same cycle is lost (R72). -/
def landWriteCmp0 (s : State) (n v : Nat) : State :=
  let s := match autoAddNow s n with
    | some a => landUndo s n a
    | none => s
  let u := landOf s n
  let s := fset s (Fd.lCmp0CmpLo n) v
  let s := match u.heldCmp with
    | some h => fset s (Fd.lCmp1CmpHi n) h
    | none => s
  setLand s n { u with heldCmp := none, firedAt := none }

/-- An INT0 write with the held INT1 (R70). -/
def landWriteInt0 (s : State) (n v : Nat) : State :=
  let u := landOf s n
  let s := fset s (Fd.lInt0IntLo n) v
  let s := match u.heldInt with
    | some h => fset s (Fd.lInt1IntHi n) h
    | none => s
  setLand s n { u with heldInt := none }

/-- A CTRL write (R73): every field while disarmed; arm, freeze, ferry_en and chan while armed. A one-shot that fires in
the cycle of the write counts as disarmed already (DESIGN CHOICE, log entry 58: R72 and R73 do not say which arm is
meant). -/
def landWriteCtrl (s : State) (n v : Nat) : State :=
  let off := Adr.lCtrl n
  let old := (rget s off).toNat
  if !landArmed s n then landFreeze (rput s off (BitVec.ofNat 32 (v % 2 ^ 20))) n
  else
    let kept := setBits (setBits (v % 2 ^ 20) 19 16 (bits old 19 16)) 12 8 (bits old 12 8)
    let s := if bits v 19 16 ≠ bits old 19 16 ∨ bits v 12 8 ≠ bits old 12 8
      then stopIgnored s off (bayEng (landOwner n)) else s
    landFreeze (rput s off (BitVec.ofNat 32 kept)) n

/-- A TICK write (R73). -/
def landWriteTick (s : State) (n v : Nat) : State :=
  if landArmed s n then
    if v % 256 ≠ fget s (Fd.lTickTickChan n) then stopIgnored s (Adr.lTick n) (bayEng (landOwner n)) else s
  else fset s (Fd.lTickTickChan n) v

end Sys2Proof.Machine
end

