-- ==== Sys2Proof/Machine/EdgeQueues.lean ====
section
/-! DEFINITION. Post edge queues and capture stamps (03_landings.md, R79-R86). -/

namespace Sys2Proof.Machine

/-- The position a queue works on: 6 ns ahead for T0 and Span-kind timelines (R82). -/
def eqPosOf (s : State) (n p : Nat) : Nat :=
  let k := fget s (Fd.eqCfgTl n)
  if k = 0 ∨ tlKind s k = 6 then (p + 6) % tlLap s k else p

def eqPos (s : State) (n : Nat) : Nat := eqPosOf s n (tlPos s (fget s (Fd.eqCfgTl n)))

def eqRunning (s : State) (n : Nat) : Bool := fbit s (Fd.eqCfgRun n)

/-- The linear position of an entry, in the words it was pushed with. -/
def eqLinear (s : State) (n raw : Nat) : Option Nat :=
  tlLinear s (fget s (Fd.eqCfgTl n)) (raw / 2 ^ 20) (raw % 2 ^ 20)

/-- The head fires: it drives its level, leaves the queue, and fires its channel (R79, R85). -/
def eqFire (s : State) (n : Nat) (late : Bool) : State :=
  let u := eqOf s n
  match u.entries with
  | [] => s
  | e :: t =>
    let s := setEq s n { u with entries := t, level := e.2 }
    let s := fon s (Fd.eqStatFired n)
    let s := if late then fon s (Fd.eqStatLate n) else s
    fireIf s (fbit s (Fd.eqEvtFireEn n)) (fget s (Fd.eqEvtFireChan n))

/-- The head is crossed by the move from `r` to `p`. A head that stands at `r` itself is crossed one lap later, by the
move of one cycle, from `b` to `p` (R80). -/
def eqHeadCrossed (s : State) (n r b p : Nat) : Bool :=
  let l := tlLap s (fget s (Fd.eqCfgTl n))
  match (eqOf s n).entries with
  | [] => false
  | e :: _ =>
    match eqLinear s n e.1 with
    | none => false
    | some v =>
      if ahead l r v = 0 then decide (1 ≤ ahead l b v ∧ ahead l b v ≤ ahead l b p)
      else decide (ahead l r v ≤ ahead l r p)

/-- The test of one cycle (R80), in which the timeline moves from `before`: the head fires once the move from its
reference has crossed it. After a fire the reference is the position before the cycle's move. A run started by a slip
goes on first (R81). -/
def eqCycle (s : State) (n before : Nat) : State :=
  let u := eqOf s n
  let now := eqPos s n
  match u.slipTo with
  | some t =>
    if eqHeadCrossed s n u.r u.r t then eqFire s n true
    else
      let s := setEq s n { u with slipTo := none, r := t }
      if eqHeadCrossed s n t before now then
        let s := eqFire s n false
        setEq s n { eqOf s n with r := before }
      else s
  | none =>
    if eqHeadCrossed s n u.r before now then
      let s := eqFire s n (eqHeadCrossed s n u.r u.r before)
      setEq s n { eqOf s n with r := before }
    else s

/-- The entries from the head on that a slip beyond the window crosses leave the queue without firing (R81). -/
def eqSkip (s : State) (n r b t : Nat) : Nat → State
  | 0 => s
  | fuel + 1 =>
    if eqHeadCrossed s n r b t then
      let u := eqOf s n
      match u.entries with
      | [] => s
      | e :: es => eqSkip (fon (setEq s n { u with entries := es, level := e.2 }) (Fd.eqStatSkipped n)) n r b t fuel
    else s

/-- A wrap of a Local timeline crosses position 0 only; with a period of 1 every event wraps (R51). -/
def eqWrap (s : State) (n p : Nat) : State :=
  match tlLap s (fget s (Fd.eqCfgTl n)), (eqOf s n).entries with
  | 1, e :: _ => if eqLinear s n e.1 = some 0 then eqFire s n false else s
  | _, _ => eqCycle s n p

/-- A queue bound to a timeline takes its move from `p` (R80, R81). -/
def eqMove (s : State) (n p : Nat) (mv : Move) : State :=
  let now := eqPos s n
  let b := eqPosOf s n p
  match mv with
  | .fwd _ => eqCycle s n b
  | .wrap => eqWrap s n b
  | .rev _ => setEq s n { eqOf s n with r := now, slipTo := none }
  | .slip x =>
    if x ≤ 0 then setEq s n { eqOf s n with r := now, slipTo := none }
    else if slipNear s (fget s (Fd.eqCfgTl n)) x then
      let r := (eqOf s n).r
      if eqHeadCrossed s n r b now then
        let s := eqFire s n false
        setEq s n { eqOf s n with slipTo := some now }
      else setEq s n { eqOf s n with r := now, slipTo := none }
    else
      let s := eqSkip s n (eqOf s n).r b now 4
      setEq s n { eqOf s n with r := now, slipTo := none }

/-- The queues with a state off reset, that run and follow positions. -/
def eqActive (s : State) : List Nat :=
  (s.eqs.map Prod.fst).filter fun n => eqRunning s n && !fbit s (Fd.eqCfgTrig n)

/-- Every queue bound to timeline `k` takes its move from `p`. -/
def eqsMove (s : State) (k p : Nat) (mv : Move) : State :=
  (eqActive s).foldl (fun s n => if fget s (Fd.eqCfgTl n) = k then eqMove s n p mv else s) s

/-- A core cycle in which the queue's timeline does not move: a crossed entry behind a fired one fires (R80, R81). -/
def eqsIdle (s : State) (moved : List Nat) : State :=
  (eqActive s).foldl (fun s n => if fget s (Fd.eqCfgTl n) ∈ moved then s else eqCycle s n (eqPos s n)) s

/-- A ferry event on the queue's trigger channel (R83). -/
def eqTrigger (s : State) (n : Nat) : State :=
  if !eqRunning s n || !fbit s (Fd.eqCfgTrig n) then s
  else if (eqOf s n).entries.isEmpty then fon s (Fd.eqStatStarved n)
  else eqFire s n false

/-- The hall bay that holds a post (R5, R278). -/
def postHall (n : Nat) : Nat := bayHall (n / 128)

/-- A push (R79, R80, R84). -/
def eqPush (s : State) (n lo : Nat) (lvl : Lvl) : State :=
  let u := eqOf s n
  if 4 ≤ u.entries.length then raise (fon s (Fd.eqStatOvf n)) (postHall n) 6
  else
    let r := if u.entries.isEmpty then eqPos s n else u.r
    let st := if u.entries.isEmpty then none else u.slipTo
    setEq s n { u with entries := u.entries ++ [(u.push1 * 2 ^ 20 + lo % 2 ^ 20, lvl)], r := r, slipTo := st }

/-- FLUSH empties the queue; the pad keeps its level (R84). -/
def eqFlush (s : State) (n : Nat) : State := setEq s n { eqOf s n with entries := [], slipTo := none }

/-- run goes from 0 to 1: the head takes the present position as its reference (R86). -/
def eqStart (s : State) (n : Nat) : State := setEq s n { eqOf s n with r := eqPos s n, slipTo := none }

/-- A stamp of the bound timeline's position enters the FIFO, or is dropped (R85). -/
def eqStamp (s : State) (n : Nat) (level : Bool) : State :=
  let u := eqOf s n
  if 2 ≤ u.stamps.length then fon s (Fd.eqStatCapLost n)
  else
    let k := fget s (Fd.eqCfgTl n)
    let w := tlWords s k (tlPos s k)
    let s := setEq s n { u with stamps := u.stamps ++ [(w.2 * 2 ^ 20 + w.1, level)] }
    fireIf s (fbit s (Fd.eqEvtCapEn n)) (fget s (Fd.eqEvtCapChan n))

/-- A pad edge to `level` that capture qualifies: on T0 and Span-kind timelines the stamp is the position of the
nanosecond in which the edge reached the pad, on the others the position four cycles later (R85). -/
def eqCapture (s : State) (n : Nat) (level : Bool) : State :=
  let sel := fget s (Fd.eqCfgCapEdge n)
  if !eqRunning s n || !(bit sel (if level then 0 else 1)) then s
  else
    let k := fget s (Fd.eqCfgTl n)
    if k = 0 ∨ tlKind s k = 6 then eqStamp s n level
    else setEq s n { eqOf s n with capDue := (eqOf s n).capDue ++ [(s.clock, level)] }

/-- The edges of four cycles ago are stamped; a queue that has stopped since captures nothing (R85, R86). -/
def eqCaptureDue (s : State) (n : Nat) : State :=
  let due := (eqOf s n).capDue.filter fun p => decide (p.1 + 4 ≤ s.clock)
  let s := setEq s n { eqOf s n with capDue := (eqOf s n).capDue.filter fun p => decide (s.clock < p.1 + 4) }
  if eqRunning s n then due.foldl (fun s p => eqStamp s n p.2) s else s

/-- The stamps that fall due in a cycle. -/
def eqsCapture (s : State) : State :=
  ((s.eqs.filter fun p => decide (p.2.capDue ≠ [])).map Prod.fst).foldl eqCaptureDue s

/-- A CAP0 read pops the oldest stamp, and returns 0 when there is none (R85, R86). -/
def cap0Read (s : State) (n : Nat) : Nat × State :=
  let u := eqOf s n
  match u.stamps with
  | [] => (0, s)
  | x :: t => (x.1 % 2 ^ 20, setEq s n { u with stamps := t })

end Sys2Proof.Machine
end

