-- ==== Sys2Proof/Machine/Moves.lean ====
section
/-! DEFINITION. Moves of timelines: ordinary advances, slips and their causes (R35-R56), and their sources. -/

namespace Sys2Proof.Machine

/-- The position, LAP and wrap record of unit `key` after a move of a timeline of lap length `l` (R35, R38). -/
def tlShift (s : State) (key l : Nat) (mv : Move) : State :=
  let u := tlOf s key
  let st := lapStep l u.pos mv
  setTl s key
    { u with
      pos := moveTo l (u.pos % l) mv
      adv := match mv with
        | .fwd d => some (s.clock, u.pos % l, d)
        | _ => u.adv
      lap := wrapN 20 ((u.lap : Int) + st)
      wrapAt := if st = 0 then u.wrapAt else some (s.clock, st) }

/-- Timeline `k` moves from `p`: every landing and edge queue bound to it tests the move. -/
def tlWatch (s : State) (k p : Nat) (mv : Move) : State := eqsMove (landsTest s k p mv) k p mv

/-- A move of one timeline that is not Span-kind. -/
def tlMove (s : State) (k : Nat) (mv : Move) : State :=
  let l := tlLap s k
  if l = 0 then s
  else
    let p := tlPos s k
    tlWatch (tlShift s k l mv) k p mv

/-- The timelines of kind Span (R50). -/
def spanTls (s : State) : List Nat :=
  ((List.range 24).map (· + 8)).filter fun k => decide (tlKind s k = 6)

/-- A move of span time: every Span-kind timeline makes it. -/
def spanMove (s : State) (mv : Move) : State :=
  let p := (tlOf s 32).pos
  let s := tlShift s 32 (2 ^ 40) mv
  (spanTls s).foldl (fun s k => tlWatch s k p mv) s

/-- The records of a slip of distance `x` (R54, R56). -/
def slipRecord (s : State) (k : Nat) (x : Int) : State :=
  let s := fcount s (Fd.tlSlipsCount k) 1
  let s := fset s (Fd.tlLastSlipS k) (wrapN 20 (clampN 20 x))
  if x < 0 then fon s (Fd.tlStatBack k)
  else if slipNear s k x then fon s (Fd.tlStatNear k)
  else fon s (Fd.tlStatFar k)

/-- A slip takes the place of one ordinary advance of the unit `key` (R35, R53). T0 has none to leave out: a cycle in
which T0 slips is the slip's command, not an advance command (log entry 7); an encoder's, a Mains or a local source's
next advance is a command of its own cycle. -/
def slipOwes (s : State) (key : Nat) : State :=
  if key = 32 ∨ (8 ≤ key ∧ tlKind s key = 1) then setTl s key { tlOf s key with owed := (tlOf s key).owed + 1 } else s

/-- A slip by a signed distance that is not 0. -/
def slipBy (s : State) (k : Nat) (x : Int) : State :=
  if x = 0 then s else slipOwes (tlMove (slipRecord s k x) k (.slip x)) k

/-- A slip of span time, on every Span-kind timeline (R50). -/
def spanSlipBy (s : State) (x : Int) : State :=
  if x = 0 then s
  else slipOwes (spanMove ((spanTls s).foldl (fun s k => slipRecord s k x) s) (.slip x)) 32

/-- A slip that hardware makes: a SET0 or SLEW write that comes after it in its cycle loses to it (R55). A write that
comes before it counts as landed in an earlier cycle (DESIGN CHOICE, log entry 59). -/
def hwSlipBy (s : State) (k : Nat) (x : Int) : State :=
  if x = 0 then s
  else
    let s := slipBy s k x
    setTl s k { tlOf s k with hwSlipAt := some s.clock }

/-! ### Prescaled timelines (R41) -/

/-- Whole prescaled units in `d` source steps, and the new prescaler count. -/
def prescale (m c d : Nat) : Nat × Nat := ((c + d) / m, (c + d) % m)

/-- The general timelines of a kind that run (R34, R39). -/
def generalRunning (s : State) (kind : Nat) : List Nat :=
  ((List.range 24).map (· + 8)).filter fun k => decide (tlKind s k = kind) && fbit s (Fd.tlCfgRun k)

/-- An advance of the source (T0 or T7) by `d` reaches the prescaled timeline `k`, which makes no ordinary advance in the
cycle of a slip. -/
def prescaleAdvance (s : State) (d k : Nat) : State :=
  let u := tlOf s k
  let r := prescale (tlMod s k) u.prescale d
  let s := setTl s k { u with prescale := r.2, owed := u.owed - 1 }
  if r.1 = 0 ∨ 0 < u.owed then s else tlMove s k (.fwd r.1)

/-- A slip of the source by `x` passes the whole units it crosses on to timeline `k`. -/
def prescaleSlip (s : State) (x : Int) (k : Nat) : State :=
  let u := tlOf s k
  let m := tlMod s k
  let c := wrapMod m ((u.prescale : Int) + x)
  let units := ((u.prescale : Int) + x - (c : Int)) / (m : Int)
  hwSlipBy (setTl s k { u with prescale := c }) k units
where
  wrapMod (m : Nat) (x : Int) : Nat := (x % (m : Int)).toNat

/-! ### Times counted in T0 (R166, R352) -/

/-- `d` ns of T0 pass for the watchdogs that run (not in a halt, R166, R410) and the hold-off groups (R352). -/
def wdTick (d : Nat) (halted : Bool) (en : Bool) (u : Eng) : Eng :=
  if en && !halted && !u.locked && !u.held then { u with wdNs := u.wdNs - d } else u

def timersTick (s : State) (d : Nat) : State :=
  let s := (s.engs.map Prod.fst).foldl (fun s e =>
    let u := engOf s e
    setEng s e (wdTick d (u.halted || (fbit s Fd.thStatAlarm && decide (u.level = 2))) (fbit s (Fd.engWdogCfgEn (e / 4) (e % 4)) && !inQuadReset s (e / 4)) u)) s
  { s with ic := { s.ic with hold := s.ic.hold.map fun p => (p.1, max 1 (p.2 - d)) } }

/-- A slip of T0 or T7 with the timelines that follow it (R41); the whole distance of a forward
slip of T0 counts for hold-off timers (R352) and watchdogs. -/
def sourceSlip (s : State) (k : Nat) (x : Int) : State :=
  let s := slipBy s k x
  let s := if k = 0 ∧ 0 < x then timersTick s x.toNat else s
  let kind := if k = 0 then 1 else 3
  (generalRunning s kind).foldl (fun s j => prescaleSlip s x j) s

/-! ### The reference (R40, R50, R430) -/

/-- The distance span time moves while T0 advances by `d`: T0's own, with a trimmed advance at most once in 5,000 ns
(200 ppm) while a follower has error to remove (R430). The cycle of a slip of span time has no advance (R53). -/
def spanAdvance (s : State) (d : Nat) : State :=
  let sp := s.span
  let u := tlOf s 32
  let ns := sp.steerNs + d
  let move := fun (s : State) (d : Nat) => if d = 0 then s else spanMove s (.fwd d)
  if 0 < u.owed then { setTl s 32 { u with owed := u.owed - 1 } with span := { sp with steerNs := ns } }
  else if sp.steer ≠ 0 ∧ 5000 ≤ ns ∧ 0 < d then
    let up := decide (0 < sp.steer)
    let s := { s with span := { sp with steer := if up then sp.steer - 1 else sp.steer + 1, steerNs := 0 } }
    move s (if up then d + 1 else d - 1)
  else move { s with span := { sp with steerNs := ns } } d

/-- The timelines that follow the reference and have made their move in the cycle that leads from `s` to `t`, which for
the ones in the cycle of a slip is the slip. -/
def refMoved (s t : State) : List Nat :=
  (0 :: (generalRunning s 1 ++ spanTls s)).filter fun k =>
    decide (tlPos s k ≠ tlPos t k) || decide (0 < (tlOf s (tlKey s k)).owed)

/-- One cycle of the reference in which T0 advances by `d`: 1, or 0 or 2 when trimmed (R40). -/
def refCycle (s : State) (d : Nat) : State :=
  let s := nextCycle { s with clock := s.clock + 1 }
  let t := if d = 0 then s else tlMove s 0 (.fwd d)
  let t := if d = 0 then t else (generalRunning s 1).foldl (fun t k => prescaleAdvance t d k) t
  let t := spanAdvance t d
  let t := timersTick t d
  eqsCapture (eqsIdle t (refMoved s t))

/-- A trimmed advance is due: T0 makes one every 10^9 / |t| ns; the first after TRIM is written may come at any time
(DESIGN CHOICE, log entry 59). -/
def trimDue (s : State) (t : Int) : Bool :=
  match s.trimAt with
  | none => true
  | some c => decide (10 ^ 9 ≤ (s.clock + 1 - c) * t.natAbs)

/-- The advance of T0 in a cycle with a trimmed advance, where one is due (R40). -/
def trimDist (s : State) : Option Nat :=
  let t := signedN 20 (fget s (Fd.tlTrimPpb 0))
  if t = 0 ∨ !trimDue s t then none else if 0 < t then some 2 else some 0

/-! ### Writes that move a timeline (R53, R58, R59) -/

/-- The write of a target: replaced while stopped (R39), else a slip (R53), lost to a hardware slip of the same
cycle (R55). -/
def tlTarget (s : State) (k target : Nat) : State :=
  let l := tlLap s k
  if l = 0 then s
  else if tlKind s k = 6 then
    if (tlOf s 32).hwSlipAt = some s.clock then fon s (Fd.tlStatSetLost k)
    else spanSlipBy s (slipDist l (tlPos s k) (target % l))
  else if !fbit s (Fd.tlCfgRun k) then setTl s k { tlOf s k with pos := target % l }
  else if (tlOf s k).hwSlipAt = some s.clock then fon s (Fd.tlStatSetLost k)
  else
    let x := slipDist l (tlPos s k) (target % l)
    if k = 0 ∨ k = 7 then sourceSlip s k x else slipBy s k x

/-- A SET0 write takes the held set_hi with it (R53, R57). -/
def tlSet0 (s : State) (k lo : Nat) : State :=
  let key := tlKey s k
  let u := tlOf s key
  let target := u.setHi * 2 ^ 20 + lo
  tlTarget (setTl s key { u with setHi := 0 }) k target

/-- A SLEW write: the signed offset from the present position (R57). -/
def tlSlew (s : State) (k v : Nat) : State :=
  let l := tlLap s k
  if l = 0 then s else tlTarget s k (wrapTo l ((tlPos s k : Int) + signedN 20 v))
where
  wrapTo (l : Nat) (x : Int) : Nat := (x % (l : Int)).toNat

/-! ### Local timelines (R51) -/

/-- An event on a Local timeline's channel: the wrap test is count-based, and a wrap crosses 0 only. -/
def localEvent (s : State) (k : Nat) : State :=
  if tlKind s k ≠ 7 ∨ !fbit s (Fd.tlCfgRun k) then s
  else
    let u := tlOf s k
    let l := tlMod s k
    if l ≤ u.pos + 1 then
      let s := setTl s k { u with pos := 0, lap := (u.lap + 1) % 2 ^ 20, wrapAt := some (s.clock, 1) }
      tlWatch s k (l - 1) .wrap
    else
      tlWatch (setTl s k { u with pos := u.pos + 1 }) k u.pos (.fwd 1)

/-! ### Encoders (R44-R46) -/

def postPort (n : Nat) : Nat := n / 32

/-- The bank is powered and agrees with vsel, and the main domain runs (R279, R293). -/
def bankLive (s : State) (p : Nat) : Bool :=
  mainUp s && fbit s (Fd.prtBankStatPresent p) && !fbit s (Fd.prtBankStatMismatch p)

def postFunc (s : State) (n : Nat) : Nat := fget s (Fd.postPcfgFunc n)

/-- A consumer of function `f` sees the pad of a post set to it, from the end of its switch (R281, R285) and while its bank
is live (R279, R283); else it sees level 0. -/
def postLive (s : State) (n f : Nat) : Bool :=
  decide (n < s.variant.posts) && decide (postFunc s n = f) && bankLive s (postPort n) &&
    decide ((postOf s n).seeAt ≤ s.clock)

/-- ENC.decode; 3 is reserved and acts as one of the three. -/
def encDecode (s : State) (k : Nat) : Nat :=
  let d := fget s (Fd.tlEncDecode k)
  if d = 3 then openField s (Fd.tlEncDecode k) 3 else d

/-- The direction of a legal step of (A, B), and whether the decode counts it: A rising while B is low is forward. -/
def encStep (decode : Nat) (swap a b a' b' : Bool) : Option Bool × Bool :=
  if a ≠ a' ∧ b ≠ b' ∨ a = a' ∧ b = b' then (none, false)
  else
    let fwd := if a ≠ a' then decide (a' ≠ b) else decide (b' = a)
    let fwd := fwd != swap
    let counted :=
      if decode = 0 then true
      else if decode = 1 then decide (a ≠ a')
      else decide (a ≠ a') && (if fwd then a' else !a')
    (some fwd, counted)

/-- A change of a filtered level that comes less than filter + 1 ns after the one before it is not resolved (R44, R45);
with filter 0 every sample counts. -/
def encResolved (s : State) (k : Nat) (last : Option Nat) : Bool :=
  let f := fget s (Fd.tlEncFilter k)
  match last with
  | none => true
  | some c => decide (f = 0 ∨ c + f + 1 ≤ s.clock)

/-- The filtered pair that a new sample leaves: each level of a post of the encoder function, where it is resolved. -/
def encSample (s : State) (k : Nat) (a b : Bool) : TlUnit :=
  let u := tlOf s k
  let a := a && postLive s (fget s (Fd.tlSrc0PostA k)) 8
  let b := b && postLive s (fget s (Fd.tlSrc1PostB k)) 8
  let u := if a ≠ u.encA ∧ encResolved s k u.encAAt then { u with encA := a, encAAt := some s.clock } else u
  if b ≠ u.encB ∧ encResolved s k u.encBAt then { u with encB := b, encBAt := some s.clock } else u

/-- The filtered pair stands at the index gate (R46). -/
def encAtGate (s : State) (k : Nat) (u : TlUnit) : Bool :=
  decide (fget s (Fd.tlEncIdxGate k) = 2 * boolNat u.encA + boolNat u.encB)

/-- The move that the new filtered pair makes, with the pair and enc_err recorded, also while run is 0 (R44, R45;
DESIGN CHOICE, log entry 59). A pair that leaves the gate ends the index condition. -/
def encMove (s : State) (k : Nat) (a b : Bool) : State × Option Move :=
  let u := tlOf s k
  let v := encSample s k a b
  let r := encStep (encDecode s k) (fbit s (Fd.tlEncSwap k)) u.encA u.encB v.encA v.encB
  let s' := setTl s k { v with idxOn := v.idxOn && encAtGate s k v }
  if u.encA ≠ v.encA ∧ u.encB ≠ v.encB then (fon s' (Fd.tlStatEncErr k), none)
  else
    match r with
    | (some true, true) => (s', some (.fwd 1))
    | (some false, true) => (s', some (.rev 1))
    | _ => (s', none)

def encRuns (s : State) (k : Nat) : Bool := decide (tlKind s k = 4) && fbit s (Fd.tlCfgRun k)

/-- A change of the filtered pair (R44, R45). -/
def encEdge (s : State) (k : Nat) (a b : Bool) : State :=
  if tlKind s k ≠ 4 then s
  else
    let r := encMove s k a b
    match r.2 with
    | some mv => if fbit s (Fd.tlCfgRun k) then tlMove r.1 k mv else r.1
    | none => r.1

/-- The index level of the timelines that name post `n` falls: their index condition ends (R46). -/
def encIndexFalls (s : State) (n : Nat) : State :=
  (touched s 0x20000 0x100 32).foldl (fun s k =>
    if tlKind s k = 4 ∧ fget s (Fd.tlSrc1PostIdx k) = n then setTl s k { tlOf s k with idxOn := false } else s) s

/-- ENC.idx_mode; 3 is reserved and acts as one of the three. -/
def encIdxMode (s : State) (k : Nat) : Nat :=
  let d := fget s (Fd.tlEncIdxMode k)
  if d = 3 then openField s (Fd.tlEncIdxMode k) 3 else d

/-- The index level is high at a sample, with the edge counted in the same cycle if there is one. It qualifies where
the condition of R46 (level high, pair at the gate) becomes true: not where it was true before. -/
def encIndex (s : State) (k : Nat) (edge : Option (Bool × Bool)) : State :=
  if tlKind s k ≠ 4 then s
  else
  let was := (tlOf s k).idxOn
  let r := match edge with
    | some (a, b) => encMove s k a b
    | none => (s, none)
  let on := postLive s (fget s (Fd.tlSrc1PostIdx k)) 8 && encAtGate s k (tlOf r.1 k)
  let s1 := setTl r.1 k { tlOf r.1 k with idxOn := on }
  let mode := encIdxMode s k
  if !encRuns s k then s1
  else
    let plain := match r.2 with
      | some mv => tlMove s1 k mv
      | none => s1
    if mode = 0 ∨ !on ∨ was then plain
    else
      let l := tlLap s k
      let p := tlPos s k
      let q := match r.2 with
        | some mv => moveTo l p mv
        | none => p
      let v := fget s (Fd.tlIdxIdxVal k)
      let done := fun (t : State) => if mode = 1 then fset t (Fd.tlEncIdxMode k) 0 else t
      if q = v then done plain
      else done (hwSlipBy (fon s1 (Fd.tlStatIdxErr k)) k (slipDist l p v))

/-! ### Mains (R47-R49) -/

/-- MAINS.edge; 3 is reserved and acts as one of the three. -/
def mainsEdgeSel (s : State) (k : Nat) : Nat :=
  let d := fget s (Fd.tlMainsEdge k)
  if d = 3 then openField s (Fd.tlMainsEdge k) 3 else d

/-- The phase that a qualifying edge marks, or none where the edge does not qualify (R47). -/
def mainsPhase (s : State) (k : Nat) (rising : Bool) : Option Nat :=
  let off := fget s (Fd.tlMainsOffset k)
  match mainsEdgeSel s k, rising with
  | 0, true => some off
  | 1, false => some off
  | 2, true => some off
  | 2, false => some ((off + 0x8000) % 65536)
  | _, _ => none

/-- The signed difference of a phase from the present one, in -32,768 to 32,767 units. -/
def mainsError (s : State) (k phase : Nat) : Int := signedN 16 (phase + 65536 - tlPos s k % 65536)

/-- Every interval of the list lies within 1/64 of the mean (R48). -/
def mainsSteady (l : List Nat) : Bool :=
  let sum := l.foldl (· + ·) 0
  let n := l.length
  l.all fun x => decide (64 * (n * x) ≤ 65 * sum) && decide (63 * sum ≤ 64 * (n * x))

/-- From cycle `c` on the phase moves `units` units in `ns` ns (R48, R49). -/
def mainsRate (c ns units : Nat) (u : TlUnit) : TlUnit := { u with mFrom := c, mSpan := ns, mUnits := units, mDone := 0 }

/-- A qualifying edge during acquisition (R48). -/
def mainsAcquire (s : State) (k phase : Nat) : State :=
  let u := tlOf s k
  let half := decide (mainsEdgeSel s k = 2)
  match u.mLast with
  | none => setTl s k { u with mLast := some s.clock, mAcq := [] }
  | some t0 =>
    let x := s.clock - t0
    let full := if half then 2 * x else x
    if full < 15385000 ∨ 22222000 < full then setTl s k { u with mLast := some s.clock, mAcq := [] }
    else
      let acq := (u.mAcq ++ [x]).drop (u.mAcq.length - 7)
      if acq.length = 8 ∧ mainsSteady acq then
        let mean := acq.foldl (· + ·) 0 / 8
        let period := if half then 2 * mean else mean
        let s := setTl s k (mainsRate s.clock mean (if half then 32768 else 65536)
          { u with mLast := some s.clock, mAcq := [], mMiss := 0, mPeriod := period })
        let s := fset (fset s (Fd.tlMainsStatLocked k) 1) (Fd.tlMainsStatHoldover k) 0
        let s := fset s (Fd.tlMainsStatPeriodUs k) (period / 1000)
        hwSlipBy s k (mainsError s k phase)
      else setTl s k { u with mLast := some s.clock, mAcq := acq }

/-- The interval between expected edges that an accepted edge measures: the time since the last accepted one, over the
nearest whole number of expected intervals `x0` (R49). -/
def mainsInterval (x x0 : Nat) : Nat := x / max 1 ((2 * x + x0) / (2 * x0))

/-- A qualifying edge while locked (R49). The rate from an accepted edge on reaches the next expected phase at the next
expected edge: the interval's units and the error. -/
def mainsTrack (s : State) (k phase : Nat) : State :=
  let u := tlOf s k
  let e := mainsError s k phase
  let half := decide (mainsEdgeSel s k = 2)
  if -1024 ≤ e ∧ e ≤ 1024 then
    let x := mainsInterval (s.clock - u.mLast.getD s.clock) (if half then u.mPeriod / 2 else u.mPeriod)
    let period := if half then 2 * x else x
    let s := setTl s k (mainsRate s.clock x ((if half then 32768 else 65536) + e).toNat
      { u with mLast := some s.clock, mMiss := 0, mPeriod := period })
    fset s (Fd.tlMainsStatPeriodUs k) (period / 1000)
  else if u.mMiss = 2 then
    let s := setTl s k { u with mMiss := 0, mAcq := [], mLast := none }
    fon (fset s (Fd.tlMainsStatLocked k) 0) (Fd.tlStatUnlock k)
  else setTl s k { u with mMiss := u.mMiss + 1 }

def mainsRuns (s : State) (k : Nat) : Bool := decide (tlKind s k = 5) && fbit s (Fd.tlCfgRun k)

/-- An edge at the zero-cross post (R47-R49). -/
def mainsEdgeAt (s : State) (k : Nat) (rising : Bool) : State :=
  if !mainsRuns s k || !postLive s (fget s (Fd.tlSrc0PostA k)) 9 then s
  else
    match mainsPhase s k rising with
    | none => s
    | some phase =>
      let u := tlOf s k
      if 8 * (s.clock - u.mLast.getD 0) < u.mPeriod ∧ u.mLast.isSome then s
      else if fbit s (Fd.tlMainsStatLocked k) then mainsTrack s k phase
      else mainsAcquire s k phase

/-- The next phase unit is due at the rate in effect. -/
def mainsDue (s : State) (u : TlUnit) : Bool :=
  decide (u.mSpan ≠ 0) && decide ((u.mDone + 1) * u.mSpan ≤ (s.clock - u.mFrom) * u.mUnits)

/-- One phase unit at the measured rate, from the first lock on (R48, R49). -/
def mainsAdvance (s : State) (k : Nat) : State :=
  let u := tlOf s k
  if mainsRuns s k && mainsDue s u then tlMove (setTl s k { u with mDone := u.mDone + 1 }) k (.fwd 1) else s

/-- No accepted edge for 1.5 measured periods (R49). -/
def mainsHold (s : State) (k : Nat) : State :=
  let u := tlOf s k
  if mainsRuns s k && fbit s (Fd.tlMainsStatLocked k) && decide (3 * u.mPeriod ≤ 2 * (s.clock - u.mLast.getD 0)) then
    let s := setTl s k { u with mAcq := [], mLast := none, mMiss := 0 }
    let s := fset (fset s (Fd.tlMainsStatHoldover k) 1) (Fd.tlMainsStatLocked k) 0
    fon s (Fd.tlStatUnlock k)
  else s

/-- CFG.run goes from 0 to 1: the prescaler starts at zero (R41), and a Mains timeline starts acquisition from the
beginning, so it is neither locked nor in holdover (R48; DESIGN CHOICE, log entry 59). -/
def tlStart (s : State) (k : Nat) : State :=
  let s := setTl s k (mainsRate 0 0 0
    { tlOf s k with prescale := 0, mAcq := [], mLast := none, mMiss := 0, mPeriod := 0 })
  fset (fset s (Fd.tlMainsStatLocked k) 0) (Fd.tlMainsStatHoldover k) 0

end Sys2Proof.Machine
end

