-- ==== Sys2Proof/Machine/Ferry.lean ====
section
/-! DEFINITION. Ferry channels (04_ferry_channels.md): the delivery of events to their consumers, and the settling of
a step. -/

namespace Sys2Proof.Machine

/-! ### Routes (R90, R91, R105) -/

/-- The engines a route's level and index name (R90). -/
def routeEngines (v : Variant) (level index : Nat) : List Nat :=
  match level with
  | 0 => [index]
  | 1 => (List.range 4).map fun i => 4 * index + i
  | 2 => (List.range 16).map fun i => 16 * index + i
  | _ => List.range v.engines

/-- The task inputs (8 · engine + input) that one word of ROUTE0 or ROUTE1 reaches. -/
def routeTis (v : Variant) (w : Nat) : List Nat :=
  if bit w 19 then (routeEngines v (bits w 18 17) (bits w 16 10)).map fun e => 8 * e + bits w 9 7 else []

/-- One event adds at most one to a given task input, even by both routes (R91). -/
def channelTis (s : State) (c : Nat) : List Nat :=
  NSet.norm (routeTis s.variant (rget s (Adr.cRoute0 c)).toNat ++ routeTis s.variant (rget s (Adr.cRoute1 c)).toNat)

/-! ### Start triggers (R324, R332) -/

/-- A trigger of bay DMA channel Qq.Dd: trig_pend rises to 15, then trig_ovf sets. -/
def dmaTrigger (s : State) (q d : Nat) : State :=
  if inQuadReset s q then s
  else if fget s (Fd.dStatTrigPend q d) = 15 then fon s (Fd.dStatTrigOvf q d)
  else fset s (Fd.dStatTrigPend q d) (fget s (Fd.dStatTrigPend q d) + 1)

/-- A trigger of Barge channel `n` (R332). -/
def bargeTrigger (s : State) (n : Nat) : State :=
  if fget s (Fd.bgStatTrigPend n) = 15 then fon s (Fd.bgStatTrigOvf n)
  else fset s (Fd.bgStatTrigPend n) (fget s (Fd.bgStatTrigPend n) + 1)

/-- The slots `m` whose triggers act in a cycle join those of that cycle; the later of two triggers of a slot does nothing. -/
def rgDueAt (c m : Nat) : List (Nat × Nat) → List (Nat × Nat)
  | [] => if m = 0 then [] else [(c, m)]
  | p :: t => if p.1 = c then (c, p.2 ||| m) :: t else p :: rgDueAt c (m - (m &&& p.2)) t

/-- The pending slots of raise group `g` that channel `c` triggers (R365). -/
def rgTrigger (s : State) (c g : Nat) : State :=
  let m := (List.range 8).foldl (fun a k =>
    if bit (fget s (Fd.rgStatPend g)) k && decide (fget s (Fd.rgTrigChan g k) = c) then a + 2 ^ k else a) 0
  { s with rg := { s.rg with
      due := Sparse.put [] g (rgDueAt (s.clock + s.rg.round) m (Sparse.get [] g s.rg.due)) s.rg.due } }

/-- The voices that channel `c` keys on (R257): the key waits for the first sample boundary (R100). -/
def voiceTrigger (s : State) (c v : Nat) : State :=
  if fbit s (Fd.vCtrlKonEn v) && decide (fget s (Fd.vCtrlKonChan v) = c) then
    { s with keyDue := NSet.ins v s.keyDue }
  else s

/-! ### Events -/

/-- A channel carries one event: flag, EVENTS, and every consumer that names it (R88, R96, R100). -/
def carry (s : State) (c : Nat) : State :=
  let s := fon s (Fd.cFlagFlag c)
  let s := fcount s (Fd.cEventsCount c) 1
  let s := ((touched s 0x20000 0x100 32).filter fun k => decide (fget s (Fd.tlSrc0Chan k) = c)).foldl localEvent s
  let s := ((landUnits s).filter fun n => decide (fget s (Fd.lTickTickChan n) = c)).foldl landTick s
  let s := ((touched s 0x60000 0x40 1024).filter fun n => decide (fget s (Fd.eqCfgTrigChan n) = c)).foldl eqTrigger s
  let s := (channelTis s c).foldl (fun s x => tiInc s (x / 8) (x % 8)) s
  let s := ((List.range (2 * s.variant.quads)).filter fun x => decide (fget s (Fd.dTrigChan (x / 2) (x % 2)) = c)).foldl
    (fun s x => dmaTrigger s (x / 2) (x % 2)) s
  let s := ((List.range 16).filter fun n => decide (fget s (Fd.bgChTrigChan n) = c)).foldl bargeTrigger s
  let s := (touched s 0x1E0000 0x100 16).foldl (fun s g => rgTrigger s c g) s
  (touched s 0xD0000 0x80 512).foldl (fun s v => voiceTrigger s c v) s

def spanPort (s : State) (n : Nat) : SpanPort := Sparse.get SpanPort.reset n s.span.ports
def setSpanPort (s : State) (n : Nat) (p : SpanPort) : State :=
  { s with span := { s.span with ports := Sparse.put SpanPort.reset n p s.span.ports } }

/-- The ports whose links belong to the tree (R419). -/
def spanTree (s : State) : List Nat :=
  (List.range s.variant.spanPorts).filter fun n => decide (fget s (Fd.sppStatState n) = 2)

/-- A frame goes out on port `n`: it takes the next seq, and is kept among the last 64 (R422, R424). -/
def spanFrameOut (s : State) (n : Nat) : State :=
  let p := spanPort s n
  let q := (p.txSeq + 1) % 256
  let r := p.replay ++ [q]
  setSpanPort s n { p with txSeq := q, replay := r.drop (r.length - 64) }

/-- A frame goes out on a list of ports; `sent` records it once. -/
def spanSend (s : State) (ports : List Nat) (f : SpanOut) : State :=
  let s := ports.foldl spanFrameOut s
  { s with span := { s.span with sent := s.span.sent ++ [f] } }

/-- A late application (R434, R435). -/
def spanLate (s : State) : State := fcount (fon s Fd.spStatLate) Fd.spLateCount 1

/-- The channels of a mask of C192-C255 carry their events on this member. -/
def carryMask (s : State) (m : Nat) : State :=
  ((List.range 64).filter (bit m)).foldl (fun s i => carry s (192 + i)) s

/-- A mask is held for apply time `t`; one that finds the store of 512 full applies at once, late (R434, R435). -/
def spanHold (s : State) (t m : Nat) : State :=
  match Sparse.find t s.span.held with
  | some old => { s with span := { s.span with held := Sparse.ins t (old ||| m) s.span.held } }
  | none =>
    if 512 ≤ s.span.held.length then carryMask (spanLate s) m
    else { s with span := { s.span with held := Sparse.ins t m s.span.held } }

/-- An event on a span channel of a joined chip is held for span time t + D, and its frame goes out on the tree
(R102, R433, R434). -/
def spanOriginate (s : State) (c : Nat) : State :=
  let t := ((tlOf s 32).pos + fget s Fd.spDNs) % 2 ^ 40
  let m := 2 ^ (c - 192)
  spanHold (spanSend s (spanTree s) { kind := 1, arg := t, value := m }) t m

/-- A fired channel: carried here, or sent to every member (R102). -/
def channelEvent (s : State) (c : Nat) : State :=
  if 192 ≤ c ∧ joined s then spanOriginate s c else carry s c

/-- PWM posts follow the landing units they name; in one cycle low wins (R287). -/
def pwmPost (s : State) (n : Nat) : State :=
  if fget s (Fd.postPcfgFunc n) ≠ 10 then s
  else
    let hi := fget s (Fd.postPwmHiUnit n)
    let lo := fget s (Fd.postPwmLoUnit n)
    let u := postOf s n
    if hi = lo then (if NSet.has hi s.landDue then setPost s n { u with pwm := !u.pwm } else s)
    else if NSet.has lo s.landDue then setPost s n { u with pwm := false }
    else if NSet.has hi s.landDue then setPost s n { u with pwm := true }
    else s

def settlePwm (s : State) : State :=
  match s.landDue with
  | [] => s
  | _ => { (touched s 0x100000 0x80 1024).foldl pwmPost s with landDue := [] }

/-- Deliveries of the events due, in rounds of one cycle each (R88), with the PWM posts that follow the landing units of
each cycle (R287); `rg.round` numbers the cycle. `fuel` rounds in one step, the rest stay due. -/
def deliver : Nat → State → State
  | 0, s => s
  | fuel + 1, s =>
    match s.ferryDue with
    | [] => s
    | cs =>
      let s := settlePwm (cs.foldl channelEvent { s with ferryDue := [] })
      deliver fuel { s with rg := { s.rg with round := s.rg.round + 1 } }

/-- The end of a step: PWM posts follow, events reach their consumers, FAULT_FIRST records. -/
def settle (s : State) : State :=
  let s := deliver 8 (settlePwm s)
  settleFaults { s with rg := { s.rg with round := 0 } }

/-! ### Owners (R97, R98, R290) -/

/-- A master qualifies as the owner that an OWN word names (R97). Kind 7 is reserved: it acts as one of the others. -/
def ownerAdmits (kind index : Nat) (m : Master) : Bool :=
  masterSecure m ||
  match kind with
  | 0 => true
  | 1 => match m with
    | .engine e _ => decide (e.val = index)
    | _ => false
  | 2 => match m with
    | .engine e _ => decide (e.val / 4 = index)
    | _ => false
  | 3 => match m with
    | .engine e _ => decide (e.val / 16 = index)
    | _ => false
  | 4 => match m with
    | .engine _ _ => true
    | _ => false
  | 5 => match m with
    | .host => true
    | .sideband => true
    | _ => false
  | _ => false

/-- The judgement of a write by owner and Secure attribute (R98, R290): accepted, refused for ownership, or refused on
the Secure attribute. -/
inductive OwnVerdict where
  | ok | foreign | secure
deriving DecidableEq, Repr

def ownJudge (s : State) (own : Nat) (kindF : FieldAt) (m : Master) (changesSecure : Bool) : OwnVerdict :=
  let kind := bits own 19 17
  let kind := if kind = 7 then openField s kindF 7 else kind
  if masterSecure m then .ok
  else if bit own 16 || changesSecure then .secure
  else if ownerAdmits kind (bits own 6 0) m then .ok
  else .foreign

/-- The judgement of a channel write (R98). -/
def chanJudge (s : State) (c : Nat) (m : Master) (changesSecure : Bool) : OwnVerdict :=
  ownJudge s (rget s (Adr.cOwn c)).toNat (Fd.cOwnKind c) m changesSecure

/-- A refused channel write: bit 5 of the chip bay, or bit 7 on the Secure attribute (R98). -/
def chanRefuse (s : State) (m : Master) (off : Nat) (v : OwnVerdict) : State :=
  match v with
  | .ok => s
  | .foreign => refuse s m off bayChip 5
  | .secure => refuse s m off bayChip 7

/-- Clears the flags of a mask of channels from `c0` up, each judged on its own (R106, R109). -/
def flagsClear (s : State) (m : Master) (off c0 n mask : Nat) : State :=
  (List.range n).foldl (fun s i =>
    if bit mask i && decide (c0 + i < 256) then
      match chanJudge s (c0 + i) m false with
      | .ok => if bit (hwSets s (Fd.cFlagFlag (c0 + i)).off) 0 then s else fset s (Fd.cFlagFlag (c0 + i)) 0
      | v => chanRefuse s m off v
    else s) s

/-- The flags of `n` channels from `c0` up (R106, R109). -/
def flagsRead (s : State) (c0 n : Nat) : Nat :=
  (List.range n).foldl (fun a i =>
    if decide (c0 + i < 256) && fbit s (Fd.cFlagFlag (c0 + i)) then a + 2 ^ i else a) 0

/-- A producer's channel field may name a Secure channel only by a Secure-level engine or the Tollhouse (R99). -/
def chanSecure (s : State) (c : Nat) : Bool := fbit s (Fd.cOwnSecure c)

end Sys2Proof.Machine
end

