-- ==== Sys2Proof/Machine/Memory.lean ====
section
/-! DEFINITION. Chip space, DRAM with its code, and the engine RAMs (13_memory_movers.md R307-R319, 05_engine_isa.md
R113-R121). -/

namespace Sys2Proof.Machine

/-! ### Chip space (R307) -/

/-- Where a chip byte address leads. Word offsets are those of the RAM. -/
inductive ChipLoc where
  | dram (a : Nat)
  | ctrl (off : Nat)
  | localRam (e w : Nat)
  | quadRam (q w : Nat)
  | absent
  | unmapped
deriving DecidableEq, Repr

def chipLoc (s : State) (a : Nat) : ChipLoc :=
  if a < s.mem.top then .dram a
  else if 0xF00000000000 ≤ a ∧ a < 0xF00004000000 then .ctrl (a - 0xF00000000000)
  else if 0xF00010000000 ≤ a ∧ a < 0xF00011000000 then
    let r := a - 0xF00010000000
    let e := r / 0x20000
    let w := r % 0x20000 / 4
    if w < 0x6000 then (if engPresent s e then .localRam e w else .absent) else .unmapped
  else if 0xF00020000000 ≤ a ∧ a < 0xF00021000000 then
    let r := a - 0xF00020000000
    let q := r / 0x80000
    let w := r % 0x80000 / 4
    if w < 0x18000 then (if quadPresent s q then .quadRam q w else .absent) else .unmapped
  else .unmapped

/-! ### DRAM granules (R310-R316) -/

/-- The channels that have trained, in order (R310). -/
def trainedChannels (s : State) : List Nat :=
  (List.range s.variant.channels).filter fun m => fbit s (Fd.mcStatTrained m)

/-- The channel that holds a byte: (a >> 8) mod n over the trained channels. -/
def channelOf (s : State) (a : Nat) : Nat :=
  let l := trainedChannels s
  l.getD (a / 256 % l.length) 0

/-- MC_EADDR takes the address of an error (R319). -/
def setEaddr (s : State) (m a : Nat) : State :=
  (List.range 3).foldl (fun s j => fset s (Fd.mcEaddrAddr m j) (a / 2 ^ (16 * j))) s

/-- A single-bit error found at granule `g`: corrected, counted, and due for its write-back (R314). -/
def dramCorrected (s : State) (g : Nat) : State :=
  let m := channelOf s (8 * g)
  let s := fon (fcount s (Fd.mcCeCount m) 1) (Fd.mcEstatCe m)
  let s := raise (setEaddr s m (8 * g)) bayChip 3
  { s with mem := { s.mem with writeBack := NSet.ins g s.mem.writeBack } }

/-- An uncorrectable error found at granule `g`: counted, and rewritten with the poison pattern (R315). -/
def dramPoisoned (s : State) (g : Nat) : State :=
  let m := channelOf s (8 * g)
  let s := fon (fcount s (Fd.mcUeCount m) 1) (Fd.mcEstatUe m)
  let s := raise (setEaddr s m (8 * g)) bayChip 4
  { s with mem := { s.mem with bad := NSet.del g s.mem.bad, poison := NSet.ins g s.mem.poison } }

/-- A read of one granule: whether its data is poison, and what the read leaves (R314, R315). -/
def dramReadGran (s : State) (g : Nat) : Bool × State :=
  if NSet.has g s.mem.poison then
    let m := channelOf s (8 * g)
    (true, fon (fcount s (Fd.mcPreadCount m) 1) (Fd.mcEstatPoisonRd m))
  else if NSet.has g s.mem.bad then (true, dramPoisoned s g)
  else if NSet.has g s.mem.single then (false, dramCorrected s g)
  else (false, s)

/-- The granules that hold the bytes from `a` for length `n`. -/
def granulesOf (a n : Nat) : List Nat :=
  if n = 0 then [] else (List.range ((a + n - 1) / 8 - a / 8 + 1)).map fun i => a / 8 + i

/-- The requester's number among those of R311. -/
def ageKey : Requester → Nat
  | .head h => h.val
  | .video h l => 8 + 4 * h.val + l.val
  | .barge n => 32 + n.val
  | .bayDma c => 48 + c.val
  | .planer => 112
  | .tally k => 113 + k.val
  | .scrub m => 145 + m.val
  | .voice v => 160 + v.val
  | .window e => 416 + e.val
  | .host => 544
  | .sideband => 545
  | .tollhouse => 546

/-- A request that begins or ends has not waited: it has no rise (R312). -/
def ageEnd (s : State) (r : Requester) : State :=
  { s with mem := { s.mem with aged := Sparse.put 0 (ageKey r) 0 s.mem.aged } }

/-- A read of DRAM: its bytes, whether any granule was poison, and the state after. -/
def dramRead (s : State) (a n : Nat) : List Byte × Bool × State :=
  let r := (granulesOf a n).foldl (fun (p : Bool × State) g =>
    let x := dramReadGran p.2 g
    (p.1 || x.1, x.2)) (false, s)
  (memBytes s a n, r.1, r.2)

/-- A write to a line that the pattern cache holds invalidates it (R200). -/
def cacheDrop (s : State) (line : Nat) : State :=
  if NSet.has line s.cache.lines then
    { s with cache := { lines := s.cache.lines.filter fun x => decide (x ≠ line)
                        bad := s.cache.bad.filter fun x => decide (x ≠ line)
                        sram := s.cache.sram.filter fun x => decide (x ≠ line) } }
  else s

/-- The granule holds good data from now on. -/
def dramClean (s : State) (g : Nat) : State :=
  { cacheDrop s (g / 32) with mem := { s.mem with
      poison := NSet.del g s.mem.poison, single := NSet.del g s.mem.single, bad := NSet.del g s.mem.bad,
      writeBack := NSet.del g s.mem.writeBack } }

/-- A write of bytes within one granule: whole, partial, or marked as poison (R313, R316). The flag tells whether it
was performed. -/
def dramWriteGran (s : State) (a : Nat) (bs : List Byte) (poison : Bool) : Bool × State :=
  let g := a / 8
  if poison then
    let s := setMemBytes (dramClean s g) a bs
    (true, { s with mem := { s.mem with poison := NSet.ins g s.mem.poison } })
  else if bs.length = 8 then (true, setMemBytes (dramClean s g) a bs)
  else
    let r := dramReadGran s g
    if r.1 then (false, fon r.2 (Fd.mcEstatRefused (channelOf s a)))
    else (true, setMemBytes (dramClean r.2 g) a bs)

/-- The bytes cut at granule boundaries: each piece with its address. -/
def granulePieces (a : Nat) (bs : List Byte) : List (Nat × List Byte) :=
  (granulesOf a bs.length).map fun g =>
    let lo := max a (8 * g)
    let hi := min (a + bs.length) (8 * g + 8)
    (lo, (bs.drop (lo - a)).take (hi - lo))

/-- A write of DRAM; the flag tells whether every granule was written. -/
def dramWrite (s : State) (a : Nat) (bs : List Byte) (poison : Bool) : Bool × State :=
  (granulePieces a bs).foldl (fun p x =>
    let r := dramWriteGran p.2 x.1 x.2 poison
    (p.1 && r.1, r.2)) (true, s)

/-! ### Engine RAM granules (R115-R121, R309) -/

/-- The key of granule `g` of an engine's local RAM, and of a quad's shared RAM. -/
def localKey (e g : Nat) : Nat := 8192 * e + g
def quadKey (q g : Nat) : Nat := 8192 * 128 + 32768 * q + g

/-- The bay whose FAULT_OWN a granule's errors set (R119). -/
def ramBay (k : Nat) : Nat := if k < 8192 * 128 then bayEng (k / 8192) else bayQuad ((k - 8192 * 128) / 32768)

def granWord (g : Granule) (slot : Nat) : Word :=
  if slot = 0 then g.w0 else if slot = 1 then g.w1 else g.w2

def granSet (g : Granule) (slot : Nat) (v : Word) : Granule :=
  if slot = 0 then { g with w0 := v } else if slot = 1 then { g with w1 := v } else { g with w2 := v }

/-- A read of a granule against its code (R119): whether it is uncorrectable, and what the read leaves. -/
def ramCheck (s : State) (k : Nat) : Bool × State :=
  match (granOf s k).mark with
  | .ok => (false, s)
  | .single => (false, { raise s (ramBay k) 3 with ramWb := NSet.ins k s.ramWb })
  | .bad => (true, raise s (ramBay k) 4)

/-- A performed write of a granule: fresh code, and a pending write-back is replaced (R119). -/
def ramStore (s : State) (k : Nat) (g : Granule) : State :=
  { setGran s k { g with mark := .ok } with ramWb := NSet.del k s.ramWb }

/-- A word read: the word, uncorrectable, the state after. -/
def ramReadWord (s : State) (k slot : Nat) : Word × Bool × State :=
  let r := ramCheck s k
  (granWord (granOf s k) slot, r.1, r.2)

/-- A word write, a read-modify-write inside the RAM: not performed on an uncorrectable granule (R116, R119). -/
def ramWriteWord (s : State) (k slot : Nat) (v : Word) : Bool × State :=
  let r := ramCheck s k
  if r.1 then (false, r.2) else (true, ramStore r.2 k (granSet (granOf s k) slot v))

/-- The guard of the local RAM of an engine that holds the Secure grant (R309). -/
def ramGuarded (s : State) (m : Master) (e : Nat) : Bool := granted s e && !masterSecure m

/-- An outside read of a container (R309): the word, the reply, the state after. -/
def ramOutRead (s : State) (m : Master) : ChipLoc → Nat × Reply × State
  | .localRam e w =>
    if ramGuarded s m e then (0, .error, raise s (bayEng e) 7)
    else
      let r := ramReadWord s (localKey e (w / 3)) (w % 3)
      (r.1.toNat, if r.2.1 then .poison else .ok, r.2.2)
  | .quadRam q w =>
    let r := ramReadWord s (quadKey q (w / 3)) (w % 3)
    (r.1.toNat, if r.2.1 then .poison else .ok, r.2.2)
  | _ => (0, .ok, s)

/-- An outside write of a container (R309). -/
def ramOutWrite (s : State) (m : Master) (v : Nat) : ChipLoc → Reply × State
  | .localRam e w =>
    if ramGuarded s m e then (.error, raise s (bayEng e) 7)
    else
      let r := ramWriteWord s (localKey e (w / 3)) (w % 3) (BitVec.ofNat 20 v)
      (if r.1 then .ok else .error, r.2)
  | .quadRam q w =>
    let r := ramWriteWord s (quadKey q (w / 3)) (w % 3) (BitVec.ofNat 20 v)
    (if r.1 then .ok else .error, r.2)
  | _ => (.ok, s)

/-- An access to an unmapped chip address: FAULT_OWN bit 5 of the chip bay (R308). -/
def chipUnmapped (s : State) : State := raise s bayChip 5

/-! ### The word address space (R113) -/

/-- Where a word address leads: a RAM granule and slot, a window and its word offset, a device register, or nothing. -/
inductive EngLoc where
  | ram (k slot : Nat)
  | window (k o : Nat)
  | device (a : Nat)
  | unmapped
deriving DecidableEq, Repr

def engLoc (e : Nat) (a : Word) : EngLoc :=
  let a := a.toNat
  if a < 0x6000 then .ram (localKey e (a / 3)) (a % 3)
  else if 0x20000 ≤ a ∧ a < 0x38000 then .ram (quadKey (e / 4) ((a - 0x20000) / 3)) ((a - 0x20000) % 3)
  else if 0x40000 ≤ a ∧ a < 0x80000 then .window ((a - 0x40000) / 0x10000) (a % 0x10000)
  else if 0x80000 ≤ a ∧ a < 0xC0000 then .device a
  else .unmapped

/-! ### The fetch buffer (R142) -/

/-- The granules that the buffer holds for a PC: its own and the next in address order. -/
def fetchKeys (e : Nat) (pc : Word) : List Nat :=
  match engLoc e pc with
  | .ram k _ =>
    match engLoc e (pc + 3) with
    | .ram k' _ => [k, k']
    | _ => [k]
  | _ => []

/-- A granule as a fetch sees it: the buffer's copy, else the RAM. -/
def fetchGran (s : State) (e k : Nat) : Granule := (Sparse.find k (engOf s e).fbuf).getD (granOf s k)

/-- A copy that an instruction was fetched from has been corrected. -/
def corrected (used : List Nat) (k : Nat) (g : Granule) : Granule :=
  if g.mark = .single ∧ k ∈ used then { g with mark := .ok } else g

/-- The buffer of an engine at its PC: what it held already stays as it was, the rest comes from the RAM; `used` are the
granules of the instruction before. -/
def fetchFill (s : State) (e : Nat) (used : List Nat) (u : Eng) : Eng :=
  { u with fbuf := (fetchKeys e u.pc).map fun k =>
      (k, match Sparse.find k u.fbuf with
        | some g => corrected used k g
        | none => granOf s k) }

/-- An engine that goes on elsewhere: the buffer is empty, and fills at the new PC. -/
def fetchFresh (s : State) (e : Nat) (u : Eng) : Eng := fetchFill s e [] { u with fbuf := [] }

/-! ### Training (R310) -/

/-- Every channel of the variant has trained or failed. -/
def trainingOver (s : State) : Bool :=
  (List.range s.variant.channels).all fun m => fbit s (Fd.mcStatTrained m) || fbit s (Fd.mcStatFail m)

/-- MEM_TOP = 7/8 · n · c with c the smallest installed capacity among the trained channels (R310). -/
def memTop (s : State) : Nat :=
  let l := trainedChannels s
  match l with
  | [] => 0
  | _ =>
    let c := l.foldl (fun a m => min a (fget s (Fd.mcStatCap m))) 256
    7 * (l.length * (c * 2 ^ 28)) / 8

/-- A channel ends its training: the capacity it found, or fail; with the last one MEM_TOP stands. -/
def trainChannel (s : State) (m : Nat) (ok : Bool) (cap : Nat) : State :=
  let s := if ok then fset (fon s (Fd.mcStatTrained m)) (Fd.mcStatCap m) cap else fon s (Fd.mcStatFail m)
  if trainingOver s then
    let l := trainedChannels s
    let c := l.foldl (fun a m => min a (fget s (Fd.mcStatCap m))) 256
    let s := l.foldl (fun s m => if c < fget s (Fd.mcStatCap m) then fon s (Fd.mcStatExcess m) else s) s
    { s with mem := { s.mem with top := memTop s } }
  else s

/-- The corrected granule is written back (R119, R314). -/
def ramWriteBack (s : State) (k : Nat) : State :=
  if NSet.has k s.ramWb then
    { setGran s k { granOf s k with mark := .ok } with ramWb := NSet.del k s.ramWb }
  else s

def dramWriteBack (s : State) (g : Nat) : State :=
  if NSet.has g s.mem.writeBack then
    { s with mem := { s.mem with writeBack := NSet.del g s.mem.writeBack, single := NSet.del g s.mem.single } }
  else s

/-- The lines of 256 bytes that a channel's patrol walks: its whole capacity (R314). -/
def scrubLines (s : State) (m : Nat) : Nat := fget s (Fd.mcStatCap m) * 2 ^ 20

/-- The lines of a channel that chip space reaches: the patrol walks them first, then those of check bits and of excess
capacity, in which the model holds no error (DEDUCED, log entry 62). -/
def dataLines (s : State) : Nat :=
  let n := (trainedChannels s).length
  if n = 0 then 0 else s.mem.top / 256 / n

/-- The place of a channel among the trained channels. -/
def trainedIndex (s : State) (m : Nat) : Nat := ((trainedChannels s).filter fun x => decide (x < m)).length

/-- One line of the patrol scrub, granule by granule: an error is corrected or poisoned, and a poisoned granule is read as
any other read does (R314, R315). -/
def scrubLine (s : State) (m : Nat) : State :=
  let n := (trainedChannels s).length
  let i := Sparse.get 0 m s.mem.scrubAt
  let line := 32 * (i * n + trainedIndex s m)
  let next := if scrubLines s m ≤ i + 1 then 0 else i + 1
  let s := if i < dataLines s then (List.range 32).foldl (fun s j => (dramReadGran s (line + j)).2) s else s
  { s with mem := { s.mem with scrubAt := Sparse.put 0 m next s.mem.scrubAt } }

end Sys2Proof.Machine
end

