-- ==== Sys2Proof/Machine/Tally.lean ====
section
/-! DEFINITION. Tally units (12_tally.md): frames, check values, the alive guard, and the result ring. -/

namespace Sys2Proof.Machine

/-! ### The check value (R301) -/

structure CrcParams where
  w : Nat
  poly : Nat
  init : Nat
  refin : Bool
  refout : Bool
  xorout : Nat
deriving DecidableEq, Repr

/-- The four fixed parameter sets. -/
def crcCode : Nat → CrcParams
  | 0 => { w := 8, poly := 0x07, init := 0, refin := false, refout := false, xorout := 0 }
  | 1 => { w := 16, poly := 0x1021, init := 0xFFFF, refin := false, refout := false, xorout := 0 }
  | 2 => { w := 32, poly := 0x04C11DB7, init := 0xFFFFFFFF, refin := true, refout := true, xorout := 0xFFFFFFFF }
  | _ => { w := 32, poly := 0x1EDC6F41, init := 0xFFFFFFFF, refin := true, refout := true, xorout := 0xFFFFFFFF }

/-- One bit through the register. -/
def crcBit (p : CrcParams) (crc : Nat) (b : Bool) : Nat :=
  let top := bit crc (p.w - 1) != b
  let x := crc * 2 % 2 ^ p.w
  if top then x ^^^ p.poly else x

def crcByte (p : CrcParams) (crc : Nat) (b : Byte) : Nat :=
  (List.range 8).foldl (fun c i => crcBit p c (bit b.toNat (if p.refin then i else 7 - i))) crc

/-- The `w` bits of a value in reverse order. -/
def reflectBits (w v : Nat) : Nat :=
  (List.range w).foldl (fun a i => if bit v i then a + 2 ^ (w - 1 - i) else a) 0

def crcOf (p : CrcParams) (bs : List Byte) : Nat :=
  let c := bs.foldl (crcByte p) p.init
  (if p.refout then reflectBits p.w c else c) ^^^ p.xorout

/-- The parameters a unit uses; a width of 0 or above 64 acts as 64, and bits above w are ignored. -/
def tallyParams (s : State) (k : Nat) : CrcParams :=
  if tallyFull s.variant k && fbit s (Fd.kCfgCustom k) then
    let w0 := fget s (Fd.kCfgWidth k)
    let w := if w0 = 0 ∨ 64 < w0 then 64 else w0
    { w := w, poly := split16 s (Adr.kPoly k) 4 % 2 ^ w, init := split16 s (Adr.kInit k) 4 % 2 ^ w,
      refin := fbit s (Fd.kCfgRefin k), refout := fbit s (Fd.kCfgRefout k),
      xorout := split16 s (Adr.kXor k) 4 % 2 ^ w }
  else crcCode (fget s (Fd.kCfgCode k))

/-! ### Checking a frame (R302, R303) -/

/-- The last bytes of the frame as the check field. -/
def checkField (be : Bool) (bs : List Byte) : Nat := leNat (if be then bs.reverse else bs)

/-- CFG.cmp; 3 is reserved and acts as one of the three. -/
def tallyCmp (s : State) (k : Nat) : Nat :=
  let c := fget s (Fd.kCfgCmp k)
  if c = 3 then openField s (Fd.kCfgCmp k) 3 else c

/-- The result of a frame, and whether it is a mismatch and short; `cut` tells that R299 cut it short. -/
def tallyCheck (s : State) (k : Nat) (bs : List Byte) (cut : Bool) : Nat × Bool × Bool :=
  let p := tallyParams s k
  let c := (p.w + 7) / 8
  match tallyCmp s k with
  | 1 =>
    let body := bs.take (bs.length - c)
    let short := cut || decide (bs.length < c)
    let r := crcOf p body
    (r, short || decide (r ≠ checkField (fbit s (Fd.kCfgCbe k)) (bs.drop (bs.length - c)) % 2 ^ p.w), short)
  | 2 =>
    let r := crcOf p bs
    (r, cut || decide (r ≠ split16 s (Adr.kExpect k) 4 % 2 ^ p.w), cut)
  | _ => (crcOf p bs, cut, cut)

/-- The counter's value at a bit position of the frame. -/
def frameBits (bs : List Byte) (pos w : Nat) : Nat := leNat bs / 2 ^ pos % 2 ^ w

/-- The alive test: the new reference, repeat, jump. -/
def tallyAlive (s : State) (k : Nat) (bs : List Byte) (mismatch : Bool) : Option Nat × Bool × Bool :=
  let ref := (tallyOf s k).ref
  let w := fget s (Fd.kAliveWM1 k) + 1
  let pos := fget s (Fd.kAlivePos k)
  if !fbit s (Fd.kAliveEn k) || mismatch || decide (8 * bs.length < pos + w) then (ref, false, false)
  else
    let v := frameBits bs pos w
    match ref with
    | none => (some v, false, false)
    | some r =>
      if v = r then (ref, true, false)
      else if v = (r + fget s (Fd.kAliveStepS k)) % 2 ^ w then (some v, false, false)
      else (some v, false, true)

/-- SRC.kind; 7 to 15 are reserved and act as one of 0 to 6 (R480 case 1). -/
def tallyKind (s : State) (k : Nat) : Nat :=
  let v := fget s (Fd.kSrcKind k)
  if 7 ≤ v then openField s (Fd.kSrcKind k) 7 else v

/-! ### Results (R302, R304) -/

def tallyRlen (s : State) (k : Nat) : Nat :=
  let n := fget s (Fd.kRlenN k)
  if n = 0 then 65536 else n

/-- The 16-byte record of a frame. -/
def tallyRecord (result frames line flags : Nat) : List Byte :=
  leBytes 8 result ++ leBytes 4 frames ++ leBytes 2 line ++ leBytes 1 flags ++ [0]

/-- RRD as it stood before any write of this cycle (R304); a write notes the value before it in `State.sets`. -/
def rrdBefore (s : State) (k : Nat) : Nat :=
  match Sparse.find (Adr.kRrd k) s.sets with
  | some p => p.1 % 2 ^ 16
  | none => fget s (Fd.kRrdRd k)

/-- The place `i` records after RWR, modulo RLEN; RWR itself as it stands, although a lower RLEN was written since. -/
def ringAt (s : State) (k i : Nat) : Nat :=
  let w := fget s (Fd.kRwrWr k)
  if i = 0 then w else (w + i) % tallyRlen s k

/-- A record goes to the ring, or is dropped while the ring is full. Records whose write response is due hold the
places after RWR (DEDUCED, log entry 21). -/
def tallyRing (s : State) (k result flags : Nat) : State :=
  if !fbit s (Fd.kCfgRing k) then s
  else
    let u := tallyOf s k
    let at' := ringAt s k u.ring.length
    if (at' + 1) % tallyRlen s k = rrdBefore s k then
      let s := setTally s k { u with afterDrop := true }
      raise (fcount (fon s (Fd.kStatRingFull k)) (Fd.kDroppedCount k) 1) bayChip 6
    else
      let a := split16 s (Adr.kRbase k) 3 / 16 * 16 + 16 * at'
      let line := if tallyKind s k = 4 then u.line else 0
      let rec' := tallyRecord result (fget s (Fd.kFramesCount k)) line (flags + if u.afterDrop then 16 else 0)
      setTally s k { u with afterDrop := false, ring := u.ring ++ [(a, rec')] }

/-- A frame closes (R302): RESULT and FRAMES, the check, the alive test, the events, the record. -/
def tallyClose (s : State) (k : Nat) (cut : Bool) : State :=
  let u := tallyOf s k
  let c := tallyCheck s k u.bytes cut
  let al := tallyAlive s k u.bytes c.2.1
  let s := setTally s k { u with inFrame := false, bytes := [], ref := al.1, records := u.records + 1 }
  let s := (List.range 4).foldl (fun s j => fset s (Fd.kResultR k j) (c.1 / 2 ^ (16 * j))) s
  let s := fcount s (Fd.kFramesCount k) 1
  let s := if c.2.2 then fon s (Fd.kStatShort k) else s
  let s := if c.2.1 then
      fireIf (fcount (fon s (Fd.kStatMismatch k)) (Fd.kMismatchesCount k) 1) (fbit s (Fd.kEvtMisEn k))
        (fget s (Fd.kEvtMisChan k))
    else s
  let s := if al.2.1 then fon s (Fd.kStatRepeat k) else s
  let s := if al.2.2 then fon s (Fd.kStatJump k) else s
  let s := if al.2.1 || al.2.2 then fireIf s (fbit s (Fd.kEvtAlvEn k)) (fget s (Fd.kEvtAlvChan k)) else s
  tallyRing s k c.1 (boolNat c.2.1 + 2 * boolNat c.2.2 + 4 * boolNat al.2.1 + 8 * boolNat al.2.2)

/-! ### Sources (R298-R300) -/

/-- The present units that run on a source. -/
def tallyWatchers (s : State) (kind index dir : Nat) : List Nat :=
  (touched s 0xF0000 0x100 32).filter fun k =>
    s.variant.tallies k && fbit s (Fd.kCfgEn k) && decide (tallyKind s k = kind) &&
    (decide (fget s (Fd.kSrcIndex k) = index) || (decide (kind = 6) && decide (fget s (Fd.kSrcIndex k) = 255))) &&
    (decide (kind ≠ 3 ∧ kind ≠ 5) || decide (fget s (Fd.kSrcDir k) = dir))

/-- A transfer, line or memory frame of a source begins. -/
def tallyBegin (s : State) (kind index dir line : Nat) : State :=
  (tallyWatchers s kind index dir).foldl
    (fun s k => setTally s k { tallyOf s k with synced := true, inFrame := true, bytes := [], line := line }) s

def tallyPush (s : State) (kind index dir : Nat) (bs : List Byte) : State :=
  (tallyWatchers s kind index dir).foldl (fun s k =>
    let u := tallyOf s k
    if u.inFrame then setTally s k { u with bytes := u.bytes ++ bs } else s) s

def tallyEnd (s : State) (kind index dir : Nat) : State :=
  (tallyWatchers s kind index dir).foldl (fun s k => if (tallyOf s k).inFrame then tallyClose s k false else s) s

/-- A transfer, line or memory frame whole. -/
def tallyFrame (s : State) (kind index dir line : Nat) (bs : List Byte) : State :=
  tallyEnd (tallyPush (tallyBegin s kind index dir line) kind index dir bs) kind index dir

/-- FRAME.fmode; 3 is reserved and acts as one of the three. -/
def tallyFmode (s : State) (k : Nat) : Nat :=
  let m := fget s (Fd.kFrameFmode k)
  if m = 3 then openField s (Fd.kFrameFmode k) 3 else m

/-- One serial byte at one unit (R299). -/
def tallySerialUnit (s : State) (b : Byte) (k : Nat) : State :=
  let u := tallyOf s k
  let mode := tallyFmode s k
  if mode = 1 ∧ !u.synced then s
  else
    let bs := u.bytes ++ [b]
    let s := setTally s k { u with inFrame := true, synced := true, bytes := bs }
    if mode = 1 then s
    else if mode = 0 then
      let n := fget s (Fd.kFrameN k)
      if bs.length = (if n = 0 then 65536 else n) then tallyClose s k false else s
    else
      let lpos := fget s (Fd.kLfieldLpos k)
      match bs[lpos]? with
      | none => s
      | some lb =>
        let n := lb.toNat + fget s (Fd.kLfieldLadd k)
        if n < lpos + 1 then tallyClose s k true
        else if bs.length = n then tallyClose s k false
        else s

/-- A byte sent (dir 0) or received (dir 1) by serial unit `p` (R288, R298). -/
def tallySerial (s : State) (p dir : Nat) (b : Byte) : State :=
  (tallyWatchers s 3 p dir).foldl (fun s k => tallySerialUnit s b k) s

/-- A gap on the source of a unit in gap mode ends its frame (R299), and lets it start (R300). -/
def tallyGap (s : State) (k : Nat) : State :=
  if s.variant.tallies k && fbit s (Fd.kCfgEn k) && decide (tallyKind s k = 3) && decide (tallyFmode s k = 1) then
    let u := tallyOf s k
    if u.inFrame then tallyClose s k false else setTally s k { u with synced := true }
  else s

/-- A window store of engine `e` at chip address `a` (kind 6, R298). -/
def tallyStore (s : State) (e a : Nat) (bs : List Byte) : State :=
  (tallyWatchers s 6 e 0).foldl (fun s k =>
    let lo := split16 s (Adr.kWlo k) 3 / 4 * 4
    let hi := split16 s (Adr.kWhi k) 3 / 4 * 4
    if lo ≤ a ∧ a ≤ hi then
      let u := tallyOf s k
      let s := setTally s k { u with inFrame := true, synced := true, bytes := u.bytes ++ bs }
      if a / 4 * 4 = hi then tallyClose s k false else s
    else s) s

/-- The write response of the oldest ring record (R304). -/
def tallyRingDone (s : State) (k : Nat) (ok : Bool) : State :=
  let u := tallyOf s k
  match u.ring with
  | [] => s
  | x :: t =>
    let s := setTally s k { u with ring := t }
    let s := fset s (Fd.kRwrWr k) ((fget s (Fd.kRwrWr k) + 1) % tallyRlen s k)
    let r := if ok && decide (x.1 + 16 ≤ s.mem.top) then dramWrite s x.1 x.2 false else (false, s)
    if r.1 then r.2 else raise (fon r.2 (Fd.kStatRingErr k)) bayChip 5

/-- A RESULT0 read: RESULT1-3 and SEQ are latched for the requester (R305). -/
def result0Read (s : State) (m : Master) (k : Nat) : Nat × State :=
  let l := (List.range 4).map fun j => fget s (Fd.kResultR k j)
  let kept := l.drop 1 ++ [(tallyOf s k).records % 2 ^ 20]
  (l.getD 0 0, { s with readLatch := Sparse.put [] (64 * requesterOf m + k) kept s.readLatch })

/-- CFG.en goes to 1, or to 0 (R300, R303). -/
def tallyEnable (s : State) (k : Nat) (en : Bool) : State :=
  let u := tallyOf s k
  setTally s k { u with synced := false, inFrame := false, bytes := [], ref := if en then u.ref else none }

end Sys2Proof.Machine
end

