-- ==== Sys2Proof/Machine/Posts.lean ====
section
/-! DEFINITION. Posts (11_posts.md): what drives a pad and what it reads, switches, ownership and pegging, serial
units, and pin interrupt lines. -/

namespace Sys2Proof.Machine

/-! ### Drivers and levels (R279-R285) -/

def postAsleep (s : State) (n : Nat) : Bool :=
  !fbit s (Fd.postPcfgAwake n) || fbit s (Fd.prtBankStatAlarmSleep (postPort n))

/-- A driven level under open-drain: a 1 releases the pad (R282). -/
def odDrive (od b : Bool) : PadDrv := if od && b then .none else .level b

/-- A driver under the post's od option. -/
def odOf (od : Bool) : PadDrv → PadDrv
  | .level b => odDrive od b
  | d => d

/-- The drivers of the serial unit's posts (R281, R288): idle levels, or a signal during activity. -/
def serDrive (s : State) (p i f : Nat) : PadDrv :=
  let u := serOf s p
  let mode := fget s (Fd.prtSerCfgMode p)
  let busy := !u.tx.isEmpty
  match f, i with
  | 2, 0 => if mode ≠ 1 then .none else if busy then .signal else .level true
  | 2, 2 => if mode ≠ 1 then .none else .level (decide (12 < u.rx.length))
  | 3, 0 => if mode ≠ 2 then .none else if busy then .signal else .level (fbit s (Fd.prtSerCfgCpol p))
  | 3, 1 => if mode ≠ 2 then .none else .signal
  | 3, 3 => if mode ≠ 2 then .none else .level (!(busy || u.inTransfer))
  | 4, 0 => if mode ≠ 3 then .none else if busy then .signal else .none
  | 4, 1 => if mode ≠ 3 then .none else if busy then .signal else .none
  | _, _ => .none

/-- The level that a stopped audio clock post rest at: the spec gives none (DESIGN CHOICE, log entry 2). -/
def clockRest (n : Nat) : PadDrv := .level (bit (Config.openOf 7 n).toNat 0)

/-- The signals of an audio port: bit clock, frame sync, data, master clock (R248, R267, R281). -/
def portDrive (s : State) (n p i : Nat) : PadDrv :=
  let run := fbit s Fd.audCfgRun && fbit s (Fd.portRunRun p)
  if 16 ≤ p then .none
  else match i with
    | 24 => if run then .signal else clockRest n
    | 25 => if run then .signal else clockRest n
    | 26 => if fbit s (Fd.portCfgDir p) then .none else if run then .signal else .level false
    | 27 => if !fbit s (Fd.portCfgMclk p) then .level false else if run then .signal else clockRest n
    | _ => .none

/-- HCTRL.out of H5; 2 and 3 are reserved and act as one of the two. -/
def headOut (s : State) (h : Nat) : Nat :=
  if h ≠ 5 then 0
  else
    let v := fget s (Fd.headHctrlOut h)
    if 2 ≤ v then openField s (Fd.headHctrlOut h) 2 else v

/-- The signals of H5's command-mode bus: idle, CSX and WRX are high, and nothing says what D and DCX hold (R228, R242). -/
def headBusDrive (s : State) (i : Nat) : PadDrv :=
  let slot := (headOf s 5).slot
  if headOut s 5 ≠ 1 then .none
  else match i with
  | 18 => .level (slot.all fun w => w.csx)
  | 19 => (slot.map fun w => PadDrv.level w.dcx).getD .signal
  | 20 => .level (!slot.any fun w => w.write && decide (s.clock < w.at' + fget s (Fd.headParCfgTwLo 5)))
  | 21 => .level true
  | _ =>
    if 16 ≤ i ∧ !fbit s (Fd.headParCfgBus18 5) then .none
    else (slot.map fun w => PadDrv.level (bit w.data i)).getD .signal

/-- What the function of an awake post drives, before od (R281). -/
def funcSignal (s : State) (n : Nat) : PadDrv :=
  let p := postPort n
  let i := n % 32
  match postFunc s n with
  | 0 => if fbit s (Fd.postGpioOe n) then .level (fbit s (Fd.postGpioOut n)) else .none
  | 1 => match (eqOf s n).level with
    | .low => .level false
    | .high => .level true
    | .z => .none
  | 2 => serDrive s p i 2
  | 3 => serDrive s p i 3
  | 4 => serDrive s p i 4
  | 5 => portDrive s n p i
  | 6 => if p < 8 ∧ i = 28 then (if fbit s Fd.audCfgRun then .signal else clockRest n) else .none
  | 7 => if i = 30 then (if fbit s Fd.audCfgRun && fbit s Fd.spdRunRun then .signal else .level false) else .none
  | 10 => .level (postOf s n).pwm
  | 11 => if p = 14 ∧ i < 22 then headBusDrive s i else .none
  | 14 => if p = 15 ∧ 28 ≤ i then .signal else .none
  | _ => .none

/-- What the function of an awake post drives: I2C ignores od (R282). -/
def funcDrive (s : State) (n : Nat) : PadDrv :=
  if postFunc s n = 4 then funcSignal s n else odOf (fbit s (Fd.postPcfgOd n)) (funcSignal s n)

/-- The driver that applies outside a switch: the function, or the hold sleep state (R284). -/
def padTarget (s : State) (n : Nat) : PadDrv :=
  if postAsleep s n then
    match fget s (Fd.postPcfgSleep n), (postOf s n).hold with
    | 0, some b => odDrive (fbit s (Fd.postPcfgOd n)) b
    | _, _ => .none
  else funcDrive s n

/-- The switch under way: the old driver in its cycle, the keeper in the next two (R285). -/
def padSwitching (s : State) (n : Nat) : Option PadSwitch :=
  match (postOf s n).sw with
  | some w => if s.clock < w.at' + 3 then some w else none
  | none => none

/-- What drives the pad now. -/
def padDrv (s : State) (n : Nat) : PadDrv :=
  if !bankLive s (postPort n) then .none
  else match padSwitching s n with
    | some w => if s.clock = w.at' then w.drv else
      match w.keep with
      | some b => .level b
      | none => .none
    | none => padTarget s n

/-- The keeper drives: cycles c + 1 and c + 2 of a switch whose old driver was driving. -/
def padKeeper (s : State) (n : Nat) : Bool :=
  bankLive s (postPort n) &&
  match padSwitching s n with
  | some w => decide (w.at' < s.clock) && w.keep.isSome
  | none => false

/-- PCFG.pull (R282). -/
def pullOption (s : State) (n : Nat) : Option Bool :=
  let v := fget s (Fd.postPcfgPull n)
  match (if v = 3 then openField s (Fd.postPcfgPull n) 3 else v) with
  | 1 => some false
  | 2 => some true
  | _ => none

/-- The pull outside a switch: PCFG.pull of an awake post, or the pull of its sleep state. -/
def pullTarget (s : State) (n : Nat) : Option Bool :=
  if postAsleep s n then
    match fget s (Fd.postPcfgSleep n) with
    | 2 => some true
    | 3 => some false
    | _ => none
  else pullOption s n

/-- The pull now: that of the old state in a switch's cycle; with the keeper, PCFG.pull where the post is awake before and
after (R282, R284, R285). -/
def padPull (s : State) (n : Nat) : Option Bool :=
  match padSwitching s n with
  | some w => if s.clock = w.at' then w.pull else if w.awake then pullOption s n else none
  | none => pullTarget s n

/-- The level at the pad in this cycle, 0 while the bank is dead (R283). None is open: an undriven pad without a pull,
opposed drives, and a running signal (log entries 2, 15). -/
def padNow (s : State) (n : Nat) : Option Bool :=
  if !bankLive s (postPort n) then some false
  else
    let ext := (postOf s n).ext
    match padDrv s n with
    | .level b => if ext = some (!b) then none else some b
    | .signal => none
    | .none => match ext with
      | some b => some b
      | none => padPull s n

/-- The level behind the synchronisers, which a read reports: the pad's level three cycles before (R283). An open level is
bit `n mod 64` of the next free value. -/
def padSync (s : State) (n : Nat) : Bool :=
  if !bankLive s (postPort n) then false
  else ((postOf s n).past.getD 2 none).getD (bit (draw s).toNat (n % 64))

/-- The level at the ball: each step reaches it 6 ns after its cycle ends (R82, R285-R287). -/
def ballLevel (s : State) (n : Nat) : Option Bool := (postOf s n).past.getD 6 none

/-- A cycle ends: the posts off their reset state keep its pad level. -/
def padsSample (s : State) : State :=
  ((touched s 0x100000 0x80 1024).foldl (fun l n => NSet.ins n l) (s.posts.map Prod.fst)).foldl
    (fun t n => setPost t n { postOf t n with past := (padNow s n :: (postOf t n).past).take 7 }) s

/-- An edge at a pad that the post does not drive: the board holds its level from then on, unless the post's own pull
explains it (DESIGN CHOICE, log entry 15). -/
def boardLevel (s : State) (n : Nat) (level : Bool) : State :=
  if n < s.variant.posts ∧ padDrv s n = .none then
    setPost s n { postOf s n with ext := if padPull s n = some level then none else some level }
  else s

/-- The level that a driver drives in this cycle; one of a running signal is open, and drawn once. -/
def drivenLevel (s : State) (n : Nat) : PadDrv → Option Bool
  | .none => none
  | .level b => some ((padNow s n).getD b)
  | .signal => some (bit (draw s).toNat (n % 64))

/-- A change of func, awake or alarm_sleep from `old`, the state before it: the switch begins, or joins the one under
way; a post that goes to sleep keeps the level its old driver drove (R284, R285). -/
def padSwitch (old s : State) (n : Nat) : State :=
  let u := postOf s n
  let awake := !postAsleep old n && !postAsleep s n
  let w : PadSwitch := match padSwitching old n with
    | some w => { w with awake := w.awake && awake }
    | none => { at' := s.clock, drv := padDrv old n, pull := padPull old n, keep := drivenLevel old n (padDrv old n), awake := awake }
  drew (setPost s n
    { u with
      sw := some w
      seeAt := if postFunc s n ≠ postFunc old n then w.at' + 3 else u.seeAt
      hold := if postAsleep s n && !postAsleep old n then w.keep else u.hold })

/-- A PCFG write accepted by R290 and R292. -/
def pcfgWrite (s : State) (n v : Nat) : State :=
  let t := rput s (Adr.postPcfg n) (BitVec.ofNat 32 (v % 2 ^ 20 / 64 * 64))
  if postFunc t n ≠ postFunc s n ∨ fbit t (Fd.postPcfgAwake n) ≠ fbit s (Fd.postPcfgAwake n) then padSwitch s t n
  else t

/-- alarm_sleep of every present bank rises or falls: a switch of every post, also of one asleep already (R284, R285,
R409, R413). A post in its reset state has no driver and no pull before, in and after it. -/
def setAlarmSleep (s : State) (b : Bool) : State :=
  let t := (List.range s.variant.ports).foldl (fun s p => fset s (Fd.prtBankStatAlarmSleep p) (boolNat b)) s
  ((touched s 0x100000 0x80 1024).filter fun n => decide (n < s.variant.posts) &&
    decide (fbit s (Fd.prtBankStatAlarmSleep (postPort n)) ≠ b)).foldl (fun t n => padSwitch { s with freeCtr := t.freeCtr } t n) t

/-! ### Banks (R279) -/

/-- The supply of a bank against vsel. -/
def bankJudge (s : State) (p : Nat) : State :=
  let bad := fbit s (Fd.prtBankStatPresent p) && decide (fget s (Fd.prtBankStatV33 p) ≠ fget s (Fd.prtBankCfgVsel p))
  let s' := fset s (Fd.prtBankStatMismatch p) (boolNat bad)
  if bad && !fbit s (Fd.prtBankStatMismatch p) then raise s' (bayHall (p / 4)) 5 else s'

def bankSupply (s : State) (p : Nat) (present v33 : Bool) : State :=
  bankJudge (fset (fset s (Fd.prtBankStatPresent p) (boolNat present)) (Fd.prtBankStatV33 p)
    (boolNat (present && v33))) p

/-- A bank is stopped while every present post of its port is asleep (R279, R360). -/
def bankStopped (s : State) (p : Nat) : Bool := (List.range 32).all fun i => postAsleep s (32 * p + i)

/-! ### Ownership and pegging (R290-R292) -/

def postJudge (s : State) (n : Nat) (m : Master) (changesSecure : Bool) : OwnVerdict :=
  ownJudge s (rget s (Adr.postOwn n)).toNat (Fd.postOwnKind n) m changesSecure

/-- A write refused by ownership: REFUSED of the port, PSTAT.foreign, FAULT_OWN bit 5 or 7 of the hall. -/
def postForeign (s : State) (n : Nat) (v : OwnVerdict) : State :=
  let s := fon (fcount s (Fd.prtRefusedCount (postPort n)) 1) (Fd.postPstatForeign n)
  raise s (postHall n) (if v = .secure then 7 else 5)

/-- A write refused by pegging. -/
def postPegRefuse (s : State) (n : Nat) : State :=
  raise (fon (fcount s (Fd.prtRefusedCount (postPort n)) 1) (Fd.postPstatRefused n)) (postHall n) 5

def postPegged (s : State) (n : Nat) : Bool := fbit s (Fd.postPstatPegged n)

/-- The judgement of a write to a post: none where it is accepted, else the state the refusal leaves. `frozen` tells
that pegging keeps the register now (R292). -/
def postGuard (s : State) (n : Nat) (m : Master) (frozen changesSecure : Bool) : Option State :=
  match postJudge s n m changesSecure with
  | .ok => if frozen then some (postPegRefuse s n) else none
  | v => some (postForeign s n v)

/-- The pegging sequence (R291). -/
def pegWrite (s : State) (n : Nat) (m : Master) (v : Nat) : State :=
  let u := postOf s n
  let stage := fget s (Fd.postPstatStage n)
  let same := decide (u.pegBy = requesterOf m)
  if stage = 0 then
    if v % 2 ^ 20 = 0x0A11C then setPost (fset s (Fd.postPstatStage n) 1) n { u with pegBy := requesterOf m } else s
  else if stage = 1 ∧ same ∧ v % 2 ^ 20 = 0x05EE3 then fset s (Fd.postPstatStage n) 2
  else if stage = 2 ∧ same ∧ v % 2 ^ 20 = 0x00F0D then fon (fset s (Fd.postPstatStage n) 0) (Fd.postPstatPegged n)
  else fset s (Fd.postPstatStage n) 0

/-- A per-port write: a write to each post whose bit is 1, judged on its own (R286, R290). -/
def portWrite (s : State) (p : Nat) (m : Master) (mask : Nat) (f : Nat → FieldAt) (v : Nat) : State :=
  (List.range 32).foldl (fun s i =>
    if bit mask i then
      match postGuard s (32 * p + i) m false false with
      | some s' => s'
      | none => fset s (f (32 * p + i)) v
    else s) s

/-! ### Serial units (R288) -/

/-- The unit is idle: its Stop-class fields may change (R288, R360). -/
def serIdle (s : State) (p : Nat) : Bool :=
  decide (fget s (Fd.prtSerCfgMode p) = 0) || ((serOf s p).tx.isEmpty && !(serOf s p).receiving)

def serRxPush (s : State) (p : Nat) (b : Byte) : State :=
  let u := serOf s p
  if 16 ≤ u.rx.length then fon s (Fd.prtSerStatRxOvr p) else setSer s p { u with rx := u.rx ++ [b] }

/-- CTS as the unit reads it: level 0 unless Pp.03 is set to UART (R281). -/
def serCts (s : State) (p : Nat) : Bool := (serOf s p).cts && postLive s (32 * p + 3) 2

/-- A unit with `tx` to send begins its oldest entry, but for a UART that waits for CTS (R288). -/
def serBegins (s : State) (p : Nat) (tx : List Nat) : Bool :=
  !tx.isEmpty && !(decide (fget s (Fd.prtSerCfgMode p) = 1) && fbit s (Fd.prtSerCfgCtsEn p) && serCts s p)

def serTxPush (s : State) (p v : Nat) : State :=
  let u := serOf s p
  if 16 ≤ u.tx.length then fon s (Fd.prtSerStatTxOvf p)
  else
    let tx := u.tx ++ [v % 4096]
    setSer s p { u with tx := tx, begun := u.begun || serBegins s p tx }

/-- A SER_RX read pops one byte: valid in bit 8 (R288). -/
def serRxRead (s : State) (p : Nat) : Nat × State :=
  let u := serOf s p
  match u.rx with
  | [] => (0, s)
  | b :: t => (256 + b.toNat, setSer s p { u with rx := t })

/-- A change of mode abandons the byte in progress and empties both FIFOs. -/
def serModeChange (s : State) (p mode : Nat) : State :=
  fset (setSer s p { SerUnit.reset with cts := (serOf s p).cts }) (Fd.prtSerCfgMode p) mode

/-- The CTS input changes; a byte that has begun goes on (R288). -/
def serCtsChange (s : State) (p : Nat) (level : Bool) : State :=
  let s' := setSer s p { serOf s p with cts := level }
  setSer s' p { serOf s' p with begun := (serOf s p).begun || serBegins s' p (serOf s p).tx }

/-- The oldest entry leaves the transmit FIFO, and the next begins. -/
def serPop (s : State) (p : Nat) (t : List Nat) (inTransfer : Bool) : State :=
  setSer s p { serOf s p with tx := t, inTransfer := inTransfer, begun := serBegins s p t }

/-- An I2C unit reads SCL and SDA at posts set to it: SCL at level 0 is stretched without end, and SDA at level 0 loses
every 1 that is sent, acknowledges, and gives zeros (R281, R288). -/
def i2cSent (s : State) (p e : Nat) (t : List Nat) (rx : Byte) (nacked arbLost : Bool) : State :=
  let b : Byte := BitVec.ofNat 8 e
  let sda := postLive s (32 * p + 1) 4
  if !postLive s (32 * p) 4 then s
  else if bit e 9 then
    let rx := if sda then rx else 0
    serRxPush (tallySerial (serPop s p t false) p 1 rx) p rx
  else if (if sda then arbLost else decide (b ≠ 0)) then fon (serPop s p [] false) (Fd.prtSerStatArbLost p)
  else
    let s := tallySerial (serPop s p t false) p 0 b
    if nacked && sda then fon s (Fd.prtSerStatNack p) else s

/-- The unit finishes sending its oldest entry (R288). -/
def serSent (s : State) (p : Nat) (rx : Byte) (nacked arbLost : Bool) : State :=
  let u := serOf s p
  match u.tx with
  | [] => s
  | e :: t =>
    let b : Byte := BitVec.ofNat 8 e
    match fget s (Fd.prtSerCfgMode p) with
    | 1 => if u.begun || serBegins s p u.tx then tallySerial (serPop s p t false) p 0 b else s
    | 2 =>
      let rx := if postLive s (32 * p + 2) 3 then rx else 0
      let s := tallySerial (serPop s p t (!bit e 10)) p 0 b
      serRxPush (tallySerial s p 1 rx) p rx
    | 3 => i2cSent s p e t rx nacked arbLost
    | _ => s

/-- A falling edge at RXD begins a byte (R288): DESIGN CHOICE, log entry 45, as to an edge that is no start bit. -/
def serEdge (s : State) (n : Nat) (level : Bool) : State :=
  let p := postPort n
  if !level && decide (n % 32 = 1) && decide (fget s (Fd.prtSerCfgMode p) = 1) && postLive s n 2 then
    setSer s p { serOf s p with receiving := true }
  else s

/-- A UART byte arrives; one that finds the FIFO full is dropped, and its tally unit sees it all the same (R298). A unit
whose RXD post is not set to it sees no start bit (R281). -/
def serReceived (s : State) (p : Nat) (b : Byte) (perr ferr : Bool) : State :=
  if fget s (Fd.prtSerCfgMode p) ≠ 1 ∨ !postLive s (32 * p + 1) 2 then s
  else
    let s := setSer s p { serOf s p with receiving := false }
    let s := serRxPush (tallySerial s p 1 b) p b
    let s := if perr && fbit s (Fd.prtSerCfgParity p) then fon s (Fd.prtSerStatPerr p) else s
    if ferr then fon s (Fd.prtSerStatFerr p) else s

/-- SER_STAT as it reads (R295). -/
def serStat (s : State) (p : Nat) : Nat :=
  let u := serOf s p
  (rget s (Adr.prtSerStat p)).toNat % 64 + boolNat u.tx.isEmpty * 64 + boolNat (!u.rx.isEmpty) * 128 +
    u.rx.length * 1024 + u.tx.length * 32768

/-- The unit's registers follow the pegging of Pp.00; SER_CFG and SER_DIV are also frozen while a post of the port with
function 2, 3 or 4 is pegged (R288). -/
def serFrozen (s : State) (p reg : Nat) : Bool :=
  postPegged s (32 * p) ||
  (decide (reg = 0x40 ∨ reg = 0x44) && (List.range 32).any fun i => postPegged s (32 * p + i) &&
    decide (2 ≤ postFunc s (32 * p + i)) && decide (postFunc s (32 * p + i) ≤ 4))

/-! ### Pin interrupt lines (R289) -/

/-- PIL_CFG.mode; 5-7 are reserved and act as one of the five. -/
def pilMode (s : State) (k : Nat) : Nat :=
  let m := fget s (Fd.pilCfgMode k)
  if 5 ≤ m then openField s (Fd.pilCfgMode k) 5 else m

def pilPost (s : State) (k : Nat) : Nat := 32 * fget s (Fd.pilCfgPort k) + k

/-- The filtered level, 0 for a post of an absent port (R31). -/
def pilLevel (s : State) (k : Nat) : Bool :=
  decide (pilPost s k < s.variant.posts) && fbit s (Fd.pilStatLevel k)

/-- The condition of a level mode (R289). -/
def pilLevelHolds (s : State) (k : Nat) : Bool :=
  fbit s (Fd.pilCfgEn k) && decide (pilPost s k < s.variant.posts) &&
  ((decide (pilMode s k = 3) && pilLevel s k) || (decide (pilMode s k = 4) && !pilLevel s k))

/-- The line's producer fires: its channel, seen, and in the edge modes the edge source (R289). -/
def pilFire (s : State) (k : Nat) : State :=
  let s := fon s (Fd.pilStatSeen k)
  let s := if pilMode s k < 3 then irqEdge s (288 + k) else s
  fireIf s (fbit s (Fd.pilEvtFerryEn k)) (fget s (Fd.pilEvtChan k))

/-- The line takes a filtered level in this cycle. -/
def pilTake (s : State) (k : Nat) (level : Bool) : State :=
  { fset s (Fd.pilStatLevel k) (boolNat level) with pilAt := Sparse.put 0 k (s.clock + 1) s.pilAt }

/-- A change less than filter + 1 cycles after the level was taken is not resolved; with filter 0 every one is (R289). -/
def pilResolved (s : State) (k : Nat) : Bool :=
  let f := fget s (Fd.pilCfgFilter k)
  let c := Sparse.get 0 k s.pilAt
  decide (f = 0 ∨ c = 0 ∨ c + f ≤ s.clock)

/-- The filtered level of the line changes; a dead bank's pads read 0 (R283). -/
def pilChange (s : State) (k : Nat) (level : Bool) : State :=
  if !fbit s (Fd.pilCfgEn k) || decide (s.variant.posts ≤ pilPost s k) || decide (fbit s (Fd.pilStatLevel k) = level) ||
      !pilResolved s k || (level && !bankLive s (postPort (pilPost s k)))
  then s
  else
    let s := pilTake s k level
    match pilMode s k, level with
    | 0, true => pilFire s k
    | 1, false => pilFire s k
    | 2, _ => pilFire s k
    | 3, true => pilFire s k
    | 4, false => pilFire s k
    | _, _ => s

/-- PIL_CFG is written: a change of kind clears the edge latch (R342); the synchronised level is taken anew (R289). -/
def pilConfigured (old s : State) (k : Nat) : State :=
  let kind := fun (t : State) => decide (pilMode t k < 3)
  let s' := if kind old ≠ kind s then { s with ic := { s.ic with latch := NSet.del (288 + k) s.ic.latch } } else s
  let anew := fbit s (Fd.pilCfgEn k) && (!fbit old (Fd.pilCfgEn k) ||
    decide (fget old (Fd.pilCfgMode k) ≠ fget s (Fd.pilCfgMode k)) ||
    decide (fget old (Fd.pilCfgPort k) ≠ fget s (Fd.pilCfgPort k)))
  if anew then drew (pilTake s' k (decide (pilPost s k < s.variant.posts) && padSync s (pilPost s k))) else s'

end Sys2Proof.Machine
end

