-- ==== Sys2Proof/Machine/Interrupts.lean ====
section
/-! DEFINITION. The interrupt controller (14_interrupts.md): sources, ranks, candidates, claims, ends of service, host
vectors, and hold-off groups. -/

namespace Sys2Proof.Machine

/-! ### Sources (R342, R343) -/

/-- The status bits of a register, by an enable register of the same bits. -/
def anyEnabled (s : State) (stat ien top : Nat) : Bool :=
  decide ((rget s stat).toNat &&& (rget s ien).toNat &&& (2 ^ (top + 1) - 1) ≠ 0)

/-- A timeline's Slip source: near, far, back or unlock (R56). -/
def slipSource (s : State) (k : Nat) : Bool :=
  fbit s (Fd.tlStatNear k) || fbit s (Fd.tlStatFar k) || fbit s (Fd.tlStatBack k) || fbit s (Fd.tlStatUnlock k)

/-- The condition of a level source as its unit holds it. -/
def levelAsserted (s : State) (n : Nat) : Bool :=
  if n < 256 then fbit s (Fd.cFlagFlag n) && fbit s (Fd.cCfgIrqEn n)
  else if n < 288 then slipSource s (n - 256)
  else if n < 320 then pilLevelHolds s (n - 288)
  else if n < 352 then
    decide (n - 320 < s.variant.ports) &&
    decide (serStat s (n - 320) &&& (rget s (Adr.prtSerIen (n - 320))).toNat &&& 255 ≠ 0)
  else if n < 384 then s.variant.tallies (n - 352) && anyEnabled s (Adr.kStat (n - 352)) (Adr.kIen (n - 352)) 6
  else if n < 390 then s.variant.head (n - 384) && anyEnabled s (Adr.headHevt (n - 384)) (Adr.headHevtEn (n - 384)) 6
  else if n = 392 then anyEnabled s Adr.audStat Adr.audIen 4
  else if n = 393 then (List.range s.variant.channels).any fun m => anyEnabled s (Adr.mcEstat m) (Adr.mcIen m) 3
  else if n = 394 then s.variant.planer && anyEnabled s Adr.plStat Adr.plIen 4
  else if n = 395 then decide (faultSum s bayChip ≠ 0)
  else if n = 396 then fbit s Fd.thStatAlarm
  else if n = 397 then anyEnabled s Adr.thNote Adr.thNoteEn 4
  else if n = 398 then anyEnabled s Adr.spStat Adr.spIen 6 || anyEnabled s Adr.rcStat Adr.rcIen 3
  else if n = 399 then anyEnabled s Adr.hlStat Adr.hlIen 3
  else if n < 416 then 400 ≤ n && anyEnabled s (Adr.bgStat (n - 400)) (Adr.bgIen (n - 400)) 6
  else if n < 480 then
    let q := (n - 416) / 2
    quadPresent s q && anyEnabled s (Adr.dStat q ((n - 416) % 2)) (Adr.dIen q ((n - 416) % 2)) 4
  else false

/-- The kind of a source: edge, by number and, for Pin Lines, by mode (R342). -/
def srcEdge (s : State) (n : Nat) : Bool :=
  decide (512 ≤ n) || (decide (288 ≤ n ∧ n < 320) && decide (pilMode s (n - 288) < 3))

def srcEn (s : State) (n : Nat) : Bool := fbit s (Fd.srcSrcCfgEn n)
def srcActive (s : State) (n : Nat) : Bool := NSet.has n s.ic.active

/-- The pending bit of a source (R344); a level source is not sampled while en is 0. -/
def srcPending (s : State) (n : Nat) : Bool :=
  !srcActive s n && (if srcEdge s n then NSet.has n s.ic.latch else srcEn s n && levelAsserted s n)

/-! ### Ranks and candidates (R346, R350) -/

/-- gb in use: 5-7 act as 4 (R350). -/
def icGroupBits (s : State) : Nat := min 4 (fget s Fd.icCfgGb)

/-- Rank and sub-priority of a source. -/
def srcRank (s : State) (n : Nat) : Nat × Nat :=
  let p := fget s (Fd.srcSrcCfgPrio n)
  if fbit s Fd.icCfgMode then
    let w := 2 ^ (8 - icGroupBits s)
    (p / w + 1, p % w)
  else (p % 16, 0)

/-- The hold-off group of a source runs (R352). -/
def srcHeld (s : State) (n : Nat) : Bool := decide (Sparse.get 0 (n / 16) s.ic.hold ≠ 0)

/-- An eligible source apart from its target and the test against pr. -/
def srcReady (s : State) (n : Nat) : Bool :=
  srcEn s n && srcPending s n && decide ((srcRank s n).1 ≠ 0) && !srcHeld s n

/-- The sources whose SRC_CFG is off reset; the others have en 0. -/
def srcTouched (s : State) : List Nat := touched s 0x1C2000 4 1024

/-- Source `b` is chosen over source `a`: higher rank, then sub-priority, then lower number. -/
def srcBefore (s : State) (a b : Nat) : Bool :=
  let ra := srcRank s a
  let rb := srcRank s b
  decide (ra.1 < rb.1 ∨ ra.1 = rb.1 ∧ (ra.2 < rb.2 ∨ ra.2 = rb.2 ∧ b < a))

/-- The best of a list of sources. -/
def srcBest (s : State) (l : List Nat) : Option Nat :=
  l.foldl (fun a n => match a with
    | none => some n
    | some m => if srcBefore s m n then some n else some m) none

/-- The candidate for engine `e` (R346). -/
def icCandidate (s : State) (e : Nat) : Option Nat :=
  srcBest s ((srcTouched s).filter fun n =>
    !fbit s (Fd.srcSrcCfgTgt n) && decide (fget s (Fd.srcSrcCfgIdx n) = e) && srcReady s n &&
    decide ((icEngOf s e).pr < (srcRank s n).1))

/-- The vector of a source routed to the host. -/
def srcVector (s : State) (n : Nat) : Nat := fget s (Fd.srcSrcCfgIdx n) % 64

/-- The candidate of vector `v` (R351). -/
def vecCandidate (s : State) (v : Nat) : Option Nat :=
  srcBest s ((srcTouched s).filter fun n =>
    fbit s (Fd.srcSrcCfgTgt n) && decide (srcVector s n = v) && srcReady s n)

/-- The level presented to engine `e` (R346). -/
def icPresented (s : State) (e : Nat) : Nat :=
  match icCandidate s e with
  | none => 0
  | some n => min 15 (srcRank s n).1

/-! ### Claims and ends of service (R344, R347, R348, R351) -/

/-- A latched source fires again in the present cycle: its latch ends set through a claim (R344). -/
def refired (s : State) (n : Nat) : Bool :=
  match Sparse.find (latchKey n) s.sets with
  | some p => decide (p.1 = 1)
  | none => false

/-- A claim: active, edge latch cleared, hold-off started. -/
def srcClaim (s : State) (n : Nat) : State :=
  let us := fget s (Fd.icHoldUs (n / 16))
  { s with ic := { s.ic with
      active := NSet.ins n s.ic.active
      latch := if refired s n then s.ic.latch else NSet.del n s.ic.latch
      hold := if us = 0 then s.ic.hold else Sparse.put 0 (n / 16) (1000 * us + 1) s.ic.hold } }

def srcEnd (s : State) (n : Nat) : State :=
  { s with ic := { s.ic with
      active := NSet.del n s.ic.active
      claimed := Sparse.put 64 n 64 s.ic.claimed } }

/-- Engine `e` takes its candidate (R347): the new state and the level n presented. -/
def icTake (s : State) (e : Nat) : Option (Nat × State) :=
  match icCandidate s e with
  | none => none
  | some n =>
    let u := icEngOf s e
    let r := (srcRank s n).1
    let s' := setIcEng s e { pr := r, cur := some n, stack := (u.pr, u.cur) :: u.stack }
    some (min 15 r, srcClaim s' n)

/-- The masters that E_EOI accepts (R348). -/
def eoiAdmits (e : Nat) : Master → Bool
  | .engine f l => decide (l = 0) || (decide (f.val = e) && decide (l = 1))
  | .host => true
  | .sideband => true
  | .tollhouse => true
  | _ => false

/-- An E_EOI write (R348). -/
def icEoi (s : State) (m : Master) (e : Nat) : State :=
  if !eoiAdmits e m then refuse s m (Adr.icEEoi e) (bayEng e) 5
  else
    let u := icEngOf s e
    match u.stack with
    | [] => fon s Fd.icStatEoiEmpty
    | p :: t =>
      let s' := setIcEng s e { pr := p.1, cur := p.2, stack := t }
      match u.cur with
      | some n => srcEnd s' n
      | none => s'

/-- A V_CLAIM read (R351): the word it returns, and the state after. -/
def vecClaim (s : State) (v : Nat) : Nat × State :=
  match vecCandidate s v with
  | none => (0, s)
  | some n =>
    let s := srcClaim s n
    (2 ^ 19 + n, { s with ic := { s.ic with claimed := Sparse.put 64 n v s.ic.claimed } })

/-- A V_EOI write (R351). -/
def vecEoi (s : State) (v : Nat) : State :=
  let done := (s.ic.claimed.filter fun p => decide (p.2 = v)).map Prod.fst
  let s := done.foldl srcEnd s
  { s with ic := { s.ic with outstanding := NSet.del v s.ic.outstanding } }

/-- The vector's message may go: link, Bus Master Enable and masks (R351, R378). -/
def vecOpen (s : State) (v : Nat) : Bool :=
  fbit s Fd.hlStatLinkUp && s.host.busMaster && !s.host.fnMask && !NSet.has v s.host.masked

/-- A vector's message is due (R351). -/
def vecDue (s : State) (v : Nat) : Bool := (vecCandidate s v).isSome && !NSet.has v s.ic.outstanding

/-- The message goes, one memory write on the link (R351). -/
def vecSend (s : State) (v : Nat) : State :=
  if vecDue s v && vecOpen s v then
    { s with
      ic := { s.ic with outstanding := NSet.ins v s.ic.outstanding }
      host := { s.host with lastMsg := some (Sparse.get (0, 0) v s.host.table) } }
  else s

/-! ### BAR4: the MSI-X table and its pending bits (R373, R378) -/

/-- A vector's pending bit: its message is due and may not go. -/
def vecPending (s : State) (v : Nat) : Bool := vecDue s v && !vecOpen s v

/-- A DWORD of BAR4: entry v at 16v holds the message address, its data and the mask in bit 0, and the pending-bit array
stands at 0x2000. -/
def bar4Read (s : State) (o : Nat) : Nat :=
  let e := Sparse.get (0, 0) (o / 16) s.host.table
  if o < 1024 then
    match o % 16 / 4 with
    | 0 => e.1 % 2 ^ 32
    | 1 => e.1 / 2 ^ 32
    | 2 => e.2
    | _ => boolNat (NSet.has (o / 16) s.host.masked)
  else if o = 0x2000 ∨ o = 0x2004 then
    (List.range 32).foldl (fun a i => a + if vecPending s (8 * (o - 0x2000) + i) then 2 ^ i else 0) 0
  else 0

/-- A write there; the pending bits are read-only. -/
def bar4Write (s : State) (o x : Nat) : State :=
  let v := o / 16
  let e := Sparse.get (0, 0) v s.host.table
  let entry := fun (p : Nat × Nat) => { s with host := { s.host with table := Sparse.put (0, 0) v p s.host.table } }
  if 1024 ≤ o then s
  else match o % 16 / 4 with
    | 0 => entry (e.1 / 2 ^ 32 * 2 ^ 32 + x / 4 * 4, e.2)
    | 1 => entry (x * 2 ^ 32 + e.1 % 2 ^ 32, e.2)
    | 2 => entry (e.1, x)
    | _ => { s with host := { s.host with
        masked := if bit x 0 then NSet.ins v s.host.masked else NSet.del v s.host.masked } }

/-- The offsets by which the register commands of the host name BAR4, behind BAR0's 64 MiB (DESIGN CHOICE, log entry
22). -/
def bar4Off (m : Master) (off : Nat) : Option Nat :=
  if m = .host ∧ 0x4000000 ≤ off ∧ off < 0x4004000 then some (off - 0x4000000) else none

/-- A SW_SET write (R353). -/
def icSwSet (s : State) (v : Nat) : State :=
  let n := v % 1024
  if 512 ≤ n then irqEdge s n else fon s Fd.icStatSwBad

/-- The countdown of group `g` has reached zero (R352). -/
def holdExpire (s : State) (g : Nat) : State :=
  if Sparse.get 0 g s.ic.hold = 1 then { s with ic := { s.ic with hold := Sparse.put 0 g 0 s.ic.hold } } else s

/-- The controller is stopped (R354). -/
def icStopped (s : State) : Bool := s.ic.outstanding.isEmpty && s.ic.engs.all fun p => decide (p.2.pr = 0)

/-- A quad reset empties its engines' stacks and ends their sources (R350). -/
def icQuadReset (s : State) (q : Nat) : State :=
  (List.range 4).foldl (fun s i =>
    let e := 4 * q + i
    let u := icEngOf s e
    let srcs := (u.cur :: u.stack.map Prod.snd).filterMap id
    srcs.foldl srcEnd (setIcEng s e IcEng.reset)) s

/-- 32 bits of PEND or ACT from source `32 j` up (R355). -/
def icBits (f : Nat → Bool) (j : Nat) : Nat :=
  (List.range 32).foldl (fun a k => if f (32 * j + k) then a + 2 ^ k else a) 0

/-- A write to PEND_j clears edge latches, but for one that sets in the same cycle; level bits ignore it (R344, R355). -/
def icPendClear (s : State) (j v : Nat) : State :=
  (List.range 32).foldl (fun s k =>
    if bit v k && srcEdge s (32 * j + k) && decide (hwSets s (latchKey (32 * j + k)) = 0) then
      { s with ic := { s.ic with latch := NSet.del (32 * j + k) s.ic.latch } }
    else s) s

/-- SRC_CFG as it reads (R356). -/
def srcCfgRead (s : State) (n : Nat) : Nat :=
  setBits (setBits (rget s (Adr.srcSrcCfg n)).toNat 9 9 (boolNat (srcEdge s n))) 8 8 (boolNat (srcPending s n))

def eCurRead (s : State) (e : Nat) : Nat :=
  match (icEngOf s e).cur with
  | some n => 2 ^ 19 + n
  | none => 0

def eStkRead (s : State) (e : Nat) : Nat := (icEngOf s e).stack.length * 256 + (icEngOf s e).pr

def vStatRead (s : State) (v : Nat) : Nat :=
  2 * boolNat (NSet.has v s.ic.outstanding) + boolNat (vecCandidate s v).isSome

end Sys2Proof.Machine
end

