-- ==== Sys2Proof/Machine/Members.lean ====
section
/-! DEFINITION. Written values that wait for their latch (15_raising.md R359), and raise groups: members, staged
copies, arming and ending (R362-R369). -/

namespace Sys2Proof.Machine

/-! ### Waiting values (R359, R363) -/

def Cls.waits : Cls → Bool
  | .line => true | .frame => true | .sample => true | .now => false | .stop => false

/-- `w` with the fields of `fs` that satisfy `p` taken from `v`. -/
def mergeFields (fs : List Fld) (p : Fld → Bool) (w v : Nat) : Nat :=
  (fs.filter p).foldl (fun a f => setBits a f.hi f.lo (bits v f.hi f.lo)) w

def fieldsAt (off : Nat) : List Fld :=
  match RegMap.lookup off with
  | some h => h.reg.flds
  | none => []

/-- The value last written: the waiting one where a write waits, else the value in effect (R363). -/
def wgetN (s : State) (off : Nat) : Nat :=
  match Sparse.find off s.waiting with
  | some w => mergeFields (fieldsAt off) (fun f => f.cls.waits) (rget s off).toNat w.toNat
  | none => (rget s off).toNat

def wfield (s : State) (f : FieldAt) : Nat := bits (wgetN s f.off) f.hi f.lo

/-- The Line-, Frame- and Sample-class fields of a write wait for their latch. -/
def putWaiting (s : State) (off v : Nat) : State :=
  let fs := fieldsAt off
  let w := mergeFields fs (fun f => f.cls.waits) (rget s off).toNat v
  let same := (fs.filter fun f => f.cls.waits).all fun f =>
    decide (bits w f.hi f.lo = bits (rget s off).toNat f.hi f.lo)
  { s with waiting := if same then Sparse.del off s.waiting
                      else Sparse.ins off (BitVec.ofNat 32 w) s.waiting }

/-- The waiting fields of one register that satisfy `p` take effect. -/
def latchReg (p : Cls → Bool) (s : State) (off : Nat) : State :=
  match Sparse.find off s.waiting with
  | none => s
  | some w =>
    let v := mergeFields (fieldsAt off) (fun f => f.cls.waits && p f.cls) (rget s off).toNat w.toNat
    putWaiting (rput s off (BitVec.ofNat 32 v)) off w.toNat

/-- The latch of every waiting register from `lo` to below `hi`. -/
def latchRange (s : State) (lo hi : Nat) (p : Cls → Bool) : State :=
  (Sparse.keys lo hi s.waiting).foldl (latchReg p) s

/-! ### Members of raise groups (R362, R368) -/

/-- The block of a kind and number that a register belongs to, where it is stageable. -/
def stageBlock (off : Nat) : Option (Nat × Nat) :=
  if 0x40000 ≤ off ∧ off < 0x48000 then
    let r := (off - 0x40000) % 0x40
    if 4 ≤ r ∧ r ≤ 0x10 then some (3, (off - 0x40000) / 0x40) else none
  else if 0x80000 ≤ off ∧ off < 0x98000 then
    let r := (off - 0x80000) % 0x4000
    let h := (off - 0x80000) / 0x4000
    let ok :=
      r = 0xC ∨ r = 0x18 ∨ (0x100 ≤ r ∧ r ≤ 0x110) ∨ r = 0x120 ∨ r = 0x124 ∨
      (0x200 ≤ r ∧ r < 0x400 ∧ (r - 0x200) % 0x80 ≤ 0x40) ∨
      (0x400 ≤ r ∧ r < 0x600 ∧ (r - 0x400) % 0x40 ≤ 0x2C) ∨
      r = 0x600 ∨ r = 0x604 ∨ (0x640 ≤ r ∧ r < 0x680 ∧ (r - 0x640) % 0x20 ≤ 0xC)
    if ok then some (0, h) else none
  else if 0xC1000 ≤ off ∧ off < 0xC1800 then
    if (off - 0xC1000) % 0x40 ≤ 8 then some (2, (off - 0xC1000) / 0x40) else none
  else if 0xD0000 ≤ off ∧ off < 0xE0000 then
    let r := (off - 0xD0000) % 0x80
    if r ≤ 0x2C ∨ (0x40 ≤ r ∧ r < 0x60) then some (1, (off - 0xD0000) / 0x80) else none
  else none

/-- The offsets of the stageable registers of a block. -/
def blockRegs (b : Nat × Nat) : List Nat :=
  let cands := match b.1 with
    | 0 => (List.range 0x1A0).map fun i => 0x80000 + 0x4000 * b.2 + 4 * i
    | 1 => (List.range 0x18).map fun i => 0xD0000 + 0x80 * b.2 + 4 * i
    | 2 => (List.range 3).map fun i => 0xC1000 + 0x40 * b.2 + 4 * i
    | 3 => (List.range 5).map fun i => 0x40000 + 0x40 * b.2 + 4 * i
    | _ => []
  cands.filter fun o => (RegMap.lookup o).isSome && decide (stageBlock o = some b)

/-- An instance of a kind that the variant has. -/
def blockPresent (s : State) (b : Nat × Nat) : Bool :=
  match b.1 with
  | 0 => s.variant.head b.2
  | 1 => decide (b.2 < s.variant.voices48)
  | 2 => decide (b.2 < 32)
  | 3 => decide (b.2 < s.variant.lands)
  | _ => false

/-- RG_MEM.kind; 4-7 are reserved and act as one of the four (DESIGN CHOICE, log entry 12). -/
def rgKind (s : State) (g k : Nat) : Nat :=
  let v := fget s (Fd.rgMemKind g k)
  if 4 ≤ v then openField s (Fd.rgMemKind g k) 4 else v

/-- A block is named by slot `k` of group `g`, whatever the group's enable. -/
def slotNames (s : State) (g k : Nat) (b : Nat × Nat) : Bool :=
  fbit s (Fd.rgMemEn g k) && decide (rgKind s g k = b.1) && blockPresent s b &&
  decide (fget s (Fd.rgMemFirst g k) ≤ b.2 ∧ b.2 ≤ fget s (Fd.rgMemFirst g k) + fget s (Fd.rgMemNM1 g k))

/-- The blocks of slot `k`. -/
def slotBlocks (s : State) (g k : Nat) : List (Nat × Nat) :=
  ((List.range (fget s (Fd.rgMemNM1 g k) + 1)).map fun i => (rgKind s g k, fget s (Fd.rgMemFirst g k) + i)).filter
    (slotNames s g k)

/-- The groups whose registers are off reset; the others have en 0. -/
def rgTouched (s : State) : List Nat := touched s 0x1E0000 0x100 16

/-- The enabled group and slot that a block belongs to (R368). -/
def memberOf (s : State) (b : Nat × Nat) : Option (Nat × Nat) :=
  ((rgTouched s).filter fun g => fbit s (Fd.rgCtrlEn g)).findSome? fun g =>
    ((List.range 8).find? fun k => slotNames s g k b).map fun k => (g, k)

/-- The group and slot whose staged copy a live register has (R363). -/
def stagedIn (s : State) (off : Nat) : Option (Nat × Nat) :=
  match stageBlock off with
  | some b => if (RegMap.lookup off).isSome then memberOf s b else none
  | none => none

/-! ### Staged copies (R363) -/

/-- The staged value of a register of a member. -/
def stagedGet (s : State) (off : Nat) : Nat :=
  match Sparse.find off s.rg.staged with
  | some v => v.toNat
  | none => wgetN s off

def stagedPut (s : State) (off v : Nat) : State :=
  { s with rg := { s.rg with staged := Sparse.ins off (BitVec.ofNat 32 v) s.rg.staged } }

/-- The value loaded at the enable: the one last written to the live register. A held CMP1, INT1 or START_HI has not
reached its register (R70). -/
def stageLoad (s : State) (off : Nat) : State :=
  let s := stagedPut s off (wgetN s off)
  { s with rg := { s.rg with marked := NSet.del off s.rg.marked } }

def stageDrop (s : State) (off : Nat) : State :=
  { s with rg := { s.rg with staged := Sparse.del off s.rg.staged, marked := NSet.del off s.rg.marked } }

/-- The bits of a register that a write stores (R8). -/
def writableMask (off : Nat) : Nat :=
  mergeFields (fieldsAt off) (fun f => decide (f.acc = .rw) || decide (f.acc = .wo)) 0 (2 ^ 32 - 1)

/-- A staged write: the copy and its mark, and late_write while the slot is pending (R365). -/
def stageWrite (s : State) (g k off v : Nat) : State :=
  let s := stagedPut s off (v &&& writableMask off)
  let s := { s with rg := { s.rg with marked := NSet.ins off s.rg.marked } }
  if bit (fget s (Fd.rgStatPend g)) k then fon s (Fd.rgStatLateWrite g) else s

/-- The stageable registers of slot `k`, as the slot names its blocks now. -/
def slotRegs (s : State) (g k : Nat) : List Nat := (slotBlocks s g k).flatMap blockRegs

/-! ### Arming and ending (R365-R368) -/

def rgPend (s : State) (g : Nat) : Nat := fget s (Fd.rgStatPend g)

/-- The enabled slots of a group. -/
def rgSlots (s : State) (g : Nat) : Nat :=
  (List.range 8).foldl (fun a k => if fbit s (Fd.rgMemEn g k) then a + 2 ^ k else a) 0

/-- An arm (R365); `n` is the raise number: the next one, or the one a vote carries (R369). A raise without an
enabled slot is complete at once (DEDUCED, log entry 23). -/
def rgArmWith (s : State) (g n : Nat) : State :=
  let s := fset s (Fd.rgNextNo g) n
  let m := rgSlots s g
  let s := fset s (Fd.rgStatPend g) m
  let s := { s with rg := { s.rg with
    due := Sparse.put [] g [] s.rg.due, tornAt := Sparse.put 0 g 0 s.rg.tornAt } }
  if m = 0 then fset s (Fd.rgNoNo g) n else s

def rgArm (s : State) (g : Nat) : State :=
  if !fbit s (Fd.rgCtrlEn g) then s
  else if rgPend s g ≠ 0 then fon s (Fd.rgStatArmLost g)
  else rgArmWith s g ((fget s (Fd.rgNextNo g) + 1) % 2 ^ 20)

/-- An abort of a pending raise (R367). -/
def rgAbort (s : State) (g : Nat) : State :=
  let p := rgPend s g
  if p = 0 then s
  else
    let s := (((List.range 8).filter (bit p)).flatMap (slotRegs s g)).foldl stageLoad s
    let s := fon (fset s (Fd.rgStatPend g) 0) (Fd.rgStatAborted g)
    { s with rg := { s.rg with due := Sparse.put [] g [] s.rg.due, tornAt := Sparse.put 0 g 0 s.rg.tornAt } }

/-- An enabled slot of this group, or of an enabled group, names a block twice (R368). -/
def rgOverlap (s : State) (g : Nat) : Bool :=
  (List.range 8).any fun k => (slotBlocks s g k).any fun b =>
    ((List.range 8).any fun j => decide (j ≠ k) && slotNames s g j b) ||
    ((rgTouched s).any fun g' => decide (g' ≠ g) && fbit s (Fd.rgCtrlEn g') &&
      ((List.range 8).any fun j => slotNames s g' j b))

def rgEnable (s : State) (g : Nat) : State :=
  if rgOverlap s g then fon s (Fd.rgStatOverlap g)
  else ((List.range 8).flatMap (slotRegs s g)).foldl stageLoad (fset s (Fd.rgCtrlEn g) 1)

def rgDisable (s : State) (g : Nat) : State :=
  let s := rgAbort s g
  let s := ((List.range 8).flatMap (slotRegs s g)).foldl stageDrop s
  fset s (Fd.rgCtrlEn g) 0

/-- The write of a slot's marked registers goes high words first, so that held pairs reach the block together (R364). -/
def copyOrder (l : List Nat) : List Nat :=
  let high := fun o =>
    (decide (0x40000 ≤ o ∧ o < 0x48000) && (decide (o % 0x40 = 8) || decide (o % 0x40 = 0x10))) ||
    (decide (0xD0000 ≤ o ∧ o < 0xE0000) && decide (o % 0x80 = 0xC))
  l.filter high ++ l.filter fun o => !high o

/-- The registers that slots `m` of group `g` copy, and the bookkeeping of the apply (R364-R366). -/
def rgCopies (s : State) (g m : Nat) : List Nat :=
  copyOrder ((((List.range 8).filter (bit m)).flatMap (slotRegs s g)).filter fun o => NSet.has o s.rg.marked)

def rgApplied (s : State) (g m : Nat) : State :=
  let next := fget s (Fd.rgNextNo g)
  let s := ((List.range 8).filter (bit m)).foldl (fun s k => fset s (Fd.rgMnoNo g k) next) s
  let left := (List.range 8).foldl (fun a k => if bit (rgPend s g) k && !bit m k then a + 2 ^ k else a) 0
  let s := fset s (Fd.rgStatPend g) left
  let t0 := Sparse.get 0 g s.rg.tornAt
  if left ≠ 0 then
    if t0 = 0 then
      { fon s (Fd.rgStatTorn g) with rg := { s.rg with tornAt := Sparse.put 0 g (s.clock + 1) s.rg.tornAt } }
    else s
  else
    let s := if t0 = 0 then s
      else fset s (Fd.rgTornUs g) (min (2 ^ 20 - 1) ((s.clock + 1 - t0 + 999) / 1000))
    let s := fset (fset s (Fd.rgStatTorn g) 0) (Fd.rgNoNo g) next
    { s with rg := { s.rg with tornAt := Sparse.put 0 g 0 s.rg.tornAt } }

end Sys2Proof.Machine
end

