-- ==== Sys2Proof/Machine/Pixels.lean ====
section
/-! DEFINITION. The pixels of a composed line (07_joiner_layers.md R170-R189, 08_sprites_raster.md R206-R217): formats,
tile, video and sprite pixels, occlusion, and blending. Every function here reads the state and changes nothing. -/

namespace Sys2Proof.Machine

/-- A layer's pixel at a column: its colour, alpha, blending, tile priority (tiles only) and sprite priority (sprite
planes only); `bad` tells that a read it needs was poisoned or returned an error (R187). -/
structure Pix where
  r : Nat
  g : Nat
  b : Nat
  pa : Nat
  add : Bool
  tile : Option Nat
  sprite : Option Nat
  bad : Bool
deriving DecidableEq, Repr

def Pix.clear : Pix := { r := 0, g := 0, b := 0, pa := 0, add := false, tile := none, sprite := none, bad := false }

/-! ### Formats (R174, R175, R180) -/

def fmtBits : Nat → Nat
  | 0 => 2 | 1 => 4 | 2 => 8 | 3 => 16 | 4 => 16 | 5 => 24 | 6 => 32 | _ => 0

/-- The bits of pixel `i` of a row of `w` bits per pixel, and whether a byte of it is bad; a missing byte is bad. -/
def rowPixel (d : List (Byte × Bool)) (w i : Nat) : Nat × Bool :=
  let at' := fun k => d.getD k (0, true)
  if w < 8 then
    let b := at' (i * w / 8)
    (bits b.1.toNat (i * w % 8 + w - 1) (i * w % 8), b.2)
  else
    let n := w / 8
    ((List.range n).foldl (fun a k => a + (at' (i * n + k)).1.toNat * 2 ^ (8 * k)) 0,
      (List.range n).any fun k => (at' (i * n + k)).2)

def to10from5 (v : Nat) : Nat := v * 32 ||| v
def to10from6 (v : Nat) : Nat := v * 16 ||| v / 4
def to10from8 (v : Nat) : Nat := v * 4 ||| v / 64

/-- a0-a3 of an ALPHA register. -/
def alphaOf (reg k : Nat) : Nat := bits reg (8 * k + 7) (8 * k)

def palAddr (i : Nat) : Nat := 0x2500000 + 4 * (i % 16384)

/-- The colour and pixel alpha of a raw pixel value: `pal` is the palette base with the tile's palette number. -/
def colourOf (s : State) (fmt alpha pal : Nat) (zeroOp : Bool) (raw : Nat) (bad : Bool) : Pix :=
  match fmt with
  | 3 =>
    { Pix.clear with
      r := to10from5 (bits raw 15 11), g := to10from6 (bits raw 10 5), b := to10from5 (bits raw 4 0),
      pa := alphaOf alpha 0, bad := bad }
  | 4 =>
    { Pix.clear with
      r := to10from5 (bits raw 14 10), g := to10from5 (bits raw 9 5), b := to10from5 (bits raw 4 0),
      pa := if bit raw 15 then alphaOf alpha 0 else 0, bad := bad }
  | 5 =>
    { Pix.clear with
      r := to10from8 (bits raw 23 16), g := to10from8 (bits raw 15 8), b := to10from8 (bits raw 7 0),
      pa := alphaOf alpha 0, bad := bad }
  | 6 =>
    { Pix.clear with
      r := to10from8 (bits raw 23 16), g := to10from8 (bits raw 15 8), b := to10from8 (bits raw 7 0),
      pa := bits raw 31 24 * (alphaOf alpha 0 + 1) / 256, bad := bad }
  | 7 => Pix.clear
  | _ =>
    let off := palAddr (pal + raw)
    let e := (rget s off).toNat
    { Pix.clear with
      r := bits e 29 20, g := bits e 19 10, b := bits e 9 0,
      pa := if raw = 0 && !zeroOp then 0 else alphaOf alpha (bits e 31 30),
      bad := bad || NSet.has off s.dispBad }

/-! ### Pattern bytes (R178, R200) -/

/-- A byte of a pattern as the cache gives it; beyond MEM_TOP it is an error (R187). -/
def patByte (s : State) (a : Nat) : Byte × Bool :=
  if s.mem.top ≤ a then (0, true) else (memByte s a, NSet.has (a / 256) s.cache.bad)

def patRow (s : State) (a n : Nat) : List (Byte × Bool) := (List.range n).map fun i => patByte s (a + i)

/-! ### Tile layers (R176-R179) -/

def tilT (s : State) (h l : Nat) : Nat :=
  match fget s (Fd.tilCtrlSize h l) with
  | 0 => 8 | 1 => 16 | _ => 32

/-- A tile-store index beyond the store gives some entry (R480 case 6, DESIGN CHOICE, log entry 2). -/
def tileEntry (s : State) (i : Nat) : Nat :=
  if i < 524288 then (rget s (0x2000000 + 4 * i)).toNat else (Config.openOf 1 (i + 2 ^ 24 * s.clock)).toNat % 2 ^ 32

def tileBad (s : State) (i : Nat) : Bool := NSet.has (0x2000000 + 4 * i) s.dispBad

/-- Where a tile layer's pixel at (x, y) comes from: tile-store index, column and row inside the tile. -/
def tilePlace (s : State) (h l x y : Nat) : Nat × Nat × Nat :=
  let t := tilT s h l
  let w := fget s (Fd.tilMapWWM1 h l) + 1
  let hh := fget s (Fd.tilMapHHM1 h l) + 1
  let p := fget s (Fd.tilMapPitchPitch h l)
  let p := if p = 0 then 8192 else p
  let mx := (fget s (Fd.tilScrollXOff h l) + x) % (w * t)
  let my := (fget s (Fd.tilVscrollYOff h l) + y) % (hh * t)
  (fget s (Fd.tilMapBaseBase h l) + my / t * p + mx / t, mx % t, my % t)

/-- The pattern address of the row that a map entry shows, and the column in it (R176, R178). -/
def tileRow (s : State) (h l e px py : Nat) : Nat × Nat :=
  let t := tilT s h l
  let w := fmtBits (fget s (Fd.tilCtrlFmt h l))
  let px := if bit e 24 then t - 1 - px else px
  let py := if bit e 25 then t - 1 - py else py
  (fget s (Fd.tilPatBaseBase h l) * 256 + bits e 17 0 * (t * t * w / 8) + py * (t * w / 8), px)

/-- The layer is drawn at column `x` (R179). -/
def tileClip (s : State) (h l x : Nat) : Bool :=
  decide (fget s (Fd.tilClipX0X0 h l) ≤ x ∧ x ≤ fget s (Fd.tilClipX1X1 h l))

/-- The pixel of tile layer `l` at (x, y). -/
def tilePix (s : State) (h l x y : Nat) : Pix :=
  let fmt := fget s (Fd.tilCtrlFmt h l)
  if !tileClip s h l x || decide (fmt = 7) then Pix.clear
  else
    let p := tilePlace s h l x y
    let e := tileEntry s p.1
    let a := tileRow s h l e p.2.1 p.2.2
    let w := fmtBits fmt
    let raw := rowPixel (patRow s a.1 (tilT s h l * w / 8)) w a.2
    let pal := fget s (Fd.tilPalBaseBase h l) + bits e 23 18 * 2 ^ w
    let q := colourOf s fmt (rget s (Adr.tilAlpha h l)).toNat pal (fbit s (Fd.tilCtrlZeroOp h l)) raw.1 raw.2
    { q with add := fbit s (Fd.tilCtrlAdd h l), tile := some (bits e 27 26), bad := q.bad || tileBad s p.1 }

/-! ### Video layers (R182-R185) -/

/-- The key of a coefficient, and its bilinear reset value (R184). -/
def coefKey (h l v ph tap : Nat) : Nat := ((h * 4 + l) * 2 + v) * 256 + ph * 8 + tap
def coefReset (v ph tap : Nat) : Nat :=
  let k := if v = 0 then 3 else 2
  if tap = k then 256 - 8 * ph else if tap = k + 1 then 8 * ph else 0

def coefRaw (s : State) (h l v ph tap : Nat) : Nat :=
  if v = 1 ∧ 6 ≤ tap then 0 else Sparse.get (coefReset v ph tap) (coefKey h l v ph tap) s.coefs

def coef (s : State) (h l v ph tap : Nat) : Int := signedN 10 (coefRaw s h l v ph tap)

/-- The destination columns of a video layer, signed. -/
def vidDstX (s : State) (h l : Nat) : Int := signedN 15 (fget s (Fd.vidDstXX h l))
def vidDstY (s : State) (h l : Nat) : Int := signedN 15 (fget s (Fd.vidDstYY h l))

/-- (x, y) lies in the destination rectangle. -/
def vidInside (s : State) (h l x y : Nat) : Bool :=
  decide (vidDstX s h l ≤ x ∧ (x : Int) < vidDstX s h l + fget s (Fd.vidDstWW h l) ∧
    vidDstY s h l ≤ y ∧ (y : Int) < vidDstY s h l + fget s (Fd.vidDstHH h l))

/-- A layer with a source and a format it accepts (R174, R203). -/
def vidShows (s : State) (h l : Nat) : Bool :=
  let f := fget s (Fd.vidCtrlFmt h l)
  decide (3 ≤ f ∧ f ≤ 6) && decide (fget s (Fd.vidSrcWW h l) ≠ 0) && decide (fget s (Fd.vidSrcHH h l) ≠ 0)

/-- A source coordinate clamped into the crop that begins at `o` and is `n` long. -/
def clampInto (o n : Nat) (v : Int) : Nat :=
  if v < (o : Int) then o else if (o : Int) + n - 1 < v then o + n - 1 else v.toNat

/-- Source position along one axis: the pixel, and its phase (R182). -/
def vidPos (init step org : Nat) (d : Nat) : Nat × Nat :=
  let p := init + d * step
  (org + p / 65536, p / 2048 % 32)

def vidXPos (s : State) (h l x : Nat) : Nat × Nat :=
  vidPos (fget s (Fd.vidInitXPhase h l)) (fget s (Fd.vidStepXStep h l)) (fget s (Fd.vidSrcXX h l))
    ((x : Int) - vidDstX s h l).toNat

def vidYPos (s : State) (h l y : Nat) : Nat × Nat :=
  vidPos (fget s (Fd.vidInitYPhase h l)) (fget s (Fd.vidStepYStep h l)) (fget s (Fd.vidSrcYY h l))
    ((y : Int) - vidDstY s h l).toNat

/-- The layer filters: CTRL.filt 0 on a head with a scaler (R183, R185). -/
def vidFilters (s : State) (h l : Nat) : Bool := s.variant.scaler && decide (fget s (Fd.vidCtrlFilt h l) = 0)

/-- The source rows that line `y` of the layer reads (R183, R186). -/
def vidRows (s : State) (h l y : Nat) : List Nat :=
  let o := fget s (Fd.vidSrcYY h l)
  let n := fget s (Fd.vidSrcHH h l)
  let j := (vidYPos s h l y).1
  if vidFilters s h l then NSet.norm ((List.range 6).map fun (m : Nat) => clampInto o n ((j : Int) - 2 + (m : Nat)))
  else [clampInto o n j]

/-- A step latched outside its range (R185, R480 case 4). -/
def vidStepBad (s : State) (h l : Nat) : Bool :=
  let out := fun v => decide (v < 0x2000 ∨ 0x80000 < v)
  s.variant.scaler && (out (fget s (Fd.vidStepXStep h l)) || out (fget s (Fd.vidStepYStep h l)))

/-- A source pixel of the rows fetched for the frame. -/
def vidSource (s : State) (h l col row : Nat) : Pix :=
  let fmt := fget s (Fd.vidCtrlFmt h l)
  let d := Sparse.get [] (l * 65536 + row) (headOf s h).rows
  let raw := rowPixel d (fmtBits fmt) col
  colourOf s fmt (rget s (Adr.vidAlpha h l)).toNat 0 false raw.1 raw.2

/-- A filtered component: rounded, and clamped to its range. -/
def filtered (sum : Int) (top : Nat) : Nat :=
  let v := (sum + 32768) / 65536
  if v < 0 then 0 else min top v.toNat

/-- The pixel of video layer `l` at (x, y). -/
def vidPix (s : State) (h l x y : Nat) : Pix :=
  if !vidShows s h l || !vidInside s h l x y then Pix.clear
  else
    let add := fbit s (Fd.vidCtrlAdd h l)
    let xp := vidXPos s h l x
    let yp := vidYPos s h l y
    let ox := fget s (Fd.vidSrcXX h l)
    let nx := fget s (Fd.vidSrcWW h l)
    let oy := fget s (Fd.vidSrcYY h l)
    let ny := fget s (Fd.vidSrcHH h l)
    if vidStepBad s h l then
      let f := (Config.openOf 2 (((s.clock * 64 + h * 8 + l) * 16384 + x) * 8192 + y)).toNat
      { Pix.clear with r := f % 1024, g := f / 1024 % 1024, b := f / 2 ^ 20 % 1024, pa := f / 2 ^ 30 % 256, add := add }
    else if vidFilters s h l then
      let taps := (List.range 6).flatMap fun (m : Nat) => (List.range 8).map fun (k : Nat) =>
        (coef s h l 1 yp.2 m * coef s h l 0 xp.2 k,
          vidSource s h l (clampInto ox nx ((xp.1 : Int) - 3 + k)) (clampInto oy ny ((yp.1 : Int) - 2 + m)))
      let sum := fun (f : Pix → Nat) => taps.foldl (fun a t => a + t.1 * (f t.2 : Int)) 0
      { Pix.clear with
        r := filtered (sum Pix.r) 1023, g := filtered (sum Pix.g) 1023, b := filtered (sum Pix.b) 1023,
        pa := filtered (sum Pix.pa) 255, add := add, bad := taps.any fun t => t.2.bad }
    else { vidSource s h l (clampInto ox nx xp.1) (clampInto oy ny yp.1) with add := add }

/-! ### Sprites (R206-R209, R216) -/

def SprEntry.x (e : SprEntry) : Int := signedN 15 (bits e.q0 14 0)
def SprEntry.fmt (e : SprEntry) : Nat := bits e.q1 9 7
def SprEntry.w (e : SprEntry) : Nat := 8 * (bits e.q1 14 10 + 1)
def SprEntry.prio (e : SprEntry) : Nat := bits e.q1 24 23
def SprEntry.plane (e : SprEntry) : Nat := bits e.q1 25 25

/-- The pattern column that the sprite shows at output column `x`, if it covers it. -/
def sprColumn (e : SprEntry) (x : Nat) : Option Nat :=
  let i := (x : Int) - e.x
  if 0 ≤ i ∧ i < e.w then some (if bit e.q1 20 then e.w - 1 - i.toNat else i.toNat) else none

/-- The sprite's own pixel at column `x` (R209). -/
def sprOwn (s : State) (h : Nat) (e : SprEntry) (d : List (Byte × Bool)) (x : Nat) : Option Pix :=
  (sprColumn e x).map fun i =>
    let w := fmtBits e.fmt
    let raw := rowPixel d w i
    let pal := fget s (Fd.planePalBaseBase h e.plane) + bits e.q1 6 1 * 2 ^ w
    let q := colourOf s e.fmt (rget s (Adr.planeAlpha h e.plane)).toNat pal false raw.1 raw.2
    { q with pa := q.pa * (bits e.q2 29 22 + 1) / 256, sprite := some e.prio, add := fbit s (Fd.planeCtrlAdd h e.plane) }

/-- The plane's pixel at column `x`: the first sprite in sprite order with a non-zero alpha there (R212, R216). -/
def planePix (s : State) (h p x : Nat) : List DrawnSprite → Pix
  | [] => { Pix.clear with sprite := some 3, add := fbit s (Fd.planeCtrlAdd h p) }
  | e :: t =>
    if e.1.plane ≠ p then planePix s h p x t
    else match sprOwn s h e.1 e.2 x with
      | some q => if q.pa ≠ 0 || q.bad then q else planePix s h p x t
      | none => planePix s h p x t

/-! ### The layer stack (R170, R171, R188, R217) -/

def stackCode (s : State) (h i : Nat) : Nat :=
  if i < 5 then bits (fget s (Fd.joinStack0Slots04 h)) (4 * i + 3) (4 * i)
  else if i < 10 then bits (fget s (Fd.joinStack1Slots59 h)) (4 * (i - 5) + 3) (4 * (i - 5))
  else bits (fget s (Fd.joinStack2Slots1013 h)) (4 * (i - 10) + 3) (4 * (i - 10))

def layerEnabled (s : State) (h c : Nat) : Bool :=
  if c < 4 then fbit s (Fd.vidCtrlEn h c)
  else if c < 12 then fbit s (Fd.tilCtrlEn h (c - 4))
  else if c < 14 then fbit s (Fd.planeCtrlEn h (c - 12))
  else false

/-- The composed layers in slot order, bottom first: each at its lowest slot, enabled layers only. -/
def layerStack (s : State) (h : Nat) : List Nat :=
  if !fbit s (Fd.joinJcfgEn h) then []
  else ((List.range 14).foldl (fun a i =>
    let c := stackCode s h i
    if c ∈ a then a else a ++ [c]) []).filter (layerEnabled s h)

/-- Layer `c` covers column `x` of the line (R188, R217). -/
def layerCovers (s : State) (h : Nat) (k : Compose) (c x : Nat) : Bool :=
  if c < 4 then fbit s (Fd.vidCtrlOpaque h c) && !fbit s (Fd.vidCtrlAdd h c) && vidInside s h c x k.y
  else if c < 12 then
    let l := c - 4
    fbit s (Fd.tilCtrlHintEn h l) && !fbit s (Fd.tilCtrlAdd h l) && tileClip s h l x &&
      bit (tileEntry s (tilePlace s h l x k.y).1) 28
  else
    let p := c - 12
    fbit s (Fd.planeCtrlCoverEn h p) && !fbit s (Fd.planeCtrlAdd h p) &&
      k.sprites.any fun e => decide (e.1.plane = p) && bit e.1.q1 22 && (sprColumn e.1 x).isSome

/-- The columns of span `i` of a line of `w` pixels. -/
def spanCols (w i : Nat) : List Nat := ((List.range 32).map (32 * i + ·)).filter fun x => decide (x < w)

/-- The layers above and with the highest layer that hides the span (R188). -/
def spanLayers (s : State) (h : Nat) (k : Compose) (cols : List Nat) : List Nat → List Nat
  | [] => []
  | c :: t =>
    if t.any (fun d => cols.all (layerCovers s h k d)) then spanLayers s h k cols t else c :: t

def layerPix (s : State) (h : Nat) (k : Compose) (c x : Nat) : Pix :=
  if c < 4 then vidPix s h c x k.y
  else if c < 12 then tilePix s h (c - 4) x k.y
  else planePix s h (c - 12) x k.sprites

/-! ### Blending (R172) -/

/-- Tiles below a sprite pixel whose priority is above it move to directly above it. -/
def liftTiles : List Pix → List Pix → List Pix
  | below, [] => below
  | below, q :: t =>
    match q.sprite with
    | none => liftTiles (below ++ [q]) t
    | some p =>
      let hides := fun (b : Pix) => match b.tile with
        | some v => decide (p < v)
        | none => false
      liftTiles (below.filter (fun b => !hides b) ++ [q] ++ below.filter hides) t

/-- One component of the background `c` under pixel `q` of value `v`. -/
def blend1 (add : Bool) (pa c v : Nat) : Nat :=
  let a := pa + pa / 128
  if add then min 1023 (c + v * a / 256) else (v * a + c * (256 - a) + 128) / 256

def blend (c : Nat × Nat × Nat) (q : Pix) : Nat × Nat × Nat :=
  (blend1 q.add q.pa c.1 q.r, blend1 q.add q.pa c.2.1 q.g, blend1 q.add q.pa c.2.2 q.b)

def packRgb (c : Nat × Nat × Nat) : Nat := c.1 * 2 ^ 20 + c.2.1 * 2 ^ 10 + c.2.2

/-- The background colour in effect, packed. -/
def bgOf (s : State) (h : Nat) : Nat :=
  packRgb (fget s (Fd.joinBgR h), fget s (Fd.joinBgG h), fget s (Fd.joinBgB h))

/-- One span of a line: its pixels, or background where a read it needs failed (R187). -/
def spanPixels (s : State) (h : Nat) (k : Compose) (w i : Nat) : List Nat :=
  let cols := spanCols w i
  let ls := spanLayers s h k cols (layerStack s h)
  let px := cols.map fun x => ls.map fun c => layerPix s h k c x
  let bg := (fget s (Fd.joinBgR h), fget s (Fd.joinBgG h), fget s (Fd.joinBgB h))
  if px.any (fun l => l.any Pix.bad) then cols.map fun _ => packRgb bg
  else px.map fun l => packRgb ((liftTiles [] l).foldl blend bg)

def hactive (s : State) (h : Nat) : Nat := fget s (Fd.headHactiveHactive h)
def vactive (s : State) (h : Nat) : Nat := fget s (Fd.headVactiveVactive h)

/-- The spans of a line. -/
def spanCount (s : State) (h : Nat) : Nat := (hactive s h + 31) / 32

end Sys2Proof.Machine
end

