-- ==== Sys2Proof/Machine/HeadCtl.lean ====
section
/-! DEFINITION. Head control (09_heads.md): modes, start and stop, output delay, the DisplayPort link and AUX, and the
sprite evaluator with the pattern cache (08_sprites_raster.md R206-R215, R200). -/

namespace Sys2Proof.Machine

/-! ### The pattern cache (R200) -/

/-- The cache's set of a line: 24 MiB in 16 ways of 256 bytes make 6,144 sets (DESIGN CHOICE, log entry 24). -/
def cacheSet (line : Nat) : Nat := line % 6144

def cached (s : State) (line : Nat) : Bool := NSet.has line s.cache.lines

/-- A read moves its line to the front. -/
def cacheTouch (s : State) (line : Nat) : State :=
  if cached s line then
    { s with cache := { s.cache with lines := line :: s.cache.lines.filter fun x => decide (x ≠ line) } }
  else s

/-- A line comes in from DRAM; the least recently used of a full set leaves. -/
def cacheFill (s : State) (line : Nat) : State :=
  let r := dramRead s (256 * line) 256
  let s := r.2.2
  let old := s.cache.lines.filter fun x => decide (x ≠ line)
  let mine := old.filter fun x => decide (cacheSet x = cacheSet line)
  let out := mine.drop 15
  let keep := old.filter fun x => !NSet.has x out
  let still := fun (l : List Nat) => l.filter fun x => decide (x ≠ line) && !NSet.has x out
  let bad := still s.cache.bad
  { s with cache :=
      { lines := line :: keep, bad := if r.2.1 then line :: bad else bad, sram := still s.cache.sram } }

/-- Those of the lines to be read in which the cache's own memory has an uncorrectable error. -/
def sramBad (s : State) (lines : List Nat) : List Nat := lines.filter fun l => cached s l && NSet.has l s.cache.sram

/-- Such a line is dropped, to be fetched again, and counts as corrected (R318). -/
def sramDrop (s : State) (lines : List Nat) : State := lines.foldl (fun s l => raise (cacheDrop s l) bayChip 3) s

/-- The lines of the bytes `lo` to `hi` of DRAM; bytes beyond MEM_TOP have no line. -/
def linesOf (s : State) (lo hi : Nat) : List Nat :=
  ((List.range (hi / 256 - lo / 256 + 1)).map fun i => lo / 256 + i).filter fun l => decide (256 * l < s.mem.top)

/-- Pattern reads of a list of lines, of which `misses` missed: the counters and the order of use. -/
def countReads (s : State) (reads : List Nat) (misses : Nat) : State :=
  reads.foldl cacheTouch (fcount s Fd.pcHitsCount (reads.length - misses))

/-! ### Sprite evaluation (R206-R213) -/

def sprQuarter (s : State) (e j : Nat) : Nat := (rget s (0x2400000 + 16 * e + 4 * j)).toNat

def sprY (q0 : Nat) : Int := signedN 14 (bits q0 29 16)
def sprH (q1 : Nat) : Nat := 8 * (bits q1 19 15 + 1)

/-- Entry `e` lies on screen line `y` of head `h` (R208). -/
def sprOn (s : State) (h e y : Nat) : Bool :=
  let q0 := sprQuarter s e 0
  let q1 := sprQuarter s e 1
  let x := signedN 15 (bits q0 14 0)
  bit (bits q1 31 26) h && decide (bits q1 9 7 ≠ 7) &&
  decide (sprY q0 ≤ y ∧ (y : Int) < sprY q0 + sprH q1) &&
  decide (-(8 * (bits q1 14 10 + 1) : Nat) < x ∧ x < hactive s h)

/-- The entry as it is drawn on line `y`, with PAT_BASE of the two planes. -/
def sprEntry (s : State) (pat : Nat × Nat) (e y : Nat) : SprEntry :=
  let q0 := sprQuarter s e 0
  let q1 := sprQuarter s e 1
  let q2 := sprQuarter s e 2
  let r := ((y : Int) - sprY q0).toNat
  let row := if bit q1 21 then sprH q1 - 1 - r else r
  let w := 8 * (bits q1 14 10 + 1)
  { q0 := q0, q1 := q1, q2 := q2, row := row,
    addr := (if bit q1 25 then pat.2 else pat.1) * 256 + bits q2 21 0 * 16 +
      row * (w * fmtBits (bits q1 9 7) / 8) }

/-- Entries off zero, or with an error: the others show on no head. -/
def sprTouched (s : State) : List Nat :=
  NSet.norm (touched s 0x2400000 16 16384 ++
    ((s.dispBad ++ s.dispOne).filter fun o => decide (0x2400000 ≤ o ∧ o < 0x2440000)).map fun o => (o - 0x2400000) / 16)

def sprMarked (l : List Nat) (e : Nat) : Bool := l.any fun o => decide (0x2400000 + 16 * e ≤ o ∧ o < 0x2400000 + 16 * e + 16)

/-- Insertion by a rising key. -/
def insertKey {α : Type} (p : Nat × α) : List (Nat × α) → List (Nat × α)
  | [] => [p]
  | q :: t => if p.1 < q.1 then p :: q :: t else q :: insertKey p t

/-- The entries of the scan range with their scan positions, in scan order (R210). -/
def sprScan (s : State) (first count : Nat) : List (Nat × Nat) :=
  (((sprTouched s).map fun e => ((e + 16384 - first) % 16384, e)).filter fun p => decide (p.1 < count)).foldl
    (fun a p => insertKey p a) []

/-- The pattern columns that the sprite draws in the active line. -/
def sprDrawn (s : State) (h : Nat) (e : SprEntry) : List Nat :=
  (List.range e.w).filter fun (i : Nat) => decide (0 ≤ e.x + (i : Int) ∧ e.x + (i : Int) < hactive s h)

/-- The cache lines that a sprite's drawn columns read. -/
def sprLines (s : State) (h : Nat) (e : SprEntry) : List Nat :=
  let cs := sprDrawn s h e
  match cs.head?, cs.getLast? with
  | some a, some b =>
    let w := fmtBits e.fmt
    let lo := if bit e.q1 20 then e.w - 1 - b else a
    let hi := if bit e.q1 20 then e.w - 1 - a else b
    linesOf s (e.addr + lo * w / 8) (e.addr + (hi * w + w - 1) / 8)
  | _, _ => []

/-- The cycles that a sprite takes to draw while its patterns hit (R212). -/
def sprTime (s : State) (h : Nat) (e : SprEntry) : Nat := 4 + ((sprDrawn s h e).length + 7) / 8

/-- The sprites of the scan positions `lo` to below `hi` that lie on the evaluation's line, by rank: higher prio, then
lower position (R211). Entries with an uncorrectable error are skipped (R215). -/
def sprFind (s : State) (h : Nat) (v : SprEval) (lo hi : Nat) : List (Nat × SprEntry) :=
  (((sprScan s v.first v.count).filter fun p => decide (lo ≤ p.1 ∧ p.1 < hi) && !sprMarked s.dispBad p.2 &&
    sprOn s h p.2 v.y).map fun p =>
      ((3 - bits (sprQuarter s p.2 1) 24 23) * 16384 + p.1, sprEntry s v.pat p.2 v.y)).foldl
    (fun a p => insertKey p a) v.found

/-- What the reads of the positions `lo` to below `hi` report (R215). -/
def sprReports (s : State) (h : Nat) (v : SprEval) (lo hi : Nat) : State :=
  let here := (sprScan s v.first v.count).filter fun p => decide (lo ≤ p.1 ∧ p.1 < hi)
  let s' := if here.any (fun p => sprMarked s.dispBad p.2) then raise (fon s (Fd.sprStatPoison h)) bayChip 4 else s
  raiseIf s' (here.any fun p => sprMarked s.dispOne p.2 && !sprMarked s.dispBad p.2) bayChip 3

/-- The scan ends: the first 320 in sprite order are listed (R211). -/
def sprList (v : SprEval) : SprEval :=
  { v with listed := true, rest := (v.found.map Prod.snd).take 320, dropped := v.found.length - 320 }

/-- The evaluation of line `n`, screen line `y`, begins (R210). The one that a head start waits for takes the values last
written (DEDUCED, log entry 41). -/
def sprEvaluate (s : State) (h n y first count : Nat) (waits : Bool) : State :=
  let pat := fun p => if waits then wfield s (Fd.planePatBaseBase h p) else fget s (Fd.planePatBaseBase h p)
  let v : SprEval :=
    { line := n, y := y, at' := s.clock, first := first, count := min count 16384, pat := (pat 0, pat 1), found := [],
      listed := false, dropped := 0, rest := [], cur := none, drawn := [], fills := [], waits := waits }
  setHead s h { headOf s h with eval := some (if v.count = 0 then sprList v else v) }

/-- The evaluator reads 16 entries in cycle c + 1 + k / 16, with no stall (R210, R214; log entry 41). -/
def sprScanCycle (s : State) (h : Nat) (v : SprEval) : State :=
  let j := 16 * (s.clock - v.at' - 1)
  let v' := { v with found := sprFind s h v j (j + 16) }
  let s := sprReports s h v j (j + 16)
  setHead s h { headOf s h with eval := some (if v.count ≤ j + 16 then sprList v' else v') }

/-- A poisoned pattern read of a sprite, or one with an error (R215, R308). -/
def sprPatMarks (s : State) (h : Nat) (d : DrawnSprite) : State :=
  if !(d.2.any fun b => b.2) then s
  else
    let s' := fon s (Fd.planeStatPoison h d.1.plane)
    raise s' bayChip (if s.mem.top < d.1.addr + d.2.length then 5 else 4)

/-- The next listed sprite is drawn once every line it reads is in the cache; a miss stalls it (R212, R200). -/
def sprDraw (s : State) (h : Nat) (v : SprEval) : State :=
  match v.rest with
  | [] => setHead s h { headOf s h with eval := some v }
  | e :: r =>
    let lines := sprLines s h e
    let lost := sramBad s lines
    let s := sramDrop s lost
    let v := { v with fills := v.fills.filter fun l => !NSet.has l lost }
    if !lines.all (cached s) then setHead s h { headOf s h with eval := some v }
    else
      let d : DrawnSprite := (e, patRow s e.addr (e.w * fmtBits e.fmt / 8))
      let s := countReads s lines (v.fills.filter fun l => NSet.has l lines).length
      let s := sprPatMarks s h d
      setHead s h { headOf s h with
        eval := some { v with rest := r, cur := some (s.clock + sprTime s h e, d), fills := v.fills.filter fun l => !NSet.has l lines } }

/-- One cycle of a head's evaluator. -/
def sprCycle (s : State) (h : Nat) : State :=
  match (headOf s h).eval with
  | none => s
  | some v =>
    if !v.listed then sprScanCycle s h v
    else match v.cur with
      | some (f, d) => if f ≤ s.clock then sprDraw s h { v with cur := none, drawn := v.drawn ++ [d] } else s
      | none => sprDraw s h v

/-- Every listed sprite is drawn. -/
def sprAllDrawn (v : SprEval) : Bool := v.listed && v.rest.isEmpty && v.cur.isNone

/-- How many sprites the limit drops, and how many are late: the one being drawn and those after it. A scan that has not
ended counts as if its other entries were read now (DESIGN CHOICE, log entry 41). -/
def sprDrops (s : State) (h : Nat) (v : SprEval) : Nat × Nat :=
  if v.listed then (v.dropped, v.rest.length + v.cur.toList.length)
  else
    let n := (sprFind s h v (16 * (s.clock - v.at')) v.count).length
    (n - 320, min 320 n)

/-- The sprites that a line shows, with what the drops report (R212, R213). -/
def sprFinish (s : State) (h n : Nat) : State × List DrawnSprite :=
  match (headOf s h).eval with
  | some v =>
    if v.line = n then
      let r := sprDrops s h v
      let s := if r.1 ≠ 0 then fon s (Fd.sprStatLimit h) else s
      let s := if r.2 ≠ 0 then fon s (Fd.sprStatLate h) else s
      let s := if r.1 + r.2 ≠ 0 then
          let s := fcount s (Fd.sprDroppedCount h) (r.1 + r.2)
          let s := fset s (Fd.sprLastLine h) n
          raise (fireIf s (fbit s (Fd.headEvEn h 4)) (fget s (Fd.headEvChan h 4))) bayChip 6
        else s
      (fset s (Fd.sprListShown h) v.drawn.length, v.drawn)
    else (fset s (Fd.sprListShown h) 0, [])
  | none => (fset s (Fd.sprListShown h) 0, [])

/-! ### Modes (R221-R225) -/

def headRunning (s : State) (h : Nat) : Bool := fbit s (Fd.headHstatRunning h)

/-- Dual-link LVDS is in use: its rules of even values hold. -/
def headDual (s : State) (h : Nat) : Bool := decide (4 ≤ h) && decide (headOut s h = 0) && fbit s (Fd.headLvdsCfgDual h)

/-- JCFG.lead in use (R202). -/
def leadOf (s : State) (h : Nat) : Nat := max 2 (min 8 (fget s (Fd.joinJcfgLead h)))

/-- The fastest pixel clock of a head's output in kHz (R221). -/
def pclkLimit (s : State) (h : Nat) : Nat := if h < 4 then 1350000 else if headDual s h then 170000 else 85000

/-- No rule of R223 is broken, by the values last written. -/
def modeOk (s : State) (h : Nat) : Bool :=
  let ha := hactive s h
  let ht := wfield s (Fd.headHtotalHtotal h)
  let hs := fget s (Fd.headHsyncHsStart h)
  let hw := fget s (Fd.headHsyncHsWidth h)
  let va := vactive s h
  let vt := wfield s (Fd.headVtotalVtotal h)
  let vs := fget s (Fd.headVsyncVsStart h)
  let vw := fget s (Fd.headVsyncVsWidth h)
  let k := fget s (Fd.headPclkKhz h)
  let src := fget s (Fd.headSyncCfgSrc h)
  decide (64 ≤ ha ∧ ha ≤ 8192) && decide (ha + 32 ≤ ht ∧ ht ≤ 16384) &&
  decide (ha ≤ hs ∧ 8 ≤ hw ∧ hs + hw ≤ ht) && decide (16 ≤ va ∧ va ≤ 8189) &&
  decide (va + 3 ≤ vt ∧ vt ≤ 8192) && decide (va ≤ vs ∧ 1 ≤ vw ∧ vs + vw ≤ vt) &&
  (decide (headOut s h = 1) || decide (1000 ≤ k ∧ k ≤ pclkLimit s h)) &&
  (!headDual s h || decide (ha % 2 = 0 ∧ ht % 2 = 0 ∧ hs % 2 = 0 ∧ hw % 2 = 0)) &&
  (!fbit s (Fd.headHctrlInterlace h) || decide (ht % 2 = 0)) &&
  (decide (src ≠ 4) || decide (headOut s h = 1)) &&
  (decide (src ≠ 2) || decide (fget s (Fd.headSyncCfgLeader h) ≠ h))

/-- The frame period in ps at the steered rate, and the period of a bus slot (R226, R229, R242). -/
def framePs (s : State) (h : Nat) : Nat :=
  let t := beamTotalsOf s h
  if headOut s h = 1 then t.1 * t.2 * (fget s (Fd.headParCfgTwLo h) + fget s (Fd.headParCfgTwHi h)) * 1000
  else
    let rate := ((fget s (Fd.headPclkKhz h) : Int) * (1000000 + signedN 16 (fget s (Fd.headPclkStatPpm h)))).toNat
    if rate = 0 then 0 else t.1 * t.2 * 10 ^ 15 / rate

/-! ### Start and stop (R227, R228) -/

/-- An accepted run write: running, the pixel clock, acquisition, and the evaluation of line 0. -/
def headBegin (s : State) (h : Nat) : State :=
  let s := setHead s h { HeadUnit.reset with runAt := s.clock }
  let s := fset (fset (fon s (Fd.headHstatRunning h)) (Fd.headHstatStopping h) 0) (Fd.headPclkStatLocked h) 0
  let s := fset s (Fd.headPclkStatPpm h) 0
  let s := fset s (Adr.headSyncStat h |> fun a => { off := a, hi := 19, lo := 0 }) 0
  let s := fset s (Fd.headSyncStatAcquiring h) (boolNat (decide (fget s (Fd.headSyncCfgSrc h) ≠ 0)))
  if wfield s (Fd.sprEvalEn h) ≠ 0 then
    let y := if fbit s (Fd.headHctrlInterlace h) then tlLapCount s (h + 1) % 2 else 0
    sprEvaluate s h 0 y (wfield s (Fd.sprFirstFirst h)) (wfield s (Fd.sprEvalCount h)) true
  else s

/-- The head stops: composition, line buffer and beam timeline end (R228). -/
def headEnd (s : State) (h : Nat) : State :=
  let s := setHead s h HeadUnit.reset
  let s := fset (fset s (Fd.headHstatRunning h) 0) (Fd.headHstatStopping h) 0
  let s := fset s (Fd.headPclkStatLocked h) 0
  let s := fset (fset s (Fd.headSyncStatLocked h) 0) (Fd.headSyncStatAcquiring h) 0
  let s := fset (fset s (Fd.headSyncStatHoldover h) 0) (Fd.headSyncStatMiss h) 0
  let s := fset s (Fd.tlCfgRun (h + 1)) 0
  setTl s (h + 1) { tlOf s (h + 1) with pos := 0 }

/-- The run bit as a write leaves it, `run` being its value before. -/
def headRun (s : State) (h : Nat) (want : Bool) : State :=
  if want then
    if fbit s (Fd.headHstatStopping h) then fset s (Fd.headHstatStopping h) 0
    else if headRunning s h then s
    else if modeOk s h then headBegin s h
    else fon (fset s (Fd.headHctrlRun h) 0) (Fd.headHstatBadMode h)
  else if !headRunning s h then s
  else if (headOf s h).placed then fon s (Fd.headHstatStopping h)
  else headEnd s h

/-! ### DisplayPort (R235-R240) -/

/-- The payload rate of a lane in kb/s (R237). -/
def dpPayload : Nat → Nat
  | 0 => 1296000 | 1 => 2160000 | 2 => 4320000 | 3 => 6480000 | 4 => 9671000 | _ => 13056000

def dpLanes : Nat → Nat
  | 0 => 1 | 1 => 2 | _ => 4

/-- DP_CTRL.rate; 6-15 are reserved and act as one of the six. -/
def dpRate (s : State) (h : Nat) : Nat :=
  let v := fget s (Fd.headDpCtrlRate h)
  if 6 ≤ v then openField s (Fd.headDpCtrlRate h) 6 else v

/-- A link of this rate and lane count (DP_STAT's codes) carries a pixel clock in kHz (R237). -/
def dpCarries (rate lanes khz bpc : Nat) : Bool :=
  decide (100 * (khz * 3 * bpc) ≤ 98 * dpLanes lanes * dpPayload rate)

/-- DP_STAT.too_slow: a trained link that the mode does not fit. -/
def dpTooSlow (s : State) (h : Nat) : Bool :=
  fbit s (Fd.headDpStatTrained h) &&
  !dpCarries (fget s (Fd.headDpStatRate h)) (fget s (Fd.headDpStatLanes h)) (fget s (Fd.headPclkKhz h))
    (if fbit s (Fd.joinJcfgOutBpc h) then 10 else 8)

/-- What a link's transmitter sends (R228, R237, R238, R243): nothing before it is configured and while the main domain is
down, the training procedure, the idle pattern, or the stream. -/
inductive LinkOut where
  | highZ | training | idle | stream
deriving DecidableEq, Repr

/-- The DisplayPort link of H0-H3. It is configured by DP_CTRL.en (DEDUCED, log entry 61). -/
def dpOut (s : State) (h : Nat) : LinkOut :=
  if !mainUp s || !fbit s (Fd.headDpCtrlEn h) then .highZ
  else if fbit s (Fd.headDpStatTraining h) then .training
  else if fbit s (Fd.headDpStatTrained h) && !dpTooSlow s h && (headOf s h).placed then .stream
  else .idle

/-- The LVDS links of H4, and of H5 with HCTRL.out 0: the clock runs in the idle state too. -/
def lvdsOut (s : State) (h : Nat) : LinkOut :=
  if !mainUp s || !fbit s (Fd.headLvdsCfgEn h) || decide (headOut s h ≠ 0) then .highZ
  else if (headOf s h).placed then .stream
  else .idle

/-- OUT_DELAY (R235). -/
def outDelay (s : State) (h : Nat) : Nat :=
  if h < 4 then
    let r := if fbit s (Fd.headDpStatTrained h) then fget s (Fd.headDpStatRate h) else dpRate s h
    if 4 ≤ r then 270 else 310
  else if headOut s h = 1 then 6 else 45

/-- HSTAT.loop: the chain of leaders returns to this head (R231). -/
def headLoop (s : State) (h : Nat) : Bool := chain 6 (fget s (Fd.headSyncCfgLeader h))
where
  chain : Nat → Nat → Bool
    | 0, _ => false
    | n + 1, k =>
      decide (fget s (Fd.headSyncCfgSrc h) = 2) &&
      (decide (k = h) || (decide (k < 6) && decide (fget s (Fd.headSyncCfgSrc k) = 2) &&
        chain n (fget s (Fd.headSyncCfgLeader k))))

/-- A head event bit (R234), which hardware sets (R7). -/
def hevt (s : State) (h i : Nat) : State :=
  let s := noteSet s (Fd.headHevtBits h).off (rget s (Fd.headHevtBits h).off).toNat (2 ^ i)
  fset s (Fd.headHevtBits h) (fget s (Fd.headHevtBits h) ||| 2 ^ i)

/-- H0-H3, where they are present. -/
def dpHead (s : State) (h : Nat) : Bool := s.variant.head h && decide (h < 4)

/-- DP_TRAIN.go (R238). -/
def dpGo (s : State) (h : Nat) : State :=
  fon s (Fd.headDpStatTraining h)

/-- An AUX_CMD write that starts a transaction, or finds one running (R240). -/
def auxStart (s : State) (m : Master) (h v : Nat) : State :=
  if fbit s (Fd.headAuxStatBusy h) then refuseChip s m (Adr.headAuxCmd h)
  else
    let s := rput s (Adr.headAuxCmd h) (BitVec.ofNat 32 (v % 2 ^ 32 &&& 0xFFFFFF0F))
    setHead (fon s (Fd.headAuxStatBusy h)) h { headOf s h with auxTries := 0 }

/-- The transaction ends. -/
def auxEnd (s : State) (h reply count : Nat) : State :=
  let s := fset (fset (fset s (Fd.headAuxStatBusy h) 0) (Fd.headAuxStatReply h) reply) (Fd.headAuxStatCount h) count
  hevt s h 3

/-- The read data of a transaction goes to AUX_DATA. -/
def auxData (s : State) (h : Nat) (d : List Byte) : State :=
  (List.range d.length).foldl (fun s k =>
    fset s { off := Adr.headAuxData h (k / 4), hi := 8 * (k % 4) + 7, lo := 8 * (k % 4) } (d.getD k 0).toNat) s

/-! ### Coefficients (R184, R185) -/

/-- COEF_IDX moves on to the next tap, then the next phase. -/
def coefAdvance (s : State) (h l : Nat) : State :=
  let v := fget s (Fd.vidCoefIdxV h l)
  let tap := fget s (Fd.vidCoefIdxTap h l) + 1
  if (if v = 1 then 6 else 8) ≤ tap then
    fset (fset s (Fd.vidCoefIdxTap h l) 0) (Fd.vidCoefIdxPhase h l) (fget s (Fd.vidCoefIdxPhase h l) + 1)
  else fset s (Fd.vidCoefIdxTap h l) tap

/-- The coefficient at COEF_IDX. -/
def coefRead (s : State) (h l : Nat) : Nat :=
  coefRaw s h l (fget s (Fd.vidCoefIdxV h l)) (fget s (Fd.vidCoefIdxPhase h l)) (fget s (Fd.vidCoefIdxTap h l))

/-- A COEF_DATA write, Stop-class. -/
def coefWrite (s : State) (h l c : Nat) : State :=
  let v := fget s (Fd.vidCoefIdxV h l)
  let ph := fget s (Fd.vidCoefIdxPhase h l)
  let tap := fget s (Fd.vidCoefIdxTap h l)
  if fbit s (Fd.vidCtrlEn h l) then
    if c % 1024 = coefRead s h l % 1024 then s else stopIgnored s (Adr.vidCoefData h l) bayChip
  else
    let s := if v = 1 ∧ 6 ≤ tap then s else
      { s with coefs := Sparse.put (coefReset v ph tap) (coefKey h l v ph tap) (c % 1024) s.coefs }
    coefAdvance s h l

end Sys2Proof.Machine
end

