-- ==== Sys2Proof/Machine/Audio.lean ====
section
/-! DEFINITION. The audio system (10_audio.md): voices, envelopes, sends, buses, meters, inputs, outputs, and the
computation of one sample at a sample boundary. -/

namespace Sys2Proof.Machine

def voiceOf (s : State) (v : Nat) : Voice := Sparse.get Voice.reset v s.aud.voices
def setVoice (s : State) (v : Nat) (u : Voice) : State :=
  { s with aud := { s.aud with voices := Sparse.put Voice.reset v u s.aud.voices } }
def meterOf (s : State) (b : Nat) : BusMeter := Sparse.get BusMeter.reset b s.aud.meters
def setMeter (s : State) (b : Nat) (u : BusMeter) : State :=
  { s with aud := { s.aud with meters := Sparse.put BusMeter.reset b u s.aud.meters } }

/-- The voices that compute at the rate in effect (R250). -/
def voicesAt (s : State) : Nat := if fbit s Fd.audCfgRate then s.variant.voices48 / 2 else s.variant.voices48

/-- A signed value in 20 bits. -/
def clamp20 (x : Int) : Int := clampN 20 x

/-- |x| held in 19 bits (R264, R277). The spec gives no result for the most negative value: a free value (DESIGN CHOICE, log entry 2). -/
def mag19 (s : State) (x : Int) : Nat × State :=
  if x.natAbs < 2 ^ 19 then (x.natAbs, s) else ((draw s).toNat % 2 ^ 19, drew s)

/-! ### Samples (R251-R253) -/

/-- What a sample read gives: the value, and whether it was poisoned or an error (R259). -/
structure SampleRead where
  x : Int
  poison : Bool
  err : Bool
deriving DecidableEq, Repr

/-- Bytes of DRAM for a sample: an error beyond MEM_TOP. -/
def sampleBytes (s : State) (a n : Nat) : List Byte × Bool × Bool × State :=
  if s.mem.top < a + n then ([], false, true, s)
  else
    let r := dramRead s a n
    (r.1, r.2.1, false, r.2.2)

def adpcmStep (j : Nat) : Nat := [16, 17, 19, 21, 23, 25, 27, 29].getD (j % 8) 16 * 2 ^ (j / 8)

def adpcmAdj (n : Nat) : Int := [-1, -1, -1, -1, 2, 4, 6, 8].getD (n % 8) 0

/-- One nibble from predictor and step index (R253). -/
def adpcmDecode (pj : Int × Nat) (n : Nat) : Int × Nat :=
  let d : Int := ((2 * (n % 8) + 1) * adpcmStep pj.2 / 8 : Nat)
  let p := clamp20 (if bit n 3 then pj.1 - d else pj.1 + d)
  let j := (pj.2 : Int) + adpcmAdj n
  (p, if j < 0 then 0 else min 119 j.toNat)

/-- Sample `k` of an ADPCM block from its bytes (R252). -/
def adpcmSample (bs : List Byte) (k : Nat) : Int :=
  let h := leNat (bs.take 4)
  let nib := fun (m : Nat) => bits (bs.getD (4 + m / 2) 0).toNat (4 * (m % 2) + 3) (4 * (m % 2))
  ((List.range (k + 1)).foldl (fun pj m => adpcmDecode pj (nib m)) (signedN 20 h, min 119 (bits h 26 20))).1

/-- START of a voice (R251). -/
def voiceStart (s : State) (v : Nat) : Nat := fget s (Fd.vStartHiHi v) * 2 ^ 20 + fget s (Fd.vStartLoLo v)

/-- Where sample `i` lies: its first byte, and how many bytes the voice reads for it. -/
def sampleAt (fmt i : Nat) : Nat × Nat :=
  match fmt with
  | 0 => (i, 1)
  | 1 => (2 * i, 2)
  | 2 => (5 * (i / 2), 5)
  | _ => (36 * (i / 64), 4 + (i % 64) / 2 + 1)

/-- The value of sample `i` from its bytes. -/
def sampleValue (fmt i : Nat) (bs : List Byte) : Int :=
  match fmt with
  | 0 => signedN 8 (leNat bs) * 4096
  | 1 => signedN 16 (leNat bs) * 16
  | 2 => signedN 20 (if i % 2 = 0 then leNat bs else leNat bs / 2 ^ 20)
  | _ => adpcmSample bs (i % 64)

/-- s(i) of a voice; a poisoned sample and one with an error read as 0 (R259). -/
def readSample (s : State) (v i : Nat) : SampleRead × State :=
  let fmt := fget s (Fd.vCtrlFmt v)
  let at' := sampleAt fmt i
  let r := sampleBytes s (voiceStart s v + at'.1) at'.2
  let bad := r.2.1 || r.2.2.1
  ({ x := if bad then 0 else sampleValue fmt i r.1, poison := r.2.1, err := r.2.2.1 }, r.2.2.2)

/-! ### Loops and ends (R255, R260) -/

def voicePhase (s : State) (v : Nat) : Nat := fget s (Fd.vStatPhase v)
def voiceEnv (s : State) (v : Nat) : Nat := fget s (Fd.vEnvE v)

/-- The voice ends: idle, e = 0, V_STAT.ended, the end event. -/
def voiceEnd (s : State) (v : Nat) : State :=
  let s := fset (fset s (Fd.vStatPhase v) 0) (Fd.vEnvE v) 0
  let s := fon s (Fd.vStatEnded v)
  fireIf s (fbit s (Fd.vEvtEndEn v)) (fget s (Fd.vEvtChan v))

/-- loop is 1 and the loop's bounds are bad. -/
def badLoop (s : State) (v : Nat) : Bool :=
  fbit s (Fd.vCtrlLoop v) && decide (fget s (Fd.vLoopEE v) < fget s (Fd.vLoopSS v) ∨
    fget s (Fd.vEndEnd v) < fget s (Fd.vLoopEE v))

/-- The voice plays a loop. -/
def voiceLoops (s : State) (v : Nat) : Bool := fbit s (Fd.vCtrlLoop v) && !badLoop s v

/-- The test of the position before the read (R255). -/
def voiceCheck (s : State) (v : Nat) : State :=
  let s := if badLoop s v then fon (fon s (Fd.vStatBadLoop v)) Fd.audStatBadLoop else s
  let u := voiceOf s v
  let ls := fget s (Fd.vLoopSS v)
  let le := fget s (Fd.vLoopEE v)
  if voiceLoops s v then
    if le < u.i then
      let s := setVoice s v { u with i := ls + (u.i - ls) % (le - ls + 1) }
      let s := fon s (Fd.vStatLooped v)
      fireIf s (fbit s (Fd.vEvtLoopEn v)) (fget s (Fd.vEvtChan v))
    else s
  else if fget s (Fd.vEndEnd v) < u.i then voiceEnd s v
  else s

/-! ### Keys and envelope (R256, R257) -/

def keyOnVoice (s : State) (v : Nat) : State :=
  fset (setVoice s v { voiceOf s v with i := 0, f := 0 }) (Fd.vStatPhase v) 1

/-- A key takes effect: 1 on, 2 off, 3 cut. -/
def voiceKey (s : State) (v : Nat) : Nat → State
  | 1 => keyOnVoice s v
  | 2 => if voicePhase s v = 0 then s else fset s (Fd.vStatPhase v) 4
  | 3 => voiceEnd s v
  | _ => s

/-- The sustain target (R256). -/
def susTarget (s : State) (v : Nat) : Nat :=
  let x := fget s (Fd.vSusSus v)
  x * 4096 + x * 16 + x / 16

/-- One move of the envelope. -/
def envelope (s : State) (v : Nat) : State :=
  let e := voiceEnv s v
  let t := susTarget s v
  match voicePhase s v with
  | 1 =>
    let a := fget s (Fd.vAtkAtk v)
    let e' := if a = 0 then 0xFFFFF else min 0xFFFFF (e + a)
    let s := fset s (Fd.vEnvE v) e'
    if e' = 0xFFFFF then fset s (Fd.vStatPhase v) 2 else s
  | 2 =>
    let d := fget s (Fd.vDecDec v)
    let e' := if d = 0 then t else max t (e - d)
    let s := fset s (Fd.vEnvE v) e'
    if e' = t then fset s (Fd.vStatPhase v) 3 else s
  | 3 => fset s (Fd.vEnvE v) t
  | 4 =>
    let r := fget s (Fd.vRelRel v)
    let e' := if r = 0 then 0 else e - r
    if e' = 0 then voiceEnd s v else fset s (Fd.vEnvE v) e'
  | _ => s

/-! ### A voice's sample (R254, R258, R259) -/

/-- What reaches a bus: bus, left, right. -/
abbrev Contrib := Nat × Int × Int

/-- A send of `y` by level and pan (R258). -/
def sendTo (bus level pan : Nat) (y : Int) : Contrib :=
  let p := min 256 pan
  (bus, y * ((level + 1) * (256 - p) : Nat) / 65536, y * ((level + 1) * p : Nat) / 65536)

/-- The reports of a sample read (R259). -/
def sampleReport (s : State) (v : Nat) (r : SampleRead) : State :=
  let s := if r.poison then raise (fon (fon s (Fd.vStatPoison v)) Fd.audStatPoison) bayChip 4 else s
  if r.err then
    raise (fon (fon (fon (fon s (Fd.vStatPoison v)) Fd.audStatPoison) (Fd.vStatErr v)) Fd.audStatErr) bayChip 5
  else s

/-- The voice's output at its present position, before the envelope (R254). -/
def voiceOutput (s : State) (v : Nat) : Int × State :=
  let u := voiceOf s v
  let r0 := readSample s v u.i
  let s := sampleReport r0.2 v r0.1
  if !fbit s (Fd.vCtrlInterp v) then (r0.1.x, s)
  else
    let next := if voiceLoops s v then
        (if u.i = fget s (Fd.vLoopEE v) then some (fget s (Fd.vLoopSS v)) else some (u.i + 1))
      else if u.i = fget s (Fd.vEndEnd v) then none else some (u.i + 1)
    let r1 := match next with
      | some i => readSample s v i
      | none => ({ x := 0, poison := false, err := false }, s)
    (r0.1.x + (r1.1.x - r0.1.x) * (u.f / 16 : Nat) / 4096, sampleReport r1.2 v r1.1)

/-- The position advances by PITCH. -/
def voiceAdvance (s : State) (v : Nat) : State :=
  let u := voiceOf s v
  let p := u.i * 65536 + u.f + fget s (Fd.vPitchStep v)
  setVoice (fset s (Fd.vPosI v) u.i) v { u with i := p / 65536 % 2 ^ 21, f := p % 65536 }

/-- The sends of a voice. -/
def voiceSends (s : State) (v : Nat) (y : Int) : List Contrib :=
  ((List.range 4).filter fun k => fbit s (Fd.vSendEn v k)).map fun k =>
    sendTo (fget s (Fd.vSendBus v k)) (fget s (Fd.vSlevLevel v k)) (fget s (Fd.vSendPan v k)) y

/-- A voice computes one sample. A loop wraps also in the sample in which its release ends (R255, R260). -/
def voiceSample (s : State) (v : Nat) (late : Bool) : List Contrib × State :=
  if voicePhase s v = 0 then ([], s)
  else
    let s := envelope s v
    let s := if voicePhase s v ≠ 0 ∨ voiceLoops s v then voiceCheck s v else s
    if voicePhase s v = 0 then ([], s)
    else
      let r := if late then
          (0, raise (fcount (fon (fon s (Fd.vStatLate v)) Fd.audStatLate) Fd.audLateCntCount 1) bayChip 6)
        else voiceOutput s v
      let y := r.1 * (voiceEnv r.2 v / 16 : Nat) / 65536
      (voiceSends r.2 v y, voiceAdvance r.2 v)

/-- The buses on which a voice counts, each once (R262). -/
def voiceCounts (s : State) (v : Nat) : List Nat :=
  if voiceEnv s v = 0 then []
  else NSet.norm (((List.range 4).filter fun k => fbit s (Fd.vSendEn v k)).map fun k => fget s (Fd.vSendBus v k))

/-! ### Inputs (R265, R266, R270) -/

/-- PORT_CFG.width in bits; 3 is reserved and acts as one of the three. -/
def portWidth (s : State) (p : Nat) : Nat :=
  let v := fget s (Fd.portCfgWidth p)
  [16, 24, 32].getD (if v = 3 then openField s (Fd.portCfgWidth p) 3 else v) 16

/-- The slots of a port's frame; reserved modes and counts act as one of the defined ones. -/
def portSlots (s : State) (p : Nat) : Nat :=
  let m := fget s (Fd.portCfgMode p)
  let v := fget s (Fd.portCfgSlots p)
  if (if m = 3 then openField s (Fd.portCfgMode p) 3 else m) = 2 then
    [2, 4, 8].getD (if v = 3 then openField s (Fd.portCfgSlots p) 3 else v) 2
  else 2

/-- The port runs: its clocks and its frames (R248, R275). -/
def portRuns (s : State) (p : Nat) : Bool := fbit s Fd.audCfgRun && fbit s (Fd.portRunRun p)

/-- The sample of a slot of an input port, read left-justified (R267). A data post of another function reads as zeros
(R281); a port that is no running input, or a slot that its frame does not have, gives a free value (DESIGN CHOICE,
log entry 56). -/
def slotIn (s : State) (slots : List (Fin 128 × Dword)) (p j : Nat) : Nat :=
  if !postLive s (32 * p + 26) 5 then 0
  else if fbit s (Fd.portCfgDir p) && portRuns s p && decide (j < portSlots s p) then
    match slots.find? fun q => decide (q.1.val = 8 * p + j) with
    | some q => if portWidth s p = 16 then q.2.toNat / 2 ^ 16 * 16 else q.2.toNat / 2 ^ 12
    | none => 0
  else (Config.openOf 9 (128 * s.clock + 8 * p + j)).toNat % 2 ^ 20

/-- Every PDM side takes its 64 bits of the frame; one whose data post is not set to PDM reads level 0 (R265, R281). -/
def pdmFrame (s : State) (pdm : List (Fin 16 × BitVec 64)) : State :=
  (List.range 16).foldl (fun s k =>
    let u := Sparse.get PdmLine.reset k s.aud.pdm
    let b : BitVec 64 := if postLive s (32 * (k / 2) + 29) 6 then
        (match pdm.find? fun q => decide (q.1.val = k) with
          | some q => q.2
          | none => 0)
      else 0
    let f := Config.pdmFilter u.filt b
    let u' : PdmLine := { filt := f.1, wait := u.wait.drop 1 ++ [f.2.toNat] }
    { s with aud := { s.aud with pdm := Sparse.put PdmLine.reset k u' s.aud.pdm } }) s

/-- The raw sample of an input channel (R265): a slot of a port, or the sample that leaves the decimation filter. Lines
8-15 do not exist: a free value. -/
def rawOf (s : State) (slots : List (Fin 128 × Dword)) (i : Nat) : Nat :=
  let n := fget s (Fd.inSrcLine i)
  let j := fget s (Fd.inSrcSlot i)
  if !fbit s (Fd.inSrcKind i) then slotIn s slots n j
  else if n < 8 then (Sparse.get PdmLine.reset (2 * n + j % 2) s.aud.pdm).wait.getD 0 0
  else (Config.openOf 9 (128 * s.clock + 64 + i)).toNat % 2 ^ 20

/-- One step of the fixed filter of a channel (R266): a first-order high-pass at 8 Hz, or a second-order Butterworth
high-pass at 80 Hz, by the bilinear transform at 48 or 96 kHz. The coefficients are the nearest multiples of 2^-40
(DESIGN CHOICE, log entry 6). -/
def filterStep (pdm fast : Bool) (f : InFilter) (x : Int) : InFilter :=
  let y : Int :=
    if pdm then
      let c : Int × Int × Int :=
        if fast then (1095448319850, 2190881623462, 1091400028161) else (1091400027753, 2182740211709, 1083348271527)
      (c.1 * (x - 2 * f.x1 + f.x2) * 2 ^ 30 + c.2.1 * f.y1 - c.2.2 * f.y2) / 2 ^ 40
    else
      let c : Int × Int := if fast then (1099223851638, 1098936075500) else (1098936226061, 1098360824346)
      (c.1 * (x - f.x1) * 2 ^ 30 + c.2 * f.y1) / 2 ^ 40
  { x1 := x, x2 := f.x1, y1 := y, y2 := f.y1 }

/-- The filtered sample in 20 bits: the spec gives no rounding, and no value for one that 20 bits do not hold (DESIGN
CHOICE, log entry 6). -/
def filterOut (s : State) (i : Nat) (f : InFilter) : Int :=
  let r := Config.openOf 6 (32 * s.clock + i)
  let y := f.y1 / 2 ^ 30 + boolNat (bit r.toNat 63 && decide (f.y1 % 2 ^ 30 ≠ 0))
  if clamp20 y = y then y else signedN 20 r.toNat

/-- An input channel takes the raw sample of its frame and computes with the one of two frames before (R270). -/
def inputSample (s : State) (i : Nat) (raw : Nat) : List Contrib × State :=
  let d := Sparse.get [0, 0] i s.aud.delays
  let f := filterStep (fbit s (Fd.inSrcKind i)) (fbit s Fd.audCfgRate) (Sparse.get InFilter.reset i s.aud.filters)
    (signedN 20 (d.getD 0 0))
  let s := { s with aud := { s.aud with
    delays := Sparse.put [0, 0] i [d.getD 1 0, raw] s.aud.delays
    filters := Sparse.put InFilter.reset i f s.aud.filters } }
  if !fbit s (Fd.inSrcEn i) then ([], s)
  else
    let y := filterOut s i f
    let m := mag19 s y
    let s := fset m.2 (Fd.inLvlLvl i) m.1
    if fbit s (Fd.inSendEn i) then
      ([sendTo (fget s (Fd.inSendBus i)) (fget s (Fd.inSlevLevel i)) (fget s (Fd.inSendPan i)) y], s)
    else ([], s)

/-! ### Buses and meters (R262-R264) -/

/-- 65,536 / n to the nearest, halves up. -/
def recip (n : Nat) : Nat := (2 * 65536 + n) / (2 * n)

/-- One side of a bus: the output before the clamp. -/
def busSide (sum : Int) (ne gain : Nat) : Int := ((sum * (recip ne : Nat) + 0x8000) / 65536 * (gain : Nat) + 0x800) / 4096

/-- The peak and hold of one side after the magnitude `a`. -/
def peakStep (a peak hold holdCfg dec : Nat) : Nat × Nat :=
  if peak ≤ a then (a, 16 * holdCfg)
  else if 0 < hold then (peak, hold - 1)
  else (peak - max 1 (peak / 2 ^ dec), 0)

/-- The meter of a bus takes one sample. -/
def busMeter (s : State) (b : Nat) (l r : Int) : State :=
  let ml := mag19 s l
  let mr := mag19 ml.2 r
  let s := mr.2
  let u := meterOf s b
  let hold := fget s (Fd.busMtrCfgHold b)
  let dec := fget s (Fd.busMtrCfgDec b)
  let thr := fget s (Fd.busMtrThrThr b)
  let was := max (fget s (Fd.busPeakLPeak b)) (fget s (Fd.busPeakRPeak b))
  let pl := peakStep ml.1 (fget s (Fd.busPeakLPeak b)) u.holdL hold dec
  let pr := peakStep mr.1 (fget s (Fd.busPeakRPeak b)) u.holdR hold dec
  let s := fset (fset s (Fd.busPeakLPeak b) pl.1) (Fd.busPeakRPeak b) pr.1
  let maxL := max u.maxL ml.1
  let maxR := max u.maxR mr.1
  let done := decide (2 ^ fget s (Fd.busMtrCfgWin b) ≤ u.count + 1)
  let s := if done then fset (fset s (Fd.busLvlLLvl b) maxL) (Fd.busLvlRLvl b) maxR else s
  let s := setMeter s b
    { holdL := pl.2, holdR := pr.2, maxL := if done then 0 else maxL, maxR := if done then 0 else maxR,
      count := if done then 0 else u.count + 1 }
  if was < thr ∧ thr ≤ max pl.1 pr.1 then
    fireIf (fon s (Fd.busStatOver b)) (fbit s (Fd.busMtrEvtEn b)) (fget s (Fd.busMtrEvtChan b))
  else s

/-- What the buses have so far: the contributions, the counts, and the outputs of the lower buses. -/
structure MixAcc where
  st : State
  contribs : List Contrib
  counts : List Nat
  outs : List (Int × Int)

/-- Bus `b` computes its sample. -/
def busSample (m : MixAcc) (b : Nat) : MixAcc :=
  let s := m.st
  let mine := m.contribs.filter fun c => decide (c.1 = b)
  let n := (m.counts.filter fun x => decide (x = b)).length
  let ne := max (max n (fget s (Fd.busCfgNmin b))) 1
  let g := fget s (Fd.busGainGain b)
  let l := busSide (mine.foldl (fun a c => a + c.2.1) 0) ne g
  let r := busSide (mine.foldl (fun a c => a + c.2.2) 0) ne g
  let s := fset s (Fd.busNN b) n
  let s := if clamp20 l ≠ l then fon (fon s (Fd.busStatClipL b)) Fd.audStatClip else s
  let s := if clamp20 r ≠ r then fon (fon s (Fd.busStatClipR b)) Fd.audStatClip else s
  let l := clamp20 l
  let r := clamp20 r
  let s := busMeter s b l r
  let d := fget s (Fd.busSendDest b)
  let k : Int := (fget s (Fd.busSendLevel b) + 1 : Nat)
  if fbit s (Fd.busSendEn b) then
    if b < d then
      { st := s, contribs := m.contribs ++ [(d, l * k / 256, r * k / 256)], counts := m.counts ++ [d],
        outs := m.outs ++ [(l, r)] }
    else { m with st := fon s (Fd.busStatBadSend b), outs := m.outs ++ [(l, r)] }
  else { m with st := s, outs := m.outs ++ [(l, r)] }

/-! ### Outputs (R267-R271) -/

/-- 16 bits rounded from 20 (R267). -/
def to16 (x : Int) : Int :=
  let v := (x + 8) / 16
  if 32767 < v then 32767 else if v < -32768 then -32768 else v

/-- A word of a slot of 16, 24 or 32 bits. -/
def slotWord (width : Nat) (x : Int) : Nat :=
  if width = 16 then wrapN 16 (to16 x) else wrapN width (x * (2 ^ (width - 20) : Nat))

/-- The side of a bus that a channel register selects; zeros where it is not enabled. -/
def chanValue (outs : List (Int × Int)) (reg : Nat) : Int :=
  if bit reg 19 then
    let o := outs.getD (bits reg 17 13) (0, 0)
    if bit reg 12 then o.2 else o.1
  else 0

/-- The channels of a head's DisplayPort audio. -/
def dpaChans (s : State) (h : Nat) : Nat := 2 * (fget s (Fd.dpaCfgChans h) + 1)

/-- The words that a sample gives every output. -/
def audioWords (s : State) (outs : List (Int × Int)) : List Nat :=
  ((List.range 16).flatMap fun p => (List.range 8).map fun j =>
    if j < portSlots s p then slotWord (portWidth s p) (chanValue outs (rget s (Adr.portCh p j)).toNat) else 0) ++
  ((List.range 2).map fun j => wrapN 20 (chanValue outs (rget s (Adr.spdCh j)).toNat)) ++
  ((List.range 4).flatMap fun h => (List.range 8).map fun j =>
    if j < dpaChans s h then
      slotWord (if fbit s (Fd.dpaCfgBits24 h) then 24 else 16) (chanValue outs (rget s (Adr.dpaCh h j)).toNat)
    else 0)

/-- The outputs that send: a running output port, the S/PDIF transmitter, a trained head with audio. -/
def audioSends (s : State) (i : Nat) : Bool :=
  !fbit s Fd.audStatAlarmMute &&
  (if i < 128 then fbit s (Fd.portRunRun (i / 8)) && !fbit s (Fd.portCfgDir (i / 8))
   else if i < 130 then fbit s Fd.spdRunRun
   else fbit s (Fd.dpaCfgEn ((i - 130) / 8)) && fbit s (Fd.headDpStatTrained ((i - 130) / 8)))

/-- Bit `n` of the S/PDIF channel status (R268), by the layout of IEC 60958 (PRESUMED, log entry 6): consumer, linear PCM,
copy, no pre-emphasis; the category; the sampling frequency in byte 3; 20 bits in byte 4. -/
def spdStatus (s : State) (n : Nat) : Bool :=
  let w := 4 * fget s Fd.spdCsCopy + 2 ^ 8 * fget s Fd.spdCsCat + 2 ^ 24 * (if fbit s Fd.audCfgRate then 10 else 2) +
    2 ^ 32 * 10
  bit w n

/-- A subframe of S/PDIF from its 20-bit word: bits 0-3 stand for the preamble (1 starts a block, 2 the other first
subframes, 3 the second ones), then four auxiliary zeros, the word, validity 0, user 0, channel status, even parity. -/
def spdSubframe (s : State) (side word : Nat) : Nat :=
  let n := s.aud.spdFrame
  let pre := if side = 1 then 3 else if n = 0 then 1 else 2
  let c := boolNat (spdStatus s n)
  let ones := ((List.range 20).filter (bit word)).length + c
  pre + word * 2 ^ 8 + c * 2 ^ 30 + ones % 2 * 2 ^ 31

/-- The frame of S/PDIF in its block of 192 (R268); a transmitter that starts begins a block. -/
def spdAdvance (s : State) : State :=
  { s with aud := { s.aud with spdFrame := if fbit s Fd.spdRunRun then (s.aud.spdFrame + 1) % 192 else 0 } }

/-- The frame that begins at this boundary carries the sample computed two boundaries before (R270). -/
def audioFrame (s : State) (ws : List Nat) : State :=
  let q := s.aud.queue ++ [ws]
  let due := if q.length = 3 then q.getD 0 [] else []
  { s with aud := { s.aud with
      queue := q.drop (q.length - 2)
      out := (List.range due.length).map fun i =>
        let w := if audioSends s i then due.getD i 0 else 0
        if 128 ≤ i ∧ i < 130 ∧ fbit s Fd.spdRunRun then spdSubframe s (i - 128) w else w } }

/-! ### The sample boundary (R248, R249) -/

/-- T7 advances, and the Audio timelines that follow it (R41, R43). -/
def audioTick (s : State) : State :=
  let s := tlMove s 7 (.fwd 1)
  (generalRunning s 3).foldl (fun s k => if 8 ≤ k then prescaleAdvance s 1 k else s) s

/-- The voices off their reset state. -/
def voicesTouched (s : State) : List Nat :=
  NSet.norm (touched s 0xD0000 0x80 512 ++ s.keyDue ++
    (Sparse.keys 0xD0000 0xE0000 s.waiting).map fun o => (o - 0xD0000) / 0x80)

/-- The written keys of the interval, taken out of the waiting values. -/
def keysOf (s : State) : List (Nat × Nat) :=
  ((Sparse.keys 0xD0000 0xE0000 s.waiting).filter fun o => decide (o % 0x80 = 4)).map fun o =>
    ((o - 0xD0000) / 0x80, (Sparse.get 0 o s.waiting).toNat % 4)

/-- The writes of the interval apply, then the written keys, then the ferry keys (R249, R257). -/
def applyInterval (s : State) : State :=
  let ks := keysOf s
  let due := s.keyDue
  let s := { s with waiting := s.waiting.filter (fun p => !(decide (0xD0000 ≤ p.1 ∧ p.1 < 0xE0000 ∧ p.1 % 0x80 = 4)))
                    keyDue := [] }
  let s := latchRange s 0xC0000 0xE0000 fun c => decide (c = .sample)
  let s := (ks.filter fun p => decide (p.1 < voicesAt s)).foldl (fun s p => voiceKey s p.1 p.2) s
  (due.filter fun v => decide (v < voicesAt s)).foldl (fun s v => voiceKey s v 1) s

/-- One sample boundary: `slots` and `pdm` are what the input posts brought in the frame, `late` the voices whose sample did
not arrive. -/
def audioBoundary (s : State) (slots : List (Fin 128 × Dword)) (pdm : List (Fin 16 × BitVec 64)) (late : List (Fin 512)) :
    State :=
  if !fbit s Fd.audCfgRun then s
  else
    let s := pdmFrame (applyInterval (audioTick s)) pdm
    let vs := (voicesTouched s).filter fun v => decide (v < voicesAt s)
    let r := vs.foldl (fun (p : List Contrib × State) v =>
      let x := voiceSample p.2 v (late.any fun l => decide (l.val = v))
      (p.1 ++ x.1, x.2)) ([], s)
    let ins := (List.range 32).foldl (fun (p : List Contrib × State) i =>
      let x := inputSample p.2 i (rawOf p.2 slots i)
      (p.1 ++ x.1, x.2)) ([], r.2)
    let counts := vs.flatMap (voiceCounts ins.2) ++ ins.1.map fun c => c.1
    let m := (List.range 32).foldl busSample { st := ins.2, contribs := r.1 ++ ins.1, counts := counts, outs := [] }
    let s := spdAdvance (audioFrame m.st (audioWords m.st m.outs))
    fset s Fd.audActiveCount ((voicesTouched s).filter fun v => decide (voiceEnv s v ≠ 0)).length

/-! ### Held START_HI (R273) -/

/-- A START_HI write is held. -/
def startHiWrite (s : State) (v w : Nat) : State := setVoice s v { voiceOf s v with heldHi := some (w % 2 ^ 20) }

/-- A START_LO write takes the held START_HI with it to the next boundary. -/
def startLoWrite (s : State) (v w : Nat) : State :=
  let u := voiceOf s v
  let s := putWaiting s (Adr.vStartLo v) w
  match u.heldHi with
  | some h => setVoice (putWaiting s (Adr.vStartHi v) h) v { u with heldHi := none }
  | none => s

end Sys2Proof.Machine
end

