-- ==== Sys2Proof/Machine/Tollhouse.lean ====
section
/-! DEFINITION. The Tollhouse (17_tollhouse.md): event log, identity, sensors and alarm, random numbers, RTC, and the
mailbox commands apart from BOOT. -/

namespace Sys2Proof.Machine

/-! ### Domains -/

/-- The Tollhouse's controller runs: standby is present and its firmware is accepted (R392, R397). -/
def thUp (s : State) : Bool := s.th.aonUp && s.th.fw

/-- The lifecycle state: 0 Blank, 1 Provisioned, 2 Deployed, 3 Retired (R404). -/
def lifeOf (t : ThState) : Nat :=
  if t.retireFuse then 3
  else if t.provisionFuse && t.deployFuse then 2
  else if t.provisionFuse then 1
  else 0

def life (s : State) : Nat := lifeOf s.th

/-- Engine debug is open to an engine (R168, R404). -/
def debugAllowed (s : State) (e : Nat) : Bool := decide (life s ≠ 2) || bit s.th.debugOpen e

/-! ### Event log (R392, R414) -/

/-- Bytes 0-13 of an entry. -/
def logBody (s : State) (code detail data : Nat) (zeroised battery : Bool) : List Byte :=
  leBytes 5 s.th.rtcSec ++ leBytes 2 s.th.rtcFrac ++ leBytes 1 code ++ leBytes 1 detail ++
  leBytes 1 (boolNat (fbit s Fd.thStatMainOn) + 2 * boolNat (fbit s Fd.thStatAlarm) + 4 * boolNat zeroised +
    8 * boolNat battery) ++ leBytes 4 data

/-- An entry goes into the ring; TH_LOG_SEQ counts it. -/
def logPut (s : State) (body : List Byte) : State :=
  let n := fget s Fd.thLogSeqSeq
  let e := body ++ leBytes 2 n
  let s := { s with th := { s.th with log := Sparse.put [] (n % 1024) e s.th.log } }
  fon (fset s Fd.thLogSeqSeq (n + 1)) Fd.thNoteLog

/-- An event is logged: into the ring, or on battery into the FIFO of 8, which counts what it cannot take. -/
def thLog (s : State) (code detail data : Nat) (zeroised : Bool) : State :=
  if thUp s then logPut s (logBody s code detail data zeroised false)
  else if 8 ≤ s.th.fifo.length then { s with th := { s.th with lost := s.th.lost + 1 } }
  else { s with th := { s.th with fifo := s.th.fifo ++ [logBody s code detail data zeroised true] } }

/-- Standby returns: the first entry reports the events that the FIFO could not take (R392). -/
def logLost (s : State) : State :=
  if s.th.lost = 0 then s
  else logPut { s with th := { s.th with lost := 0 } } (logBody s 0x0B 0 s.th.lost false false)

/-- The controller moves the FIFO into the log in order (R392). -/
def logDrain (s : State) : State := s.th.fifo.foldl logPut { s with th := { s.th with fifo := [] } }

/-- The entry at a ring index (R384). -/
def logAt (s : State) (i : Nat) : List Byte :=
  let e := Sparse.get [] (i % 1024) s.th.log
  if e.isEmpty then leBytes 16 0 else e

/-- RTC time in 1/65,536 s. -/
def rtcTicks (s : State) : Nat := s.th.rtcSec * 65536 + s.th.rtcFrac

/-- A Privilege Return event of engine `e` (R164, R414): counted, and merged into an entry less than 1 s old. -/
def thPrivReturn (s : State) (e : Nat) : State :=
  let s := fcount s Fd.thPrcountCount 1
  let n := fget s Fd.thLogSeqSeq
  match Sparse.find e s.th.prLast with
  | some p =>
    let old := Sparse.get [] (p.2 % 1024) s.th.log
    if rtcTicks s - p.1 ≤ 65536 ∧ n - p.2 ≤ 1024 ∧ old.length = 16 then
      let e' := old.take 10 ++ leBytes 4 (leNat ((old.drop 10).take 4) + 1) ++ old.drop 14
      { s with th := { s.th with log := Sparse.put [] (p.2 % 1024) e' s.th.log } }
    else { thLog s 0x20 e 1 false with th := { (thLog s 0x20 e 1 false).th with
             prLast := Sparse.ins e (rtcTicks s, n) s.th.prLast } }
  | none => { thLog s 0x20 e 1 false with th := { (thLog s 0x20 e 1 false).th with
             prLast := Sparse.ins e (rtcTicks s, n) s.th.prLast } }

/-! ### Identity (R401, R402) -/

def asciiBytes (l : List Nat) : List Byte := l.map (BitVec.ofNat 8)

/-- The bytes of a number in the model's order for keys and digests: byte i in bits 8i. -/
def keyBytes (n v : Nat) : List Byte := leBytes n v

/-- TH_IDPUB shows the public key, or zero; TH_STAT.zeroised follows. -/
def publishId (s : State) : State :=
  let k := match s.th.priv with
    | some p => (Config.ed25519Public (BitVec.ofNat 256 p)).toNat
    | none => 0
  let s := (List.range 16).foldl (fun s j => fset s (Fd.thIdpubK j) (k / 2 ^ (16 * j))) s
  fset s Fd.thStatZeroised (boolNat s.th.priv.isNone)

/-- The identity key from seed and share; none without a share. -/
def deriveId (s : State) : State :=
  let priv := match s.th.seed, s.th.share with
    | some a, some b =>
      some ((Config.sha512 (asciiBytes [88, 77, 73, 68, 75, 69, 89, 49] ++ keyBytes 32 a ++ keyBytes 32 b)).toNat % 2 ^ 256)
    | _, _ => none
  publishId { s with th := { s.th with priv := priv } }

/-- Zeroisation: the share and the private key are gone; the seed stays. -/
def zeroise (s : State) : State := publishId { s with th := { s.th with share := none, priv := none } }

/-- The public key as it reads. -/
def idPub (s : State) : Nat := split16 s Adr.thIdpub 16

/-! ### The alarm (R409-R413) -/

/-- The main domain's side of the alarm: heads blank, audio mutes, posts sleep. -/
def alarmMain (s : State) (on : Bool) : State :=
  let s := ((List.range 6).filter s.variant.head).foldl (fun s h => fset s (Fd.headHstatAlarmBlank h) (boolNat on)) s
  setAlarmSleep (fset s Fd.audStatAlarmMute (boolNat on)) on

/-- The alarm rises, or the cause of the present one grows. -/
def alarmRaise (s : State) (cause : Nat) : State :=
  let s := fset s Fd.thAlarmCause (fget s Fd.thAlarmCause ||| cause)
  if fbit s Fd.thStatAlarm then s
  else
    let s := fon s Fd.thStatAlarm
    if mainUp s then alarmMain s true else s

/-- SMBALERT# is asserted while the alarm stands (R409, R413). -/
def smbAlert (s : State) : Bool := fbit s Fd.thStatAlarm

/-- The policy of a sensor (R408); the reserved 3 acts as 2 (R483). -/
def sensorPolicy (s : State) (n : Nat) : Nat :=
  let v := if n < 8 then bits (fget s Fd.thPol0Pol) (2 * n + 1) (2 * n)
    else bits (fget s Fd.thPol1Pol) (2 * (n - 8) + 1) (2 * (n - 8))
  min 2 v

/-- The sensors that run on battery (R407). -/
def batterySensor (n : Nat) : Bool := decide (n ≤ 8 ∨ n = 13)

/-- The sensor is watched: the core voltage while main is on, the others of standby while it is present (R407). -/
def sensorWatched (s : State) (n : Nat) : Bool :=
  batterySensor n || s.th.aonUp && (decide (n ≠ 9) || fbit s Fd.pwrStatMainOn)

/-- A sensor becomes asserted: its policy, then its log entry (R408, R409, R412). -/
def sensorAssert (s : State) (n code data : Nat) : State :=
  let s := fset s Fd.thSenseAsserted (fget s Fd.thSenseAsserted ||| 2 ^ n)
  let p := sensorPolicy s n
  let s := if p = 2 then zeroise s else s
  let s := if p = 0 then s
    else if s.th.aonUp then alarmRaise s (2 ^ n)
    else { s with th := { s.th with batteryAlarm := s.th.batteryAlarm ||| 2 ^ n } }
  thLog s code n data (decide (p = 2))

def sensorOn (s : State) (n : Nat) : Bool := bit (fget s Fd.thSenseAsserted) n

/-- A non-door sensor qualifies, or ends. -/
def sensorEvent (s : State) (n raw : Nat) : State :=
  if sensorOn s n || !sensorWatched s n then s else sensorAssert s n 0x06 raw

def sensorEnd (s : State) (n : Nat) : State :=
  fset s Fd.thSenseAsserted (fget s Fd.thSenseAsserted &&& (2 ^ 14 - 1 - 2 ^ n))

/-- A door's ball has held a new level for the debounce time (R407). -/
def doorEvent (s : State) (d : Nat) (level : Bool) : State :=
  let opened := level != bit (fget s Fd.thDoorClosed) d
  let old := fget s Fd.thDoorOpen
  if bit old d = opened then s
  else
    let states := setBits old d d (boolNat opened)
    let s := fon (fset s Fd.thDoorOpen states) Fd.thNoteDoor
    if opened then sensorAssert s d 0x04 states else thLog (sensorEnd s d) 0x05 d states false

/-- An alarm clear: accepted from the side-band and Secure-level engines while no sensor with policy 1 or 2 is
asserted (R413). -/
def alarmClearOk (s : State) (m : Master) : Bool :=
  (match m with
    | .sideband => true
    | .engine _ l => decide (l = 0)
    | _ => false) &&
  (List.range 14).all fun n => !sensorOn s n || decide (sensorPolicy s n = 0)

def alarmClearWrite (s : State) (m : Master) (v : Nat) : State :=
  if !bit v 19 then s
  else if alarmClearOk s m then
    let cause := fget s Fd.thAlarmCause
    let s := fset (fset s Fd.thStatAlarm 0) Fd.thAlarmCause 0
    let s := if mainUp s then alarmMain s false else s
    thLog s 0x07 0 cause false
  else thLog (refuseChip s m Adr.thAlarm) 0x08 0 (fget s Fd.thSenseAsserted) false

/-- A policy write; in Deployed one that lowers a policy is ignored (R408). -/
def policyWrite (s : State) (m : Master) (f : FieldAt) (v : Nat) : State :=
  let old := fget s f
  let lowers := (List.range 8).any fun k => decide (bits v (2 * k + 1) (2 * k) % 4 < bits old (2 * k + 1) (2 * k)) &&
    decide (2 * k < f.hi + 1)
  if life s = 2 ∧ lowers then thLog (refuseChip s m f.off) 0x0A 0 v false
  else fset s f v

/-! ### Random numbers and RTC (R403, R417) -/

def trngFailed (s : State) : Bool := fbit s Fd.thRngStatFail

/-- The masters that may read TH_RNG. -/
def rngAdmits : Master → Bool
  | .host => true
  | .sideband => true
  | .tollhouse => true
  | .engine _ l => decide (l = 0)
  | _ => false

def thRngRead (s : State) (m : Master) : Nat × State :=
  if !rngAdmits m then (0, refuseChip s m Adr.thRng)
  else if trngFailed s then (0, fset s Fd.thRngStatValid 0)
  else ((draw s).toNat % 65536, fon (drew s) Fd.thRngStatValid)

/-- `n` 64-bit words from the TRNG as one number. -/
def trngTake (s : State) : Nat → Nat × State
  | 0 => (0, s)
  | n + 1 =>
    let r := trngTake (drew s) n
    ((draw s).toNat + 2 ^ 64 * r.1, r.2)

/-- A health test fails (R403). -/
def trngFail (s : State) (test : Nat) : State :=
  thLog (fon (fset (fon s Fd.thRngStatFail) Fd.thRngStatValid 0) Fd.thNoteRng) 0x0D 0 test false

/-- A TH_RTC0 read latches the rest for the requester (R417, as R60). -/
def rtc0Read (s : State) (m : Master) : Nat × State :=
  let l := [s.th.rtcSec / 2 ^ 16 % 2 ^ 16, s.th.rtcSec / 2 ^ 32 % 2 ^ 8, s.th.rtcFrac]
  (s.th.rtcSec % 2 ^ 16, { s with readLatch := Sparse.put [] (64 * requesterOf m + 32) l s.readLatch })

def rtcLatched (s : State) (m : Master) (j : Nat) : Nat :=
  (Sparse.get [] (64 * requesterOf m + 32) s.readLatch).getD j 0

/-- The RTC advances by 1/65,536 s. -/
def rtcTick (s : State) : State :=
  let f := s.th.rtcFrac + 1
  { s with th := { s.th with rtcFrac := f % 65536, rtcSec := (s.th.rtcSec + f / 65536) % 2 ^ 40 } }

/-! ### Push (R398) -/

def pushBase (s : State) : Nat :=
  fget s Fd.thPushBase0A + 2 ^ 16 * fget s Fd.thPushBase1A + 2 ^ 32 * fget s Fd.thPushBase2A

/-- A TH_PUSH write: its DWORD goes to base + 4 · count. -/
def pushWrite (s : State) (v : Nat) : State :=
  let a := pushBase s + 4 * s.th.pushCount
  let s := { s with th := { s.th with pushCount := s.th.pushCount + 1 } }
  if a + 4 ≤ s.mem.top then (dramWrite s a (leBytes 4 v) false).2
  else match chipLoc s a with
    | .localRam e w => (ramOutWrite s .tollhouse v (.localRam e w)).2
    | .quadRam q w => (ramOutWrite s .tollhouse v (.quadRam q w)).2
    | _ => chipUnmapped s

/-! ### Mailboxes (R405, R406) -/

/-- The masters that a mailbox accepts. -/
def mbAdmits (b : Nat) : Master → Bool
  | .host => decide (b = 0)
  | .engine _ l => decide (b = 0) && decide (l = 0)
  | .sideband => decide (b = 1)
  | _ => false

def mbBusy (s : State) (b : Nat) : Bool := fbit s (Fd.mbCmdStatBusy b)

/-- A TH_CMD write: the command starts after the step in which it lands. -/
def mbCommand (s : State) (m : Master) (b v : Nat) : State :=
  if !mbAdmits b m || mbBusy s b then refuseChip s m (Adr.mbCmd b)
  else
    let s := fon s (Fd.mbCmdStatBusy b)
    { s with th := { s.th with starts := Sparse.ins b (m, v % 256) s.th.starts } }

/-- A TH_ARG write. -/
def mbArgWrite (s : State) (m : Master) (b j v : Nat) : State :=
  if !mbAdmits b m || mbBusy s b then refuseChip s m (Adr.mbArg b j) else fset s (Fd.mbArgA b j) v

def argByte (s : State) (b i : Nat) : Nat :=
  bits (fget s (Fd.mbArgA b (i / 2))) (8 * (i % 2) + 7) (8 * (i % 2))

def argBytes (s : State) (b i n : Nat) : List Byte := (List.range n).map fun k => BitVec.ofNat 8 (argByte s b (i + k))

def argNat (s : State) (b i n : Nat) : Nat := leNat (argBytes s b i n)

def nonceBytes (s : State) (b : Nat) : List Byte := keyBytes 32 (split16 s (Adr.mbNonce b) 16)

/-- A fresh nonce from the TRNG (R405). -/
def freshNonce (s : State) (b : Nat) : State :=
  let r := trngTake s 4
  (List.range 16).foldl (fun s j => fset s (Fd.mbNonceN b j) (r.1 / 2 ^ (16 * j))) r.2

/-- A slot holds a key that is not revoked. -/
def ownerKey (s : State) (slot : Nat) : Option Nat :=
  if NSet.has slot s.th.revoked then none else Sparse.find slot s.th.ownerKeys

/-- The signature of a signed command verifies (R405). -/
def cmdSigned (s : State) (b code : Nat) : Bool :=
  match ownerKey s (argByte s b 191) with
  | none => false
  | some k =>
    Config.ed25519Verify (BitVec.ofNat 256 k)
      (asciiBytes [88, 77, 67, 77, 68, 48, 48, 49] ++ leBytes 1 code ++ keyBytes 32 (idPub s) ++ nonceBytes s b ++
        argBytes s b 0 191)
      (BitVec.ofNat 512 (argNat s b 192 64))

/-- A command of the table of R406: mailboxes, states, whether it is signed in a state, and whether it needs random
data of its own. -/
structure CmdRow where
  boxes : List Nat
  states : List Nat
  signedIn : List Nat
  random : Bool
deriving DecidableEq, Repr

def cmdRow (s : State) (code : Nat) : Option CmdRow :=
  match code with
  | 0x01 =>
    some { boxes := (match fget s Fd.thStatBootSel with
             | 1 => [0]
             | 2 => [1]
             | _ => [0, 1]), states := [1, 2], signedIn := [], random := false }
  | 0x02 => some { boxes := [0, 1], states := [0, 1, 2, 3], signedIn := [], random := false }
  | 0x03 => some { boxes := [0, 1], states := [2], signedIn := [], random := false }
  | 0x04 => some { boxes := [0, 1], states := [0, 1, 2, 3], signedIn := [], random := false }
  | 0x05 => some { boxes := [0, 1], states := [1, 2], signedIn := [], random := false }
  | 0x07 => some { boxes := [1], states := [0], signedIn := [], random := true }
  | 0x08 => some { boxes := [1], states := [1], signedIn := [0, 1, 2, 3], random := false }
  | 0x09 => some { boxes := [0, 1], states := [2], signedIn := [0, 1, 2, 3], random := false }
  | 0x0A => some { boxes := [0, 1], states := [1, 2], signedIn := [2], random := false }
  | 0x0B => some { boxes := [0, 1], states := [1, 2], signedIn := [0, 1, 2, 3], random := false }
  | 0x0C => some { boxes := [0, 1], states := [2], signedIn := [0, 1, 2, 3], random := false }
  | 0x0D => some { boxes := [0, 1], states := [0, 1, 2, 3], signedIn := [], random := false }
  | 0x0E => some { boxes := [0, 1], states := [1, 2], signedIn := [2], random := true }
  | _ => none

/-- The slots with a key that is not revoked. -/
def liveSlots (s : State) : List Nat := (List.range 4).filter fun k => (ownerKey s k).isSome

/-- The image of this main power cycle runs, or the arguments of a command are out of range. -/
def argBad (s : State) (b code : Nat) : Bool :=
  match code with
  | 0x02 => decide (argByte s b 0 < 2 ∨ 7 < argByte s b 0)
  | 0x0A => decide (3 < argByte s b 0) || (Sparse.find (argByte s b 0) s.th.ownerKeys).isSome
  | 0x0B => decide (3 < argByte s b 0) || decide (liveSlots s = [argByte s b 0])
  | _ => false

/-- The result codes that stand against a command; where several do, the spec does not say which is given. -/
def cmdErrors (s : State) (b code : Nat) : List Nat :=
  match cmdRow s code with
  | none => []
  | some r =>
    let signed := decide (life s ∈ r.signedIn)
    (if b ∈ r.boxes then [] else [4]) ++
    (if life s ∈ r.states then [] else [2]) ++
    (if code = 0x01 ∧ fbit s Fd.thStatBootOk then [2] else []) ++
    (if code = 0x01 ∧ (!mainUp s || !trainingOver s) then [8] else []) ++
    (if code = 0x05 ∧ (!mainUp s || !trainingOver s) then [8] else []) ++
    (if code = 0x05 ∧ s.th.priv = none then [7] else []) ++
    (if argBad s b code then [3] else []) ++
    (if signed && !cmdSigned s b code then [1] else []) ++
    (if (signed || r.random) && trngFailed s then [6] else [])

/-- TH_STAT.life follows the fuses. -/
def showLife (s : State) : State := fset s Fd.thStatLife (life s)

/-- MRm as a number, and its write. -/
def mrAdr (m j : Nat) : Nat := 0x220800 + 0x80 * m + 4 * j
def mrGet (s : State) (m : Nat) : Nat := split16 s (mrAdr m) 32
def mrPut (s : State) (m v : Nat) : State :=
  (List.range 32).foldl (fun s j => fset s { off := mrAdr m j, hi := 15, lo := 0 } (v / 2 ^ (16 * j))) s

/-- MRm := SHA-512(MRm || d). -/
def mrExtend (s : State) (m : Nat) (d : List Byte) : State :=
  mrPut s m (Config.sha512 (keyBytes 64 (mrGet s m) ++ d)).toNat

/-- The join digest (R400). -/
def joinDigest (s : State) : BitVec 512 := Config.sha512 (keyBytes 64 (mrGet s 0) ++ keyBytes 64 (mrGet s 1))

/-! ### WITNESS (R246, R416) -/

def chipNumber (s : State) : Nat := if joined s then s.spanId.toNat else 0

/-- The address of ring record `i` of tally unit `k`. -/
def ringAddr (s : State) (k i : Nat) : Nat := split16 s (Adr.kRbase k) 3 / 16 * 16 + 16 * (i % tallyRlen s k)

/-- The records from `i` on carry lines 0 to `n` - 1 with consecutive counts and no dropped record before them. -/
def ringGood (s : State) (k i n : Nat) : Bool :=
  let f0 := leNat (memBytes s (ringAddr s k i + 8) 4)
  (List.range n).all fun j =>
    let a := ringAddr s k (i + j)
    decide (a + 16 ≤ s.mem.top) && decide (leNat (memBytes s (a + 12) 2) = j) &&
    decide (leNat (memBytes s (a + 8) 4) = (f0 + j) % 2 ^ 32) && !bit (memByte s (a + 14)).toNat 4 &&
    (granulesOf a 16).all fun g => !NSet.has g s.mem.poison && !NSet.has g s.mem.bad

/-- The message M of R246. -/
def frameMessage (s : State) (h k i : Nat) : List Byte :=
  asciiBytes [88, 77, 87, 73, 84, 78, 83, 49] ++ leBytes 1 h ++
  leBytes 1 (boolNat (fbit s (Fd.joinJcfgOutBpc h)) + 2 * boolNat (fbit s (Fd.headHctrlInterlace h))) ++
  leBytes 2 (hactive s h) ++ leBytes 2 (vactive s h) ++ leBytes 2 (chipNumber s) ++
  leBytes 4 (fget s (Fd.headWitFrameFrame h)) ++
  leBytes 8 (fget s (Fd.headWitSpanHiT h) * 2 ^ 32 + fget s (Fd.headWitSpanLoT h)) ++
  leBytes 4 (fget s (Fd.headWitFlagsFlags h)) ++
  (List.range (vactive s h)).flatMap fun n => memBytes s (ringAddr s k (i + n)) 4

/-- The checks of R416 hold. -/
def witnessGood (s : State) (h k i d : Nat) : Bool :=
  decide (h < 6) && s.variant.head h && s.variant.tallies k && decide (fget s (Fd.kSrcKind k) = 4) &&
  decide (fget s (Fd.kSrcIndex k) = h) && decide (fget s (Fd.kCfgCode k) = 2) &&
  !(tallyFull s.variant k && fbit s (Fd.kCfgCustom k)) && fbit s (Fd.kCfgRing k) && ringGood s k i (vactive s h) &&
  decide (d + 256 ≤ s.mem.top)

/-- WITNESS: the signed record, or code 3 and nothing written. -/
def thWitness (s : State) (b : Nat) : Nat × State :=
  let h := argByte s b 0
  let k := argByte s b 1
  let i := argNat s b 2 2
  let d := argNat s b 4 6
  if !witnessGood s h k i d then (3, s)
  else
    let digest := (Config.sha512 (frameMessage s h k i)).toNat
    let body := asciiBytes [88, 77, 87, 73, 84, 83, 71, 49] ++ keyBytes 64 digest ++ keyBytes 32 (idPub s) ++
      memBytes s (ringAddr s k i + 8) 4 ++ leBytes 5 s.th.rtcSec ++ leBytes 2 s.th.rtcFrac ++ leBytes 13 0
    let sig := Config.ed25519Sign (BitVec.ofNat 256 (s.th.priv.getD 0)) body
    (0, (dramWrite s d (body ++ keyBytes 64 sig.toNat ++ leBytes 64 0) false).2)

/-! ### Command effects -/

/-- The fuse commands. Fuse programming succeeds (DESIGN CHOICE, log entry 26). -/
def thProvision (s : State) (b : Nat) : State :=
  let r := trngTake s 4
  let q := trngTake r.2 4
  let s := q.2
  deriveId (showLife { s with th := { s.th with
    provisionFuse := true, ownerKeys := Sparse.ins 0 (argNat s b 0 32) s.th.ownerKeys
    seed := some r.1, share := some q.1 } })

def thDeploy (s : State) : State := showLife { s with th := { s.th with deployFuse := true } }

def thRetire (s : State) : State :=
  zeroise (showLife { s with th := { s.th with retireFuse := true, revoked := [0, 1, 2, 3] } })

def thKeyAdd (s : State) (b : Nat) : State :=
  { s with th := { s.th with ownerKeys := Sparse.ins (argByte s b 0) (argNat s b 1 32) s.th.ownerKeys } }

def thKeyRevoke (s : State) (b : Nat) : State :=
  { s with th := { s.th with revoked := NSet.ins (argByte s b 0) s.th.revoked } }

def thDebugOpen (s : State) (b : Nat) : State :=
  { s with th := { s.th with debugOpen := s.th.debugOpen ||| argNat s b 0 16 } }

def thRekey (s : State) : State :=
  let r := trngTake s 4
  deriveId { r.2 with th := { r.2.th with share := some r.1 } }

def thSetRtc (s : State) (b : Nat) : State :=
  let old := s.th.rtcSec
  let s := { s with th := { s.th with rtcSec := argNat s b 0 5, rtcFrac := argNat s b 5 2 } }
  thLog s 0x0C 0 (old % 2 ^ 32) false

def counterOf (s : State) (c : Nat) : Nat := Sparse.get 0 c s.th.counters

/-- RB_COMMIT (R399): a refusal has a result that the spec does not name. -/
def thRbCommit (s : State) : Nat × State :=
  match s.th.running with
  | some (c, v) =>
    if counterOf s c ≤ v then (0, { s with th := { s.th with counters := Sparse.put 0 c v s.th.counters } })
    else ((draw s).toNat % 15 + 1, drew s)
  | none => ((draw s).toNat % 15 + 1, drew s)

/-- The effect of a command that nothing stands against, apart from BOOT. A code that the table does not list completes
with result 3 (R483). -/
def cmdEffect (s : State) (b code : Nat) : Nat × State :=
  match code with
  | 0x02 => (0, mrExtend s (argByte s b 0) (argBytes s b 2 64))
  | 0x03 => thRbCommit s
  | 0x04 => (0, thSetRtc s b)
  | 0x05 => thWitness s b
  | 0x07 => (0, thProvision s b)
  | 0x08 => (0, thDeploy s)
  | 0x09 => (0, thRetire s)
  | 0x0A => (0, thKeyAdd s b)
  | 0x0B => (0, thKeyRevoke s b)
  | 0x0C => (0, thDebugOpen s b)
  | 0x0D => (0, zeroise s)
  | 0x0E => (0, thRekey s)
  | _ => (3, s)

/-- A signed command consumes the nonce, whatever its result (R405). -/
def cmdNonce (s : State) (b code : Nat) (signed : Bool) : State :=
  if signed && decide (code ≠ 0) && !trngFailed s then freshNonce s b else s

/-- The result is due. -/
def cmdResult (s : State) (b code result : Nat) : State :=
  { s with th := { s.th with results := Sparse.ins b (code, result) s.th.results } }

/-- COMMAND_COMPLETED: result, busy, the note, the log (R406). -/
def cmdCompleted (s : State) (b : Nat) : State :=
  match Sparse.find b s.th.results with
  | none => s
  | some p =>
    let s := { s with th := { s.th with results := Sparse.del b s.th.results } }
    let s := fset (fset s (Fd.mbCmdStatResult b) p.2) (Fd.mbCmdStatBusy b) 0
    let s := if b = 0 then fon s Fd.thNoteCmd0 else fon s Fd.thNoteCmd1
    thLog s 0x09 p.1 p.2 false

end Sys2Proof.Machine
end

