-- ==== Sys2Proof/Machine/Power.lean ====
section
/-! DEFINITION. Power-up, resets, the release of engines, images, and the idle program (19_startup.md, 17_tollhouse.md
R393-R397). -/

namespace Sys2Proof.Machine

/-! ### Main reset (R448, R449) -/

/-- The value that a register of the map has after a main reset: its "keep" fields stand. Blocks of the always-on
domain stand as their chapters say (R391, R417, R457, R468). -/
def regAfterMain (off v : Nat) : Nat :=
  match RegMap.lookup off with
  | none => 0
  | some h =>
    let rst := (RegMap.resetVal off).toNat
    match h.blk.id with
    | .sb => v
    | .mon => v
    | .pwr => if 0x223100 ≤ off ∨ off = 0x22300C then rst else v
    | .th => if off = Adr.thSense then v
      else if off = Adr.thRngStat then setBits rst 0 0 v
      else mergeFields h.reg.flds (fun f => f.keep) rst v
    | .mb => if off % 0x400 = 4 then setBits rst 19 19 (v / 2 ^ 19) else rst
    | _ => mergeFields h.reg.flds (fun f => f.keep) rst v

def regsMapped (f : Nat → Nat → Nat) (l : List (Nat × Dword)) : List (Nat × Dword) :=
  (l.map fun p => (p.1, BitVec.ofNat 32 (f p.1 p.2.toNat))).filter fun p => decide (p.2 ≠ RegMap.resetVal p.1)

/-- The main domain and every quad are reset, and the reset stays asserted until its release. What the board drives,
the always-on domain and the model's own fields stand. -/
def mainReset (s : State) : State :=
  let t : State :=
    { State.reset with
      pending := s.pending, freeCtr := s.freeCtr, clock := s.clock, resp := s.resp, variant := s.variant
      regs := regsMapped regAfterMain s.regs
      spanId := s.spanId
      posts := (s.posts.map fun p => (p.1, { PostUnit.reset with ext := p.2.ext })).filter
        fun p => decide (p.2 ≠ PostUnit.reset)
      sers := (s.sers.map fun p => (p.1, { SerUnit.reset with cts := p.2.cts })).filter
        fun p => decide (p.2 ≠ SerUnit.reset)
      th := { s.th with running := none, debugOpen := 0, pushCount := 0, bootDue := true, probes := [] } }
  fset (fon t Fd.pwrStatMainRst) Fd.pwrStatIdle 0

/-- RST_CAUSE names the source of the last main reset. -/
def resetCause (s : State) (f : FieldAt) : State := fon (rput s Adr.pwrRstCause 0) f

/-- PWR_EN; while it is low the main rails read 0 (R468), and the core voltage is not watched (R407). -/
def setMainOn (s : State) (b : Bool) : State :=
  let s := fset (fset s Fd.pwrStatMainOn (boolNat b)) Fd.thStatMainOn (boolNat b)
  if b then s else sensorEnd (fset (fset s Fd.monVcoreMv 0) Fd.monVsramMv 0) 9

/-- MAIN_PG rises (R448). -/
def mainPowerUp (s : State) : State :=
  if fbit s Fd.pwrStatMainOn && !fbit s Fd.pwrStatMainPg then
    resetCause (mainReset (fon s Fd.pwrStatMainPg)) Fd.pwrRstCausePowerUp
  else s

/-- Main reset is released (R446): the alarm that stands shows at once (R412), SPAN_ID is sampled (R29). -/
def mainRelease (s : State) (spanId : BitVec 4) : State :=
  if fbit s Fd.pwrStatMainOn && fbit s Fd.pwrStatMainPg && fbit s Fd.pwrStatMainRst then
    let s := { fset s Fd.pwrStatMainRst 0 with spanId := spanId }
    let s := (List.range s.variant.ports).foldl bankJudge s
    if fbit s Fd.thStatAlarm then alarmMain s true else s
  else s

def pgTimedOut (s : State) : State :=
  if fbit s Fd.pwrStatMainOn && !fbit s Fd.pwrStatMainPg then fon (setMainOn s false) Fd.pwrStatPgTimeout else s

def pgLost (s : State) : State :=
  if fbit s Fd.pwrStatMainPg then
    fon (resetCause (mainReset (fset s Fd.pwrStatMainPg 0)) Fd.pwrRstCausePgLoss) Fd.pwrStatPgLost
  else s

/-- PWR_EN falls: main reset in the same cycle (R447); a BOOT that runs ends with result 8 (R452). -/
def mainOff (s : State) : State :=
  if fbit s Fd.pwrStatMainOn then
    let s := mainReset (setMainOn s false)
    { s with th := { s.th with results := s.th.results.map fun p => if p.2.1 = 1 then (p.1, (1, 8)) else p } }
  else s

/-- POWER action 1. -/
def mainOn (s : State) : State := setMainOn s true

/-- POWER action 3. -/
def mainResetBySideband (s : State) : State := resetCause (mainReset s) Fd.pwrRstCauseSideband

/-! ### Quad reset (R448-R450) -/

/-- A register of the quad `q` that a quad reset resets. -/
def inQuadRegs (q off : Nat) : Bool :=
  decide (0x34000 + 0x100 * q ≤ off ∧ off < 0x34000 + 0x100 * (q + 1)) ||
  decide (0x1000000 + 0x10000 * q ≤ off ∧ off < 0x1000000 + 0x10000 * (q + 1)) &&
    (let r := off % 0x10000
     decide (0x8000 ≤ r ∧ r < 0x8080) ||
     decide (0x1000 ≤ r ∧ r < 0x5000 ∧ 0x100 ≤ r % 0x1000 ∧ r % 0x1000 < 0x200 ∧ r % 0x1000 ≠ 0x100 ∧
       r % 0x1000 ≠ 0x110))

/-- The quad's engines, task inputs, interrupt stacks, control blocks and DMA channels are reset. -/
def quadClear (s : State) (q : Nat) : State :=
  let s := icQuadReset s q
  let s := { s with
    regs := s.regs.filter fun p => !inQuadRegs q p.1
    engs := s.engs.filter fun p => decide (p.1 / 4 ≠ q) }
  let s := (List.range 2).foldl (fun s d => ageEnd s (.bayDma (Fin.ofNat 64 (2 * q + d)))) s
  (List.range 4).foldl (fun s i => landFreezeAll s (4 * q + i)) s

/-- A request: 64 cycles of reset from now, also for a quad that is in reset already. The quad reports through FAULT_OWN
bit 0 of its bay (R32). -/
def quadReset (s : State) (q : Nat) (watchdog : Bool) : State :=
  if !quadPresent s q then s
  else
    let old := Sparse.get 0 q s.quadRst
    let s := raise (if old = 0 then quadClear s q else s) (bayQuad q) 0
    let s := fset s Fd.pwrQstatInRst (fget s Fd.pwrQstatInRst ||| 2 ^ q)
    { s with quadRst := Sparse.put 0 q (2 * (s.clock + 64) + (if watchdog || decide (old % 2 = 1) then 1 else 0)) s.quadRst }

/-- QRST (R457). -/
def qrstWrite (s : State) (v : Nat) : State := if bit v 19 then quadReset s (v % 32) false else s

/-- A held engine is released (R450). -/
def engRelease (s : State) (e : Nat) : State :=
  let pc : Word := BitVec.ofNat 20 (fget s (Fd.pwrEngStartPc e))
  let lvl : BitVec 2 := if granted s e then 0 else 1
  let halt := fbit s (Fd.engDbgCtlHalt (e / 4) (e % 4))
  landFreezeAll (setEng s e (fetchFresh s e { engOf s e with
    pc := pc, level := lvl, ceil := lvl, held := false, halted := halt, dbgPc := if halt then pc else 0 })) e

/-- The held engines of a list whose ENG_START.run is 1 start. -/
def engStartAll (s : State) (es : List Nat) : State :=
  (es.filter fun e => engPresent s e && !inQuadReset s (e / 4) && (engOf s e).held && fbit s (Fd.pwrEngStartRun e)).foldl
    engRelease s

/-- An ENG_GO write. -/
def engGoWrite (s : State) (v : Nat) : State := if bit v 0 then engStartAll s (List.range s.variant.engines) else s

/-- The quad leaves reset. -/
def quadRelease (s : State) (q : Nat) : State :=
  let v := Sparse.get 0 q s.quadRst
  if v = 0 ∨ s.clock < v / 2 then s
  else
    let s := { s with quadRst := Sparse.put 0 q 0 s.quadRst }
    let s := fset s Fd.pwrQstatInRst (fget s Fd.pwrQstatInRst &&& (2 ^ 32 - 1 - 2 ^ q))
    let s := raiseIf s (decide (v % 2 = 1)) (bayQuad q) 2
    engStartAll s ((List.range 4).map fun i => 4 * q + i)

/-! ### PERST# (R452) -/

/-- The endpoint's state while PERST# is low: nothing enabled, every vector masked. -/
def hostOff : HostState :=
  { busMaster := false, fnMask := false, masked := List.range 64, table := [], lastMsg := none, aerUr := false }

def perstLow (s : State) : State :=
  if fbit s Fd.pwrStatPerst then s
  else
    let s := fon s Fd.pwrStatPerst
    if mainUp s then
      let s := fon (fset s Fd.hlStatLinkUp 0) Fd.hlStatDown
      { s with host := hostOff, ic := { s.ic with outstanding := [] } }
    else s

/-- PERST# goes high, and the host configures the endpoint again (DESIGN CHOICE, log entry 22). -/
def perstHigh (s : State) : State :=
  if fbit s Fd.pwrStatPerst then { fset s Fd.pwrStatPerst 0 with host := HostState.reset } else s

/-- A rate and a width that the link supports (R372). -/
def linkMode (speed width : Nat) : Bool := decide (1 ≤ speed ∧ speed ≤ 5 ∧ (width = 1 ∨ width = 2 ∨ width = 4))

/-- The link reaches L0, or leaves (R380). -/
def linkUp (s : State) (speed width : Nat) : State :=
  if mainUp s && !fbit s Fd.pwrStatPerst && linkMode speed width then
    fset (fset (fon s Fd.hlStatLinkUp) Fd.hlStatSpeed speed) Fd.hlStatWidth width
  else s

def linkDown (s : State) : State :=
  if fbit s Fd.hlStatLinkUp then fon (fset s Fd.hlStatLinkUp 0) Fd.hlStatDown else s

/-! ### Images (R394-R396) -/

/-- `n` bytes of an image from an offset. -/
def imgBytes (img : Nat → Byte) (at' n : Nat) : List Byte := (List.range n).map fun i => img (at' + i)
def imgNat (img : Nat → Byte) (at' n : Nat) : Nat := leNat (imgBytes img at' n)

/-- A section descriptor: destination, kind, size, offset. -/
structure Section where
  dest : Nat
  kind : Nat
  size : Nat
  at' : Nat
deriving DecidableEq, Repr

def imgSections (img : Nat → Byte) : List Section :=
  (List.range (imgNat img 14 2)).map fun k =>
    let a := 256 + 16 * k
    { dest := imgNat img a 6, kind := imgNat img (a + 6) 1, size := imgNat img (a + 8) 4, at' := imgNat img (a + 12) 4 }

/-- The header is a header of the type: its fixed fields, and its counts within their ranges. -/
def imgHeaderOk (img : Nat → Byte) (typ room : Nat) : Bool :=
  let n := imgNat img 14 2
  let len := imgNat img 20 4
  decide (imgBytes img 0 8 = asciiBytes [88, 77, 66, 79, 79, 84, 48, 49]) && decide (imgNat img 8 2 = 1) &&
  decide (imgNat img 10 1 = typ) &&
  decide (imgNat img 16 4 ≤ 64 ∧ len % 16 = 0 ∧ 256 + len ≤ room) &&
  (if typ = 0 then decide (n = 0 ∧ len ≤ 2 ^ 19 ∧ imgNat img 12 1 = 6)
   else decide (1 ≤ n ∧ n ≤ 64 ∧ len ≤ 2 ^ 26 ∧ imgNat img 12 1 ≤ 5))

/-- The key that the header names. -/
def imgKey (s : State) (img : Nat → Byte) (typ : Nat) : Option (BitVec 256) :=
  let k := imgNat img 11 1
  if typ = 0 then (if k ≤ 1 then some (Config.mehrustKey k) else none)
  else if k ≤ 3 then (ownerKey s k).map (BitVec.ofNat 256) else none

/-- Bytes of one SECVEC register: sections write those although they lie above 0x022_0000 (R397, R451). -/
def secvecBytes (off n : Nat) : Bool :=
  decide (0x1000000 ≤ off ∧ off < 0x1200000 ∧ 1 ≤ off / 0x1000 % 16 ∧ off / 0x1000 % 16 ≤ 4 ∧
    0x100 ≤ off % 0x1000 ∧ off % 0x1000 + n ≤ 0x104)

/-- The target of a kind 0 section: DRAM, engine RAM containers, control space below 0x022_0000, or a SECVEC. -/
def sectionTargetOk (s : State) (d : Section) : Bool :=
  decide (d.dest + d.size ≤ s.mem.top) ||
  decide (0xF00000000000 ≤ d.dest ∧ d.dest + d.size ≤ 0xF00000220000) ||
  (decide (0xF00000000000 ≤ d.dest) && secvecBytes (d.dest - 0xF00000000000) d.size) ||
  (decide (0xF00010000000 ≤ d.dest) && (List.range ((d.size + 3) / 4)).all fun k =>
    match chipLoc s (d.dest + 4 * k) with
    | .localRam _ _ => true
    | .quadRam _ _ => true
    | .absent => true
    | _ => false)

def sectionsOk (s : State) (img : Nat → Byte) : Bool :=
  let len := imgNat img 20 4
  decide (16 * imgNat img 14 2 ≤ len) && (imgSections img).all fun d =>
    decide (d.at' + d.size ≤ len) && (decide (d.kind ≠ 0) || sectionTargetOk s d)

/-- Why an image is refused (R396, the reasons of R414), or none; `room` is the space that its source gives it. -/
def imgRefused (s : State) (img : Nat → Byte) (typ room : Nat) : Option Nat :=
  if !imgHeaderOk img typ room then some 1
  else match imgKey s img typ with
    | none => some 2
    | some k =>
      if !Config.ed25519Verify k (imgBytes img 0 128) (BitVec.ofNat 512 (imgNat img 128 64)) then some 3
      else if (Config.sha512 (imgBytes img 256 (imgNat img 20 4))).toNat ≠ imgNat img 32 64 then some 4
      else if imgNat img 16 4 < counterOf s (imgNat img 12 1) then some 5
      else if typ = 1 ∧ !sectionsOk s img then some 6
      else none

/-- A NOR copy as an image, and its room: up to the end of its region and of the device. -/
def norImage (at' : Nat) : Nat → Byte := fun i => Config.norByte (at' + i)
def norRoom (at' region : Nat) : Nat := min region (Config.norSize - at')

/-! ### Always-on reset (R397, R446, R448) -/

/-- Registers that stand through an always-on reset: the battery domain's, which works without standby (R392), TH_SENSE
for the sensors that it watches (R407), and the pins of the banks. -/
def regAfterAon (off v : Nat) : Nat :=
  if off = Adr.thPol0 ∨ off = Adr.thPol1 ∨ off = Adr.thDoor ∨ off = Adr.thDoorDeb ∨ off = Adr.thLogSeq then v
  else if off = Adr.thSense then v &&& 0x21FF
  else match RegMap.lookup off with
    | none => 0
    | some h =>
      match h.blk.id with
      | .prt => regAfterMain off v
      | _ => (RegMap.resetVal off).toNat

/-- Mask ROM takes firmware copy A, then copy B (R397). -/
def firmwareBoot (s : State) : State :=
  let good := [0x000000, 0x100000].find? fun a => (imgRefused s (norImage a) 0 (norRoom a 0x100000)).isNone
  match good with
  | some a =>
    let s := mrPut s 0 (Config.sha512 (leBytes 64 0 ++ headerDigest a)).toNat
    { s with th := { s.th with fw := true } }
  | none =>
    let r := (imgRefused s (norImage 0x100000) 0 (norRoom 0x100000 0x100000)).getD 0
    logPut { s with th := { s.th with fw := false } } (logBody s 0x01 0 r false false)
where
  headerDigest (a : Nat) : List Byte := keyBytes 64 (Config.sha512 (imgBytes (norImage a) 0 128)).toNat

/-- The always-on domain after its reset, without standby. -/
def aonDown (s : State) : State :=
  let t := mainReset s
  let t := { t with
    regs := regsMapped regAfterAon s.regs
    th := { t.th with aonUp := false, fw := false, priv := none, starts := [], results := [], spdm := false } }
  resetCause t Fd.pwrRstCauseAon

/-- VDD_AON rises or TH_RST# is released (`up`), or VDD_AON is lost (R446-R448). -/
def aonReset (s : State) (up : Bool) (bootSel sbAddr : Nat) : State :=
  let t := aonDown s
  if !up then t
  else
    let t := { t with th := { t.th with aonUp := true } }
    let t := fset (fset t Fd.thStatBootSel bootSel) Fd.sbStatAddr (0x64 + sbAddr)
    let t := firmwareBoot (publishId (logLost t))
    if !t.th.fw then t
    else
      let t := logDrain (showLife (deriveId t))
      let t := if t.th.batteryAlarm = 0 then t
        else { alarmRaise t t.th.batteryAlarm with th := { t.th with batteryAlarm := 0 } }
      setMainOn t (fbit t Fd.pwrCfgAutoOn)

/-- VBAT is lost while VDD_AON is absent: the battery domain loses its values (R392, R417). -/
def vbatLost (s : State) : State :=
  if s.th.aonUp then s
  else
    let th := { s.th with share := none, log := [], fifo := [], lost := 0, batteryAlarm := 0, rtcSec := 0, rtcFrac := 0,
                          prLast := [] }
    let s := { s with th := th }
    [Adr.thPol0, Adr.thPol1, Adr.thDoor, Adr.thDoorDeb, Adr.thLogSeq, Adr.thSense].foldl (fun s o => rput s o 0) s

/-! ### The idle program (R453-R456) -/

/-- The idle program starts: it manages every present head H0-H3. -/
def idleStart (s : State) : State :=
  let m := (List.range 4).foldl (fun a h => if s.variant.head h then a + 2 ^ h else a) 0
  fset (fon s Fd.pwrStatIdle) Fd.pwrIdleHeadsHeads m

def idleStop (s : State) : State :=
  fset (fset { s with th := { s.th with probes := [] } } Fd.pwrStatIdle 0) Fd.pwrIdleHeadsHeads 0

/-- The idle program manages head `h`. -/
def idleManages (s : State) (h : Nat) : Bool := fbit s Fd.pwrStatIdle && bit (fget s Fd.pwrIdleHeadsHeads) h

/-- What row `r` of the banner reports (R455). -/
def bannerFacts (s : State) (r : Nat) : List Nat :=
  match r with
  | 0 => [match s.variant with
          | .xm128 => 0 | .xm64 => 1 | .xm32l => 2]
  | 2 => [life s, fget s Fd.thStatBootSel, boolNat (fbit s Fd.thStatBootOk)]
  | 3 => [boolNat (fbit s Fd.thStatAlarm), fget s Fd.thAlarmCause]
  | 4 => [fget s Fd.thDoorOpen]
  | 5 => [boolNat (fbit s Fd.hlStatLinkUp), fget s Fd.hlStatSpeed, fget s Fd.hlStatWidth]
  | 6 => [boolNat (joined s)]
  | _ =>
    if 8 ≤ r ∧ r ≤ 13 then
      [hactive s (r - 8), vactive s (r - 8), boolNat (headRunning s (r - 8)), (rget s (Adr.headDpStat (r - 8))).toNat]
    else []

/-- One pixel of the banner picture, RGB565: white on navy. -/
def bannerPixel (s : State) (x y : Nat) : Nat :=
  let r := y / 16
  let facts := bannerFacts s r
  if facts.isEmpty then 0x0010
  else if bit (Config.fontRow (Config.bannerChar r (x / 8) facts) (y % 16)).toNat (x % 8) then 0xFFFF
  else 0x0010

/-- The Tollhouse rewrites every row of the banner (R455). -/
def bannerWrite (s : State) : State :=
  if !fbit s Fd.pwrStatIdle || decide (s.mem.top = 0) then s
  else
    (List.range 480).foldl (fun t y =>
      (dramWrite t (s.mem.top - 0x100000 + 1280 * y)
        ((List.range 640).flatMap fun x => leBytes 2 (bannerPixel s x y)) false).2) s

end Sys2Proof.Machine
end

