-- ==== Sys2Proof/Machine/Movers.lean ====
section
/-! DEFINITION. Bay DMA and the Planer, and what a register write does to a Barge channel (13_memory_movers.md R311,
R312, R320-R341). -/

namespace Sys2Proof.Machine

/-! ### The byte side: DRAM and RAM containers -/

/-- Bytes of one 32-bit container of an engine RAM. A run is judged against the Secure grant at its go write (R321), so its
accesses pass the guard. -/
def containerBytes (s : State) (a : Nat) : List Byte × Bool × State :=
  let r := ramOutRead s .tollhouse (chipLoc s a)
  (leBytes 4 r.1, decide (r.2.1 = .poison), r.2.2)

/-- Bytes of the containers from `a` for `n` bytes, container by container. -/
def ramBytes (s : State) (a n : Nat) : List Byte × Bool × State :=
  let first := a / 4 * 4
  let k := if n = 0 then 0 else (a + n - 1) / 4 - a / 4 + 1
  let r := (List.range k).foldl (fun (p : List Byte × Bool × State) i =>
    let x := containerBytes p.2.2 (first + 4 * i)
    (p.1 ++ x.1, p.2.1 || x.2.1, x.2.2)) ([], false, s)
  ((r.1.drop (a - first)).take n, r.2.1, r.2.2)

/-- Every container of a byte range lies in a RAM (R320). -/
def ramRangeOk (s : State) (a n : Nat) : Bool :=
  (List.range ((n + a % 4 + 3) / 4)).all fun k =>
    match chipLoc s (a / 4 * 4 + 4 * k) with
    | .localRam _ _ => true
    | .quadRam _ _ => true
    | .absent => true
    | _ => false

/-- A read of the byte side: bytes, poisoned, error. -/
def sideRead (s : State) (a n : Nat) : List Byte × Bool × Bool × State :=
  if a + n ≤ s.mem.top then
    let r := dramRead s a n
    (r.1, r.2.1, false, r.2.2)
  else if !ramRangeOk s a n then ([], false, true, chipUnmapped s)
  else
    let r := ramBytes s a n
    (r.1, r.2.1, false, r.2.2)

/-- A write into one container, its other bytes kept. -/
def containerMerge (s : State) (a : Nat) (bs : List Byte) : Bool × State :=
  let old := containerBytes s (a / 4 * 4)
  let k := a % 4
  let w := old.1.take k ++ bs ++ old.1.drop (k + bs.length)
  let r := ramOutWrite old.2.2 .tollhouse (leNat w) (chipLoc s (a / 4 * 4))
  (decide (r.1 = .ok), r.2)

/-- A write of the byte side; the flag tells that it was performed. -/
def sideWrite (s : State) (a : Nat) (bs : List Byte) : Bool × State :=
  if a + bs.length ≤ s.mem.top then dramWrite s a bs false
  else if !ramRangeOk s a bs.length then (false, chipUnmapped s)
  else
    let first := a / 4
    let k := if bs.isEmpty then 0 else (a + bs.length - 1) / 4 - first + 1
    (List.range k).foldl (fun (p : Bool × State) i =>
      if !p.1 then p
      else
        let lo := max a (4 * (first + i))
        let hi := min (a + bs.length) (4 * (first + i) + 4)
        containerMerge p.2 lo ((bs.drop (lo - a)).take (hi - lo))) (true, s)

/-- The pieces of a byte range between multiples of 8: the beats, as offsets and lengths. -/
def beatsOf (a n : Nat) : List (Nat × Nat) :=
  (granulesOf a n).map fun g =>
    let lo := max a (8 * g)
    (lo - a, min (a + n) (8 * g + 8) - lo)

/-! ### Bay DMA (R320-R327) -/

def dmaBusy (s : State) (q d : Nat) : Bool := fbit s (Fd.dStatBusy q d)
def dmaArmed (s : State) (q d : Nat) : Bool := fbit s (Fd.dStatArmed q d)
def dmaAddr (s : State) (q d : Nat) : Nat := split16 s (Adr.dBaddr q d) 3

/-- CTRL.wsel; 5-7 are reserved and act as one of the five. -/
def dmaSel (s : State) (q d : Nat) : Nat :=
  let v := fget s (Fd.dCtrlWsel q d)
  if 5 ≤ v then openField s (Fd.dCtrlWsel q d) 5 else v

/-- The bytes that `n` words cover, and the whole words in `c` bytes (R322). -/
def dmaBytes (mode n : Nat) : Nat :=
  match mode with
  | 0 => 4 * n
  | 1 => (5 * n + 1) / 2
  | 2 => n
  | _ => 2 * n

def dmaWords (mode c : Nat) : Nat :=
  match mode with
  | 0 => c / 4
  | 1 => 2 * c / 5
  | 2 => c
  | _ => c / 2

/-- Granule key and slot of word `i` of the word side. -/
def dmaWordAt (s : State) (q d i : Nat) : Nat × Nat :=
  let w := fget s (Fd.dWaddrW q d) + i
  let sel := dmaSel s q d
  if sel = 4 then (quadKey q (w / 3), w % 3) else (localKey (4 * q + sel) (w / 3), w % 3)

/-- The containers of a word side's words, as chip addresses. -/
def dmaWordChip (s : State) (q d : Nat) : Nat :=
  let sel := dmaSel s q d
  let w := fget s (Fd.dWaddrW q d)
  if sel = 4 then 0xF00020000000 + q * 0x80000 + 4 * w else 0xF00010000000 + (4 * q + sel) * 0x20000 + 4 * w

/-- Words packed into bytes (R322). -/
def dmaPack (mode : Nat) (ws : List Nat) : List Byte :=
  match mode with
  | 0 => ws.flatMap fun w => leBytes 4 w
  | 1 => leBytes ((5 * ws.length + 1) / 2)
      ((List.range ws.length).foldl (fun a k => a + ws.getD k 0 * 2 ^ (20 * k)) 0)
  | 2 => ws.flatMap fun w => leBytes 1 w
  | _ => ws.flatMap fun w => leBytes 2 w

/-- Word `k` out of bytes. -/
def dmaUnpack (mode : Nat) (sx : Bool) (bs : List Byte) (k : Nat) : Nat :=
  let ext := fun (n v : Nat) => if sx && bit v (n - 1) then v + 2 ^ 20 - 2 ^ n else v
  match mode with
  | 0 => leNat ((bs.drop (4 * k)).take 4) % 2 ^ 20
  | 1 => leNat ((bs.drop (5 * (k / 2))).take 5) / 2 ^ (20 * (k % 2)) % 2 ^ 20
  | 2 => ext 8 (leNat ((bs.drop k).take 1))
  | _ => ext 16 (leNat ((bs.drop (2 * k)).take 2))

/-- The byte range is empty, or lies in DRAM or in RAM containers (R320). -/
def dmaRangeOk (s : State) (a n : Nat) : Bool :=
  decide (n = 0) || decide (a + n ≤ s.mem.top) || ramRangeOk s a n

/-- The granted engines whose local RAM the run touches (R321). -/
def dmaGuards (s : State) (q d : Nat) : List Nat :=
  let sel := dmaSel s q d
  let a := dmaAddr s q d
  let n := dmaBytes (fget s (Fd.dCtrlMode q d)) (fget s (Fd.dCountN q d))
  let touches := fun e => decide (0 < n ∧ a < 0xF00010000000 + 0x20000 * (e + 1) ∧ 0xF00010000000 + 0x20000 * e < a + n)
  (List.range s.variant.engines).filter fun e => granted s e && (decide (sel < 4 ∧ e = 4 * q + sel) || touches e)

/-- A run that is refused sets STAT.bad, and bit 7 of the granted engines' faces where the guard refuses it. -/
def dmaRefused (s : State) (m : Master) (q d : Nat) : Option State :=
  let n := fget s (Fd.dCountN q d)
  let size := if dmaSel s q d = 4 then 0x18000 else 0x6000
  let bytes := dmaBytes (fget s (Fd.dCtrlMode q d)) n
  let guards := if masterSecure m then [] else dmaGuards s q d
  if (n ≠ 0 ∧ size < fget s (Fd.dWaddrW q d) + n) ∨ !dmaRangeOk s (dmaAddr s q d) bytes ∨ guards ≠ [] then
    some (guards.foldl (fun s e => raise s (bayEng e) 7) (fon s (Fd.dStatBad q d)))
  else none

/-- A run starts. -/
def dmaStart (s : State) (q d : Nat) : State :=
  let s := ageEnd (tallyBegin s 2 (2 * q + d) 0 0) (.bayDma (Fin.ofNat 64 (2 * q + d)))
  fset (fset (fon s (Fd.dStatBusy q d)) (Fd.dStatArmed q d) 0) (Fd.dLeftN q d) (fget s (Fd.dCountN q d))

/-- A go write (R324). -/
def dmaGo (s : State) (m : Master) (q d : Nat) : State :=
  if dmaBusy s q d || dmaArmed s q d then stopIgnored s (Adr.dCtrl q d) (bayQuad q)
  else
    match dmaRefused s m q d with
    | some s' => s'
    | none => if fbit s (Fd.dCtrlTrigEn q d) then fon s (Fd.dStatArmed q d) else dmaStart s q d

/-- An armed channel takes one trigger and starts (R324). -/
def dmaTake (s : State) (q d : Nat) : State :=
  if dmaArmed s q d && fbit s (Fd.dStatTrigPend q d) then
    dmaStart (fset s (Fd.dStatTrigPend q d) (fget s (Fd.dStatTrigPend q d) - 1)) q d
  else s

/-- How a run went: the words written, and whether poison or an error stopped it. -/
structure DmaEnd where
  done : Nat
  poison : Bool
  err : Bool
deriving DecidableEq, Repr

/-- A run as it goes: the words and the bytes that the holding register has taken or given, and what stopped it. -/
structure DmaRun where
  st : State
  words : List Nat
  bytes : List Byte
  poison : Bool
  err : Bool

def DmaRun.stopped (r : DmaRun) : Bool := r.poison || r.err

/-- Words of the word side are read until there are `need` of them, up to the first uncorrectable granule. -/
def dmaReadWords (r : DmaRun) (q d need : Nat) : DmaRun :=
  (List.range (need - r.words.length)).foldl (fun r _ =>
    if r.stopped then r
    else
      let w := dmaWordAt r.st q d r.words.length
      let x := ramReadWord r.st w.1 w.2
      if x.2.1 then { r with st := x.2.2, poison := true }
      else { r with st := x.2.2, words := r.words ++ [x.1.toNat] }) r

/-- The words given are written to the word side after those written before, up to the first that is not performed. -/
def dmaWriteWords (r : DmaRun) (q d : Nat) (ws : List Nat) : DmaRun :=
  ws.foldl (fun r v =>
    if r.stopped then r
    else
      let w := dmaWordAt r.st q d r.words.length
      let x := ramWriteWord r.st w.1 w.2 (BitVec.ofNat 20 v)
      if x.1 then { r with st := x.2, words := r.words ++ [v] } else { r with st := x.2, poison := true }) r

/-- The words whose bits `c` bytes carry (R322). -/
def dmaNeed (mode c : Nat) : Nat :=
  match mode with
  | 0 => (c + 3) / 4
  | 1 => (2 * c + 4) / 5
  | 2 => c
  | _ => (c + 1) / 2

/-- The beats of a byte range that an abort at `limit` bytes lets through. -/
def dmaBeats (a total limit : Nat) : List (Nat × Nat) :=
  (beatsOf a total).filter fun b => decide (b.1 + b.2 ≤ limit)

/-- Words to bytes, `limit` bytes at most: a beat leaves once the register holds every bit it carries (R323), so the first
of a bad word and a failed write ends the run (R325). -/
def dmaOut (s : State) (q d limit : Nat) : DmaEnd × State :=
  let n := fget s (Fd.dCountN q d)
  let mode := fget s (Fd.dCtrlMode q d)
  let a := dmaAddr s q d
  let r : DmaRun := { st := s, words := [], bytes := [], poison := false, err := false }
  let r := (dmaBeats a (dmaBytes mode n) limit).foldl (fun (r : DmaRun) b =>
    if r.stopped then r
    else
      let r := dmaReadWords r q d (min n (dmaNeed mode (b.1 + b.2)))
      if r.stopped then r
      else
        let bs := ((dmaPack mode r.words).drop b.1).take b.2
        let x := sideWrite r.st (a + b.1) bs
        if x.1 then { r with st := x.2, bytes := r.bytes ++ bs } else { r with st := x.2, err := true }) r
  let done := if r.bytes.length = dmaBytes mode n then n else dmaWords mode r.bytes.length
  ({ done := done, poison := r.poison, err := r.err }, tallyPush r.st 2 (2 * q + d) 0 r.bytes)

/-- Bytes to words; reads are whole beats, and the words that a beat completes are written before the next one is read
(R323). -/
def dmaIn (s : State) (q d limit : Nat) : DmaEnd × State :=
  let n := fget s (Fd.dCountN q d)
  let mode := fget s (Fd.dCtrlMode q d)
  let a := dmaAddr s q d
  let total := dmaBytes mode n
  let sx := fbit s (Fd.dCtrlSx q d)
  let r : DmaRun := { st := s, words := [], bytes := [], poison := false, err := false }
  let r := (dmaBeats a total limit).foldl (fun (r : DmaRun) b =>
    if r.stopped then r
    else
      let x := sideRead r.st ((a + b.1) / 8 * 8) 8
      if x.2.1 || x.2.2.1 then { r with st := x.2.2.2, poison := x.2.1, err := x.2.2.1 }
      else
        let bs := r.bytes ++ (x.1.drop ((a + b.1) % 8)).take b.2
        let k := if bs.length = total then n else dmaWords mode bs.length
        let ws := ((List.range k).drop r.words.length).map (dmaUnpack mode sx bs)
        dmaWriteWords { r with st := x.2.2.2, bytes := bs } q d ws) r
  ({ done := r.words.length, poison := r.poison, err := r.err }, tallyPush r.st 2 (2 * q + d) 0 r.bytes)

/-- The word side and the byte side share a word (R326). -/
def dmaOverlap (s : State) (q d : Nat) : Bool :=
  let n := fget s (Fd.dCountN q d)
  let c := dmaWordChip s q d
  let a := dmaAddr s q d
  let b := dmaBytes (fget s (Fd.dCtrlMode q d)) n
  decide (0 < n ∧ a < c + 4 * n ∧ c < a + b)

/-- Mode 0 between two ranges of RAM: four words are read ahead, then word k is written before word k + 4 is read
(R326). `rd` and `wr` are the chip addresses of the source and the destination, `n` the words of the run, `m` those to be
written; `r.words` the words read, `k` counts those written. -/
def dmaAhead (rd wr n m : Nat) : Nat → Nat → DmaRun → Nat × DmaRun
  | 0, k, r => (k, r)
  | fuel + 1, k, r =>
    if m ≤ k then (k, r)
    else
      let w := sideWrite r.st (wr + 4 * k) (leBytes 4 (r.words.getD k 0))
      if !w.1 then (k, { r with st := w.2, err := true })
      else if n ≤ k + 4 then dmaAhead rd wr n m fuel (k + 1) { r with st := w.2 }
      else
        let x := sideRead w.2 (rd + 4 * (k + 4)) 4
        if x.2.1 || x.2.2.1 then (k + 1, { r with st := x.2.2.2, poison := x.2.1, err := x.2.2.1 })
        else dmaAhead rd wr n m fuel (k + 1) { r with st := x.2.2.2, words := r.words ++ [leNat x.1 % 2 ^ 20] }

/-- The words that `limit` bytes of the byte side make up; the whole run where they are all its bytes. -/
def dmaLimit (s : State) (q d limit : Nat) : Nat :=
  let n := fget s (Fd.dCountN q d)
  let mode := fget s (Fd.dCtrlMode q d)
  if dmaBytes mode n ≤ limit then n else min n (dmaWords mode limit)

/-- The run of R326: the first four words, then the alternation. The tally sees the byte side: the words written, or the
words taken (R298). -/
def dmaMode0 (s : State) (q d limit : Nat) : DmaEnd × State :=
  let n := fget s (Fd.dCountN q d)
  let dir := fbit s (Fd.dCtrlDir q d)
  let words := dmaWordChip s q d
  let bytes := dmaAddr s q d
  let rd := if dir then bytes else words
  let wr := if dir then words else bytes
  let f := ramBytes s rd (4 * min 4 n)
  let r : DmaRun :=
    { st := f.2.2, words := (List.range (min 4 n)).map fun k => leNat ((f.1.drop (4 * k)).take 4) % 2 ^ 20, bytes := []
      poison := f.2.1, err := false }
  let x := if r.stopped then (0, r) else dmaAhead rd wr n (dmaLimit s q d limit) n 0 r
  let seen := if f.2.1 then [] else (if dir then x.2.words else x.2.words.take x.1).flatMap (leBytes 4)
  ({ done := x.1, poison := x.2.poison, err := x.2.err }, tallyPush x.2.st 2 (2 * q + d) 0 seen)

/-- An overlap in modes 1-3: every destination unit takes a free value (R480 case 3, R482). -/
def dmaOpen (s : State) (q d limit : Nat) : DmaEnd × State :=
  let n := fget s (Fd.dCountN q d)
  let mode := fget s (Fd.dCtrlMode q d)
  let a := dmaAddr s q d
  let k := dmaLimit s q d limit
  let total := min limit (dmaBytes mode n)
  let s := if fbit s (Fd.dCtrlDir q d) then
      (List.range k).foldl (fun s i =>
        let w := dmaWordAt s q d i
        drew (ramStore s w.1 (granSet (granOf s w.1) w.2 (BitVec.ofNat 20 (draw s).toNat)))) s
    else
      (List.range total).foldl (fun s i =>
        drew (containerMerge s (a + i) (leBytes 1 (draw s).toNat)).2) s
  ({ done := k, poison := false, err := false }, tallyPush s 2 (2 * q + d) 0 (ramBytes s a total).1)

/-- The data that a run moves, up to `limit` bytes of its byte side. -/
def dmaMove (s : State) (q d limit : Nat) : DmaEnd × State :=
  if dmaOverlap s q d && decide (fget s (Fd.dCtrlMode q d) = 0) then dmaMode0 s q d limit
  else if dmaOverlap s q d then dmaOpen s q d limit
  else if fbit s (Fd.dCtrlDir q d) then dmaIn s q d limit
  else dmaOut s q d limit

/-- A run is over: busy clears, LEFT gives the words not written, the tally's frame ends. -/
def dmaOver (s : State) (q d : Nat) (r : DmaEnd) : State :=
  let s := fset (fset s (Fd.dStatBusy q d) 0) (Fd.dLeftN q d) (fget s (Fd.dCountN q d) - r.done)
  tallyEnd (ageEnd s (.bayDma (Fin.ofNat 64 (2 * q + d)))) 2 (2 * q + d) 0

/-- A run ends by itself: the status, the event (R325). -/
def dmaFinish (s : State) (q d : Nat) (r : DmaEnd) : State :=
  let s := dmaOver s q d r
  let s := if r.poison then raise (fon s (Fd.dStatPoison q d)) (bayQuad q) 4 else s
  let s := if r.err then raise (fon s (Fd.dStatErr q d)) (bayQuad q) 5 else s
  if r.poison || r.err then fireIf s (fbit s (Fd.dEvtErrEn q d)) (fget s (Fd.dEvtErrChan q d))
  else fireIf s (fbit s (Fd.dEvtDoneEn q d)) (fget s (Fd.dEvtDoneChan q d))

/-- The run has ended and its last response returned. -/
def dmaComplete (s : State) (q d : Nat) : State :=
  if !dmaBusy s q d then s
  else
    let r := dmaMove s q d (dmaBytes (fget s (Fd.dCtrlMode q d)) (fget s (Fd.dCountN q d)))
    dmaFinish r.2 q d r.1

/-- An abort (R324): a free number of beats has been moved (DESIGN CHOICE, log entry 2). A run that poison or an error
stopped before ends by it (R325). -/
def dmaAbort (s : State) (q d : Nat) : State :=
  if dmaArmed s q d then fset s (Fd.dStatArmed q d) 0
  else if !dmaBusy s q d then s
  else
    let beats := beatsOf (dmaAddr s q d) (dmaBytes (fget s (Fd.dCtrlMode q d)) (fget s (Fd.dCountN q d)))
    let limit := (beats.take ((draw s).toNat % (beats.length + 1))).foldl (fun _ b => b.1 + b.2) 0
    let r := dmaMove (drew s) q d limit
    if r.1.poison || r.1.err then dmaFinish r.2 q d r.1 else fon (dmaOver r.2 q d r.1) (Fd.dStatAborted q d)

/-! ### The Planer (R335-R341) -/

def plBytes (s : State) : Nat := fget s Fd.plCmdBpp + 1
def plSrc (s : State) : Nat := split16 s Adr.plSrc 3
def plDst (s : State) : Nat := split16 s Adr.plDst 3
def plColor (s : State) : Nat := split16 s Adr.plColor 2
def plLen (s : State) : Nat := split16 s Adr.plLen 2

/-- The pixels that the line operation plots, before the clip to the surface (R339). -/
def linePoints (last : Bool) (dx dy sx sy x1 y1 : Int) : Nat → Int → Int → Int → List (Int × Int)
  | 0, _, _, _ => []
  | fuel + 1, x, y, err =>
    let here := if last && decide (x = x1 ∧ y = y1) then [] else [(x, y)]
    if x = x1 ∧ y = y1 then here
    else
      let e2 := 2 * err
      let p := if dy ≤ e2 then (err + dy, x + sx) else (err, x)
      let q := if e2 ≤ dx then (p.1 + dx, y + sy) else (p.1, y)
      here ++ linePoints last dx dy sx sy x1 y1 fuel p.2 q.2 q.1

/-- The plotted pixels inside the surface. -/
def plPoints (s : State) : List (Nat × Nat) :=
  let x0 := signedN 15 (fget s Fd.plX0V)
  let y0 := signedN 15 (fget s Fd.plY0V)
  let x1 := signedN 15 (fget s Fd.plX1V)
  let y1 := signedN 15 (fget s Fd.plY1V)
  let dx : Int := ((x1 - x0).natAbs : Nat)
  let dy : Int := -((y1 - y0).natAbs : Nat)
  let l := linePoints (fbit s Fd.plCmdLast) dx dy (if x0 < x1 then 1 else -1) (if y0 < y1 then 1 else -1) x1 y1
    ((x1 - x0).natAbs + (y1 - y0).natAbs + 1) x0 y0 (dx + dy)
  (l.filter fun (p : Int × Int) =>
    decide (0 ≤ p.1 ∧ p.1 < (fget s Fd.plWW : Int) ∧ 0 ≤ p.2 ∧ p.2 < (fget s Fd.plHH : Int))).map
    fun p => (p.1.toNat, p.2.toNat)

/-- The rules of R336 for an address and a pitch. -/
def plAligned (b a : Nat) : Bool := if b = 2 then decide (a % 2 = 0) else if b = 4 then decide (a % 4 = 0) else true
def plPitchOk (b p w : Nat) : Bool := plAligned b p && decide (1 ≤ p ∧ b * w ≤ p)

/-- The end of a rectangle of rows. -/
def plEnd (base pitch w h b : Nat) : Nat := base + (h - 1) * pitch + w * b

/-- The operation breaks a rule of R336, or is one of the reserved ones (R335). -/
def plRefused (s : State) : Bool :=
  let b := plBytes s
  let w := fget s Fd.plWW
  let h := fget s Fd.plHH
  let sp := fget s Fd.plSpitchP
  let dp := fget s Fd.plDpitchP
  let whOk := decide (1 ≤ w ∧ w ≤ 16384 ∧ 1 ≤ h ∧ h ≤ 16384)
  let dstOk := plAligned b (plDst s) && plPitchOk b dp w && whOk
  let top := s.mem.top
  match fget s Fd.plCmdOp with
  | 0 => !(dstOk && plAligned b (plSrc s) && plPitchOk b sp w && decide (plEnd (plSrc s) sp w h b ≤ top) &&
      decide (plEnd (plDst s) dp w h b ≤ top))
  | 1 => !(plAligned b (plDst s) && decide (plLen s = 0 ∨ plDst s + plLen s ≤ top))
  | 2 => !(dstOk && plAligned b (plSrc s) && plPitchOk b sp w && decide (plEnd (plSrc s) sp w h b ≤ top) &&
      decide (plEnd (plDst s) dp w h b ≤ top))
  | 3 => !(dstOk && decide (plEnd (plDst s) dp w h b ≤ top))
  | 4 => !(dstOk && (plPoints s).all fun p => decide (plDst s + p.2 * dp + p.1 * b + b ≤ top))
  | _ => true

/-- A go write (R340). -/
def plGo (s : State) : State :=
  if !s.variant.planer then s
  else if fbit s Fd.plStatBusy then stopIgnored s Adr.plCmd bayChip
  else if plRefused s then fireIf (fon s Fd.plStatRefused) (fbit s Fd.plEvtErrEn) (fget s Fd.plEvtErrChan)
  else fon (ageEnd s .planer) Fd.plStatBusy

/-- The progress of an operation: state, beats it may still write (none: no bound), stopped, poison, error. -/
structure PlRun where
  st : State
  budget : Option Nat
  stop : Bool
  poison : Bool
  err : Bool

/-- Bytes of one granule are written, those given: a whole granule replaces it, a part is merged (R313, R316). -/
def dramWriteSet (s : State) (g : Nat) (l : List (Nat × Byte)) : Bool × State :=
  if l.length = 8 then (true, l.foldl (fun s p => setMemByte s p.1 p.2) (dramClean s g))
  else
    let r := dramReadGran s g
    if r.1 then (false, fon r.2 (Fd.mcEstatRefused (channelOf s (8 * g))))
    else (true, l.foldl (fun s p => setMemByte s p.1 p.2) (dramClean r.2 g))

/-- One write beat of the Planer. -/
def plBeat (p : PlRun) (g : Nat) (l : List (Nat × Byte)) : PlRun :=
  if p.stop || l.isEmpty then p
  else match p.budget with
    | some 0 => { p with stop := true }
    | b =>
      let r := dramWriteSet p.st g l
      if r.1 then { p with st := r.2, budget := b.map (· - 1) }
      else { p with st := r.2, stop := true, err := true }

/-- Bytes to be written, at rising addresses from `a`; none leaves a byte alone. -/
def plBytesOut (p : PlRun) (a : Nat) (bs : List (Option Byte)) (rev : Bool) : PlRun :=
  let gs := granulesOf a bs.length
  (if rev then gs.reverse else gs).foldl (fun p g =>
    plBeat p g ((List.range 8).filterMap fun i =>
      if a ≤ 8 * g + i then ((bs.getD (8 * g + i - a) none).map fun b => (8 * g + i, b)) else none)) p

/-- The source of a row is read in walk order up to the first poisoned granule: the good granules, and poison. -/
def plReadRow (s : State) (a n : Nat) (rev : Bool) : List Nat × Bool × State :=
  let gs := granulesOf a n
  (if rev then gs.reverse else gs).foldl (fun (q : List Nat × Bool × State) g =>
    if q.2.1 then q
    else
      let r := dramReadGran q.2.2 g
      if r.1 then (q.1, true, r.2) else (g :: q.1, false, r.2)) ([], false, s)

/-- A keyed copy writes a pixel of this value (R337). -/
def plKeyed (s : State) (v : Nat) : Bool :=
  let m := 2 ^ (8 * plBytes s)
  let mask := split16 s Adr.plKmask 2 % m
  fget s Fd.plCmdOp ≠ 2 || decide (v &&& mask ≠ split16 s Adr.plKey 2 % m &&& mask)

/-- One row of a copy. `openV` tells that the row's data are free values (R480 case 7). -/
def plCopyRow (openV rev : Bool) (p : PlRun) (r : Nat) : PlRun :=
  if p.stop then p
  else
    let s := p.st
    let b := plBytes s
    let n := fget s Fd.plWW * b
    let src := plSrc s + r * fget s Fd.plSpitchP
    let dst := plDst s + r * fget s Fd.plDpitchP
    let rd := plReadRow s src n rev
    let s := rd.2.2
    let free := (draw s).toNat
    let pix := (List.range (fget s Fd.plWW)).flatMap fun i =>
      let bs := if openV then leBytes b (Config.openOf 4 (free + 16384 * r + i)).toNat else memBytes s (src + i * b) b
      let good := openV || (granulesOf (src + i * b) b).all fun g => NSet.has g rd.1
      bs.map fun x => if good && plKeyed s (leNat bs) then some x else none
    let p := plBytesOut { p with st := if openV then drew s else s } dst pix rev
    if rd.2.1 && !openV then { p with stop := true, poison := true } else p

/-- Source rows and destination rows share a byte. -/
def plShares (s : State) : Bool :=
  let n := fget s Fd.plWW * plBytes s
  let h := fget s Fd.plHH
  (List.range h).any fun i => (List.range h).any fun j =>
    let a := plSrc s + i * fget s Fd.plSpitchP
    let b := plDst s + j * fget s Fd.plDpitchP
    decide (a < b + n ∧ b < a + n)

/-- The rows in the order of R338, and whether pixels go right to left. -/
def plOrder (s : State) : List Nat × Bool :=
  let d := (plDst s : Int) - plSrc s
  let p : Int := fget s Fd.plSpitchP
  let dy := Int.tdiv d p
  let dx := d - dy * p
  let rows := List.range (fget s Fd.plHH)
  (if 0 < dy ∨ (dy = 0 ∧ 0 < dx) then rows.reverse else rows, decide (0 < dx))

/-- The operation of PL_CMD.op moves its data, up to `budget` beats. -/
def plRun (s : State) (budget : Option Nat) : PlRun :=
  let p : PlRun := { st := s, budget := budget, stop := false, poison := false, err := false }
  let b := plBytes s
  let dst := plDst s
  let dp := fget s Fd.plDpitchP
  let pixel := (leBytes b (plColor s)).map some
  let copy := fun (_ : Unit) =>
    let openV := decide (fget s Fd.plSpitchP ≠ dp) && plShares s
    let o := plOrder s
    o.1.foldl (plCopyRow openV o.2) p
  match fget s Fd.plCmdOp with
  | 0 => copy ()
  | 1 => plBytesOut p dst
      ((List.range (plLen s)).map fun i => some ((leBytes 4 (plColor s)).getD ((dst + i) % 4) 0)) false
  | 2 => copy ()
  | 3 => (List.range (fget s Fd.plHH)).foldl (fun p r =>
      plBytesOut p (dst + r * dp) ((List.range (fget s Fd.plWW)).flatMap fun _ => pixel) false) p
  | 4 => (plPoints s).foldl (fun p q => plBytesOut p (dst + q.2 * dp + q.1 * b) pixel false) p
  | _ => p

/-- The operation is over: what stopped it, or the done event (R340). -/
def plFinish (p : PlRun) : State :=
  let s := ageEnd (fset p.st Fd.plStatBusy 0) .planer
  if p.poison || p.err then
    let s := if p.poison then raise (fon s Fd.plStatPoison) bayChip 4 else s
    let s := if p.err then raise (fon s Fd.plStatErr) bayChip 5 else s
    fireIf s (fbit s Fd.plEvtErrEn) (fget s Fd.plEvtErrChan)
  else fireIf s (fbit s Fd.plEvtDoneEn) (fget s Fd.plEvtDoneChan)

/-- The last response has returned. -/
def plComplete (s : State) : State := if fbit s Fd.plStatBusy then plFinish (plRun s none) else s

/-- An abort: a free number of beats has been written (DESIGN CHOICE, log entry 2). An operation that poison or an error
stopped before ends by it. -/
def plAbort (s : State) : State :=
  if !fbit s Fd.plStatBusy then s
  else
    let p := plRun (drew s) (some (draw s).toNat)
    if p.poison || p.err then plFinish p else fon (ageEnd (fset p.st Fd.plStatBusy 0) .planer) Fd.plStatAborted

/-! ### Barge registers (R328, R332, R334) -/

def bargeIdle (s : State) (n : Nat) : Bool := !fbit s (Fd.bgStatBusy n) && !fbit s (Fd.bgStatWaiting n)

/-- An arm write. -/
def bargeArm (s : State) (n : Nat) : State :=
  if fbit s (Fd.bgStatShValid n) then fon s (Fd.bgStatArmLost n) else fon s (Fd.bgStatShValid n)

/-- An abort write: a busy channel stops at the end of the step, a waiting one at once. -/
def bargeAbort (s : State) (n : Nat) : State :=
  if fbit s (Fd.bgStatBusy n) then { s with bargeAborts := NSet.ins n s.bargeAborts }
  else if fbit s (Fd.bgStatWaiting n) then fon (fset s (Fd.bgStatWaiting n) 0) (Fd.bgStatAborted n)
  else s

/-- A shadow load (R332). -/
def bargeLoad (s : State) (n : Nat) : State :=
  if bargeIdle s n && !NSet.has n s.bargeLoaded && fbit s (Fd.bgStatShValid n) && fbit s (Fd.bgChCtrlEn n) &&
      !fbit s (Fd.bgStatErr n) && !fbit s (Fd.bgStatPoison n) && !fbit s (Fd.bgStatAborted n) then
    let s := (List.range 4).foldl (fun s j => fset s (Fd.bgASrcA n j) (fget s (Fd.bgSrcA n j))) s
    let s := (List.range 4).foldl (fun s j => fset s (Fd.bgADstA n j) (fget s (Fd.bgDstA n j))) s
    let s := (List.range 2).foldl (fun s j => fset s (Fd.bgALenN n j) (fget s (Fd.bgLenN n j))) s
    let s := fset s (Fd.bgAOptAs n) (bits (rget s (Adr.bgOpt n)).toNat 4 0)
    let s := fset s (Fd.bgStatShValid n) 0
    if bit (fget s (Fd.bgAOptAs n)) 1 then fon s (Fd.bgStatWaiting n)
    else { s with bargeLoaded := NSet.ins n s.bargeLoaded }
  else s

/-- A loaded transfer starts, or one that waits takes a trigger. -/
def bargeStart (s : State) (n : Nat) : State :=
  let go := fun (s : State) =>
    let s := fset (fset (fon s (Fd.bgStatBusy n)) (Fd.bgDoneN n 0) 0) (Fd.bgDoneN n 1) 0
    ageEnd (tallyBegin s 1 n 0 0) (.barge (Fin.ofNat 16 n))
  if NSet.has n s.bargeLoaded then go { s with bargeLoaded := NSet.del n s.bargeLoaded }
  else if fbit s (Fd.bgStatWaiting n) && fbit s (Fd.bgStatTrigPend n) then
    go (fset (fset s (Fd.bgStatWaiting n) 0) (Fd.bgStatTrigPend n) (fget s (Fd.bgStatTrigPend n) - 1))
  else s

/-! ### Ageing (R312) -/

/-- The lines of a head composed ahead (R193). -/
def joinFill (s : State) (h : Nat) : Nat := min 15 (headOf s h).lines.length

/-- The class of a head's reads: Urgent while its fill is below the watermark, where 9 to 15 act as 9 (R193, R202). -/
def headClass (s : State) (h : Nat) : Nat := if joinFill s h < min 9 (fget s (Fd.joinJcfgWm h)) then 0 else 1

/-- The class a request begins with (R311), and whether the model holds one that is out. -/
def ageBase (s : State) : Requester → Nat × Bool
  | .head h => (headClass s h.val, headRunning s h.val)
  | .video h _ => (headClass s h.val, headRunning s h.val)
  | .voice _ => (0, false)
  | .window e => (1, (engOf s e.val).fab != [])
  | .host => (1, false)
  | .sideband => (1, false)
  | .tollhouse => (1, false)
  | .barge n => (1 + boolNat (bit (fget s (Fd.bgAOptAs n.val)) 2), fbit s (Fd.bgStatBusy n.val))
  | .bayDma c => (2 + fget s (Fd.dCtrlCls (c.val / 2) (c.val % 2)), dmaBusy s (c.val / 2) (c.val % 2))
  | .planer => (3, fbit s Fd.plStatBusy)
  | .tally k => (1, decide ((tallyOf s k.val).ring ≠ []))
  | .scrub _ => (3, false)

/-- The class of the requester's request now. -/
def ageClass (s : State) (r : Requester) : Nat := (ageBase s r).1 - Sparse.get 0 (ageKey r) s.mem.aged

/-- A request has waited one ageing step: it rises by one class, never above Normal; patrol scrub never rises. -/
def ageRise (s : State) (r : Requester) : State :=
  if (ageBase s r).2 && decide (fget s Fd.memAgeLimit ≠ 0) && decide (1 < ageClass s r) then
    { s with mem := { s.mem with aged := Sparse.put 0 (ageKey r) (Sparse.get 0 (ageKey r) s.mem.aged + 1) s.mem.aged } }
  else s

end Sys2Proof.Machine
end

