-- ==== Sys2Proof/Machine/Span.lean ====
section
/-! DEFINITION. The span layer (18_span.md): ports, election and membership, span time, events, votes, and the remote
copier. -/

namespace Sys2Proof.Machine

/-! ### Ports (R418-R421) -/

def spanNum (s : State) : Nat := s.spanId.toNat
def spanOn (s : State) : Bool := mainUp s && fbit s Fd.spCfgEn

def portState (s : State) (n : Nat) : Nat := fget s (Fd.sppStatState n)
def setPortState (s : State) (n v : Nat) : State := fset s (Fd.sppStatState n) v

/-- The trained ports. -/
def spanLinks (s : State) : List Nat := (List.range s.variant.spanPorts).filter fun n => decide (2 ≤ portState s n)

def portPeer (s : State) (n : Nat) : Nat := fget s (Fd.sppPeerPeer n)

/-- The sync interval in ns; 0 acts as 1 µs. -/
def syncNs (s : State) : Nat := 1000 * max 1 (fget s Fd.spCfgSyncUs)

/-- The linear position of span time. -/
def spanTime (s : State) : Nat := (tlOf s 32).pos

/-- `t` lies strictly behind span time, within half a lap (R434). -/
def spanBehind (s : State) (t : Nat) : Bool :=
  let d := ahead (2 ^ 40) t (spanTime s)
  decide (0 < d ∧ d < 2 ^ 39)

/-- Span time has reached `t`. -/
def spanReached (s : State) (t : Nat) : Bool := decide (t % 2 ^ 40 = spanTime s) || spanBehind s t

/-! ### Votes ended (R439) -/

def voteOf (s : State) (g : Nat) : SpanVote := Sparse.get SpanVote.reset g s.span.votes
def setVote (s : State) (g : Nat) (v : SpanVote) : State :=
  { s with span := { s.span with votes := Sparse.put SpanVote.reset g v s.span.votes } }
def dropRootVote (s : State) (g : Nat) : State :=
  { s with span := { s.span with rootVotes := Sparse.del g s.span.rootVotes } }

/-- A vote frame: the op, the group and the raise number. -/
def voteFrame (op g n : Nat) : SpanOut := { kind := 2, arg := op, value := g + 16 * n }

/-- The chip's own REQ has been sent, or is ended. -/
def setAsked (s : State) (g : Nat) (b : Bool) : State :=
  { s with span := { s.span with asked := if b then NSet.ins g s.span.asked else NSet.del g s.span.asked } }

/-- A member abandons a vote, or is told so. -/
def voteTorn (s : State) (g : Nat) : State :=
  fon (setVote (setAsked s g false) g SpanVote.reset) (Fd.rgStatSpanTorn g)

/-- The root abandons a vote and sends ABORT. -/
def rootAbandon (s : State) (g : Nat) : State := voteTorn (dropRootVote (spanSend s (spanTree s) (voteFrame 5 g 0)) g) g

/-! ### The remote copier's end (R441) -/

/-- The transfer stops with an error, or with poison. -/
def rcFail (s : State) (poison : Bool) : State :=
  let s := { s with span := { s.span with rcLeft := 0, rcAt := 0, rcOut := [] } }
  let s := fset s Fd.rcStatBusy 0
  let s := if poison then raise (fon s Fd.rcStatPoison) bayChip 4 else raise (fon s Fd.rcStatErr) bayChip 5
  fireIf s (fbit s Fd.rcEvtErrEn) (fget s Fd.rcEvtErrChan)

/-! ### Election and membership (R420, R427, R428, R442, R443) -/

/-- A way to a root: root, hops, peer, port (the chip itself: no port). -/
structure SpanWay where
  root : Nat
  hops : Nat
  peer : Nat
  port : Option Nat
deriving DecidableEq, Repr

/-- The ways that the trained links and the chip itself give. -/
def spanWays (s : State) : List SpanWay :=
  (if fbit s Fd.spCfgRootEn then [{ root := spanNum s, hops := 0, peer := 0, port := none }] else []) ++
  ((spanLinks s).filter fun n =>
    (spanPort s n).rootOk && decide ((spanPort s n).hops < 15) && decide ((spanPort s n).root ≠ spanNum s)).map
    fun n => { root := (spanPort s n).root, hops := (spanPort s n).hops + 1, peer := portPeer s n, port := some n }

/-- The way that is taken: the lowest root, then the fewest hops, the lower peer, the lower port. -/
def spanBetter (a b : SpanWay) : Bool :=
  decide (b.root < a.root ∨ b.root = a.root ∧ (b.hops < a.hops ∨ b.hops = a.hops ∧ b.peer < a.peer))

def spanBest (s : State) : Option SpanWay :=
  (spanWays s).foldl (fun a w => match a with
    | none => some w
    | some x => if spanBetter x w then some w else some x) none

/-- The chip is its own root. -/
def spanIsRoot (s : State) : Bool := match spanBest s with
  | some w => w.port.isNone
  | none => false

/-- The state that the election gives a trained port: tree for the parent's link, and for the lowest link to a peer one
hop further out; else standby. -/
def linkState (s : State) (w : Option SpanWay) (n : Nat) : Nat :=
  match w with
  | none => 3
  | some w =>
    let p := spanPort s n
    let child := p.rootOk && decide (p.root = w.root ∧ p.hops = w.hops + 1) &&
      (spanLinks s).all fun m => decide (n ≤ m ∨ portPeer s m ≠ portPeer s n)
    if w.port = some n ∨ child then 2 else 3

/-- The mask of the chips that the root reaches through tree links. -/
def rootReach (s : State) : Nat :=
  (spanTree s).foldl (fun a n => a ||| 2 ^ portPeer s n ||| (spanPort s n).reach) (2 ^ spanNum s)

/-- The chip holds an admitted mask. -/
def setMembers (s : State) (mask : Nat) : State :=
  let s := fset s Fd.spMembersMask mask
  let was := joined s
  let now := bit mask (spanNum s) && (List.range 16).any fun k => decide (k ≠ spanNum s) && bit mask k
  let s := fset s Fd.spStatJoined (boolNat now)
  if was && !now then { s with span := { s.span with held := [], fresh := true, steer := 0, votes := [], rootVotes := [], asked := [] } }
  else if now && !was then { s with span := { s.span with fresh := true } }
  else s

/-- The root's mask: additions wait while a vote runs; every drop counts; a change ends the votes that run. -/
def rootAdmit (s : State) : State :=
  let old := fget s Fd.spMembersMask
  let reach := rootReach s
  let mask := if s.span.rootVotes.isEmpty then reach else old &&& reach
  let gone := (List.range 16).filter fun k => bit old k && !bit mask k
  let s := if mask ≠ old then (s.span.rootVotes.map Prod.fst).foldl rootAbandon s else s
  let s := setMembers s mask
  let s := { s with span := { s.span with views := s.span.views.filter fun p => bit mask p.1 } }
  let s := if gone.isEmpty then s
    else raise (fcount (fon s Fd.spStatDrop) Fd.spDropsCount gone.length) bayChip 6
  if fbit s Fd.rcStatBusy && decide (fget s Fd.rcCtrlChip ∈ gone) then rcFail s false else s

/-- D as the root sets it (R433). -/
def rootDelay (s : State) : Nat :=
  let top := s.span.views.foldl (fun (a : Nat × Nat) p =>
    if a.1 < p.2.delay then (p.2.delay, a.1) else if a.2 < p.2.delay then (a.1, p.2.delay) else a) (0, 0)
  max 128 ((top.1 + top.2 + 64 + 7) / 8 * 8)

/-- The election and, on the root, the admission. -/
def spanElect (s : State) : State :=
  let w := spanBest s
  let s := (spanLinks s).foldl (fun t n =>
    setPortState (setSpanPort t n { spanPort t n with parent := decide (w.bind SpanWay.port = some n) }) n
      (linkState s w n)) s
  match w with
  | none => fset (fset s Fd.spRootRoot (spanNum s)) Fd.spRootHops 0
  | some w =>
    let s := if joined s && decide (w.root ≠ fget s Fd.spRootRoot) then fon s Fd.spStatRootChange else s
    let s := fset (fset s Fd.spRootRoot w.root) Fd.spRootHops w.hops
    if w.port.isNone then
      let s := rootAdmit s
      let s := fset s Fd.spDNs (if joined s then rootDelay s else 128)
      { s with span := { s.span with delayRoot := 0 } }
    else s

/-- The chip leaves the span. -/
def spanLeave (s : State) : State :=
  let s := if fbit s Fd.rcStatBusy then rcFail s false else s
  let s := setMembers s 0
  { s with span := { s.span with views := [] } }

/-- A link goes down. -/
def portDown (s : State) (n next : Nat) : State :=
  let s := if 2 ≤ portState s n then fon s Fd.spStatLinkDown else s
  let p := spanPort s n
  setPortState (setSpanPort s n { SpanPort.reset with refused := p.refused }) n next

/-- The ports after a write of SP_CFG or SPn_CFG. -/
def spanPortsRefresh (s : State) : State :=
  let s := (List.range s.variant.spanPorts).foldl (fun s n =>
    let on := fbit s Fd.spCfgEn && fbit s (Fd.sppCfgEn n) && !(spanPort s n).refused
    if on && decide (portState s n = 0) then setPortState s n 1
    else if !on && decide (portState s n ≠ 0) then portDown s n 0
    else s) s
  if fbit s Fd.spCfgEn then s else spanLeave s

/-! ### Span time (R430) -/

/-- A span resynchronisation marks every running head's witness flags (R245). -/
def witFlagAll (s : State) : State :=
  (s.heads.map Prod.fst).foldl (fun s h =>
    let u := headOf s h
    if headRunning s h then setHead s h { u with witFlags := u.witFlags ||| 16 } else s) s

/-- The judgement of span time at the parent's sync frame with time `t`. -/
def spanJudge (s : State) (n t : Nat) : State :=
  let target := (t + fget s (Fd.sppDelayNs n)) % 2 ^ 40
  let e := slipDist (2 ^ 40) (spanTime s) target
  if s.span.fresh || decide (fget s Fd.spTolNs < e.natAbs) then
    let s := { s with span := { s.span with fresh := false, steer := 0 } }
    let s := witFlagAll (fon s Fd.spStatResync)
    let s := spanSlipBy s e
    setTl s 32 { tlOf s 32 with hwSlipAt := some s.clock }
  else { s with span := { s.span with steer := e } }

/-! ### Sync frames (R422-R430) -/

/-- A sync frame that arrived in order. -/
def syncTake (s : State) (n : Nat) (f : SyncFrame) : State :=
  let who := f.sender.val
  let p := spanPort s n
  let s := setSpanPort s n { p with
    acked := f.ack.toNat, root := f.root.val, rootOk := f.rootEn || decide (f.root ≠ f.sender), hops := f.hops.toNat
    peerDelay := f.delayToRoot.toNat, reach := if p.parent then 0 else f.admitted.toNat, syncAt := s.clock }
  let s := fset (fon s (Fd.sppPeerValid n)) (Fd.sppPeerPeer n) who
  let s := spanElect s
  let s := { s with span := { s.span with
    views := Sparse.put SpanView.reset who
      { tiView := f.tiView.toNat, waiting := f.waiting.toNat, delay := f.delayToRoot.toNat } s.span.views } }
  if (spanPort s n).parent then
    let s := setMembers s f.admitted.toNat
    let s := if fbit s Fd.rcStatBusy && !bit f.admitted.toNat (fget s Fd.rcCtrlChip) then rcFail s false else s
    let s := fset s Fd.spDNs (8 * f.dOver8.toNat)
    let s := { s with span := { s.span with delayRoot := f.delayToRoot.toNat + fget s (Fd.sppDelayNs n) } }
    if joined s then spanJudge s n f.time.toNat else s
  else spanElect s

/-- A sync frame goes out on a list of ports, with the views that it carries (R22, R422). -/
def syncSend (s : State) (ports : List Nat) (f : SpanOut) : State :=
  let es := List.range s.variant.engines
  let own : SpanView := { tiView := tiView s es, waiting := waitingOf s es, delay := s.span.delayRoot }
  spanSend { s with span := { s.span with own := own } } ports f

/-- A nak goes out on port `n`: a sync frame. -/
def spanNak (s : State) (n : Nat) : State := syncSend s [n] { kind := 0, arg := n, value := 1 }

/-- The frames that a nak makes the sender send again (R424). -/
def spanReplay (s : State) (n ack : Nat) : State :=
  let p := spanPort s n
  let k := min p.replay.length ((p.txSeq + 256 - ack) % 256)
  fcount s (Fd.sppReplaysCount n) k

/-- A received sync frame. -/
def syncReceived (s : State) (n : Nat) (f : SyncFrame) : State :=
  if !spanOn s || decide (portState s n < 2) then s
  else
    let p := spanPort s n
    if f.seq.toNat ≠ (p.rxSeq + 1) % 256 then spanNak s n
    else
      let s := setSpanPort s n { p with rxSeq := f.seq.toNat }
      let s := if f.nak then spanReplay s n f.ack.toNat else s
      syncTake s n f

/-- A frame of another kind arrived in order. -/
def frameIn (s : State) (n : Nat) : State :=
  let p := spanPort s n
  setSpanPort s n { p with rxSeq := (p.rxSeq + 1) % 256 }

/-- A port trains and exchanges hellos (R419, R426). -/
def linkTrained (s : State) (n : Nat) (f : SyncFrame) : State :=
  if !spanOn s || decide (portState s n ≠ 1) || !f.hello then s
  else if f.sender.val = spanNum s then
    let s := setSpanPort s n { spanPort s n with refused := true }
    setPortState (fon s (Fd.sppStatDupId n)) n 0
  else if f.digest ≠ joinDigest s then
    let s := fon (setPortState s n 0) (Fd.sppStatMismatch n)
    let s := raise (fon s Fd.spStatRefused) bayChip 7
    thLog s 0x21 n f.sender.val false
  else
    let s := setSpanPort (setPortState s n 3) n { SpanPort.reset with rxSeq := f.seq.toNat }
    let s := spanSend s [n] { kind := 4, arg := n, value := tlPos s 0 }
    syncTake s n f

/-- No sync frame for 3 · sync_us µs (R442). -/
def linkLost (s : State) (n : Nat) : State :=
  if !spanOn s || decide (portState s n < 2) || decide (s.clock - (spanPort s n).syncAt < 3 * syncNs s) then s
  else
    let root := spanIsRoot s
    let s := portDown s n 1
    if root then spanElect s else s

/-- The sync interval: the tree is rebuilt, a chip without a parent leaves, and a sync frame goes out on every trained
link (R420, R425, R442). -/
def syncTick (s : State) : State :=
  if !spanOn s then s
  else
    let s := { s with span := { s.span with sent := [] } }
    let alone := (spanWays s).all fun w => w.port.isNone
    let s := if joined s && decide (fget s Fd.spRootRoot ≠ spanNum s) && alone then spanLeave s else s
    let s := spanElect (if joined s then s else fset s Fd.spMembersMask 0)
    let s := (spanLinks s).foldl (fun s n =>
      setSpanPort s n { spanPort s n with probes := (spanPort s n).probes + 1 }) s
    syncSend s (spanLinks s) { kind := 0, arg := fget s Fd.spMembersMask, value := 0 }

/-! ### Probes (R429) -/

/-- A probe goes out on each link whose sixteenth interval has come. -/
def probesOut (s : State) : State :=
  if !spanOn s then s
  else
    ((spanLinks s).filter fun n => decide (16 ≤ (spanPort s n).probes)).foldl (fun s n =>
      spanSend (setSpanPort s n { spanPort s n with probes := 0 }) [n] { kind := 4, arg := n, value := tlPos s 0 }) s

/-- A received probe is echoed. -/
def probeEcho (s : State) (n probe : Nat) : State :=
  if !spanOn s || decide (portState s n < 2) then s
  else spanSend (frameIn s n) [n] { kind := 5, arg := n, value := probe }

/-- A received echo gives the delay of the link; one that its field cannot hold leaves it open (DESIGN CHOICE, log entry 2). -/
def echoTake (s : State) (n probe turnaround : Nat) : State :=
  if !spanOn s || decide (portState s n < 2) then s
  else
    let s := frameIn s n
    let d := ahead (2 ^ 40) ((probe + turnaround) % 2 ^ 40) (tlPos s 0) / 2
    if d < 4096 then fset s (Fd.sppDelayNs n) d else fset (drew s) (Fd.sppDelayNs n) ((draw s).toNat % 4096)

/-! ### Events and doorbells (R434-R436) -/

/-- A frame that originates at a chip of the span, on a tree link. -/
def spanHears (s : State) (n origin : Nat) : Bool :=
  spanOn s && joined s && decide (portState s n = 2) && bit (fget s Fd.spMembersMask) origin

/-- The tree ports except the one a frame arrived on. -/
def spanOthers (s : State) (n : Nat) : List Nat := (spanTree s).filter fun m => decide (m ≠ n)

/-- One entry of an event frame. An entry whose time has passed applies at once; several late entries of one channel in
one frame are events of their own (DESIGN CHOICE, log entry 60: R87 allows a channel one event in a cycle, and the spec
does not say whether late entries combine). -/
def eventTake (s : State) (t m : Nat) : State :=
  if m = 0 then s
  else if spanBehind s t then carryMask (spanLate s) m
  else spanHold s t m

/-- A received event frame. -/
def eventFrameIn (s : State) (n origin t : Nat) (ms : List Nat) : State :=
  if !spanHears s n origin then s
  else
    let s := frameIn s n
    let s := spanSend s (spanOthers s n) { kind := 1, arg := t, value := leNat (ms.flatMap (leBytes 8)) }
    (List.range ms.length).foldl (fun s k => eventTake s ((t + k) % 2 ^ 40) (ms.getD k 0)) s

/-- The held apply time that is furthest behind span time, or equal to it. -/
def heldDue (s : State) : Option (Nat × Nat) :=
  (s.span.held.filter fun p => spanReached s p.1).foldl (fun a p => match a with
    | none => some p
    | some q => if ahead (2 ^ 40) q.1 (spanTime s) < ahead (2 ^ 40) p.1 (spanTime s) then some p else some q) none

/-- Span time has reached a held apply time: one is applied in each cycle, in ascending order. -/
def heldApply (s : State) : State :=
  match heldDue s with
  | none => s
  | some p =>
    let late := spanBehind s p.1
    let s := { s with span := { s.span with held := Sparse.del p.1 s.span.held } }
    carryMask (if late then spanLate s else s) p.2

/-- A doorbell at a span level rings here when it names the chip's own span bay, or level 6 (R17, R18). -/
def spanRing (s : State) (ti : Nat) (level6 : Bool) (spanBay : Nat) : State :=
  if level6 || decide (spanBay = spanNum s / 4) then ringEngines s (List.range s.variant.engines) ti else s

/-- A doorbell write at a span level: a frame to every member, and the chip itself. -/
def spanDoorbell (s : State) (ti : Nat) (level6 : Bool) : State :=
  spanRing (spanSend s (spanTree s) { kind := 6, arg := ti, value := spanNum s / 4 + (if level6 then 8 else 0) }) ti
    level6 (spanNum s / 4)

/-- A received doorbell frame. -/
def doorbellIn (s : State) (n origin ti : Nat) (level6 : Bool) (spanBay : Nat) : State :=
  if !spanHears s n origin then s
  else
    spanRing (spanSend (frameIn s n) (spanOthers s n)
      { kind := 6, arg := ti, value := spanBay + (if level6 then 8 else 0) }) ti level6 spanBay

/-! ### Raise votes (R369, R437-R439) -/

/-- A member's answer to PREPARE: it can arm. -/
def voteReady (s : State) (g : Nat) : Bool :=
  fbit s (Fd.rgCtrlEn g) && fbit s (Fd.rgCtrlSpan g) && decide (rgPend s g = 0)

/-- The ACKs of every admitted member are in: the root commits. -/
def voteCommitted (s : State) (g : Nat) (v : RootVote) : State :=
  let mask := fget s Fd.spMembersMask
  if (List.range 16).all fun k => !bit mask k || NSet.has k v.acks then
    let n := (v.next + 1) % 2 ^ 20
    let t := (spanTime s + fget s Fd.spDNs) % 2 ^ 40
    let s := spanSend s (spanTree s) (voteFrame 4 g n)
    setVote (dropRootVote s g) g { ackedAt := none, arm := some (t, n) }
  else { s with span := { s.span with rootVotes := Sparse.ins g v s.span.rootVotes } }

/-- The root takes an ACK. -/
def voteAck (s : State) (g who next : Nat) : State :=
  match Sparse.find g s.span.rootVotes with
  | some v =>
    if bit (fget s Fd.spMembersMask) who then
      voteCommitted s g { v with acks := NSet.ins who v.acks, next := max v.next next }
    else s
  | none => s

/-- The root takes a REQ. -/
def voteReq (s : State) (origin g : Nat) : State :=
  if (Sparse.find g s.span.rootVotes).isSome then
    if origin = spanNum s then fon s (Fd.rgStatArmLost g) else spanSend s (spanTree s) (voteFrame 3 g 0)
  else
    let s := spanSend s (spanTree s) (voteFrame 1 g 0)
    let s := { s with span := { s.span with
      rootVotes := Sparse.ins g { origin := origin, acks := [], next := 0, startedAt := s.clock } s.span.rootVotes } }
    if voteReady s g then voteAck s g (spanNum s) (fget s (Fd.rgNextNo g)) else rootAbandon s g

/-- An arm write to a group with span at 1 on a joined chip. -/
def voteStart (s : State) (g : Nat) : State :=
  if spanIsRoot s then voteReq s (spanNum s) g else spanSend (setAsked s g true) (spanTree s) (voteFrame 0 g 0)

/-- A vote frame that arrived on tree link `n` goes on to the other tree links (R425). -/
def voteOn (s : State) (n op g num : Nat) : State := spanSend (frameIn s n) (spanOthers s n) (voteFrame op g num)

/-- A frame of the root's arrives on a tree link. -/
def rootHeard (s : State) (n : Nat) : Bool := spanHears s n (fget s Fd.spRootRoot)

/-- A REQ that reaches the chip. -/
def voteReqIn (s : State) (n origin g : Nat) : State :=
  if !spanHears s n origin then s
  else
    let s := voteOn s n 0 g 0
    if spanIsRoot s then voteReq s origin g else s

/-- A member takes PREPARE. -/
def votePrepareIn (s : State) (n g : Nat) : State :=
  if !rootHeard s n then s
  else
    let s := voteOn s n 1 g 0
    if spanIsRoot s then s
    else if voteReady s g then
      setVote (spanSend s (spanTree s) (voteFrame 2 g (fget s (Fd.rgNextNo g)))) g { ackedAt := some s.clock, arm := none }
    else spanSend s (spanTree s) (voteFrame 3 g 0)

def voteAckIn (s : State) (n who g next : Nat) : State :=
  if !spanHears s n who then s
  else
    let s := voteOn s n 2 g next
    if spanIsRoot s then voteAck s g who next else s

/-- A NAK: the root abandons its vote; the root's own NAK answers the REQ of the writer, which sets arm_lost. -/
def voteNakIn (s : State) (n who g : Nat) : State :=
  if !spanHears s n who then s
  else
    let s := voteOn s n 3 g 0
    if spanIsRoot s then (if (Sparse.find g s.span.rootVotes).isSome then rootAbandon s g else s)
    else if decide (who = fget s Fd.spRootRoot) && NSet.has g s.span.asked then
      fon (setAsked s g false) (Fd.rgStatArmLost g)
    else s

/-- The group arms with the number of the vote (R365, R437). -/
def voteArm (s : State) (g n : Nat) : State :=
  let s := setVote s g SpanVote.reset
  if !fbit s (Fd.rgCtrlEn g) then s
  else if rgPend s g ≠ 0 then fon s (Fd.rgStatArmLost g)
  else rgArmWith s g n

/-- A member that has sent ACK takes COMMIT; one that comes late arms on arrival. -/
def voteCommitIn (s : State) (n g num t : Nat) : State :=
  if !rootHeard s n then s
  else
    let s := voteOn s n 4 g num
    if spanIsRoot s || (voteOf s g).ackedAt.isNone then s
    else if spanBehind s t then fon (voteArm (setAsked s g false) g num) Fd.spStatLate
    else setVote (setAsked s g false) g { ackedAt := none, arm := some (t, num) }

def voteAbortIn (s : State) (n g : Nat) : State :=
  if !rootHeard s n then s
  else
    let s := voteOn s n 5 g 0
    if spanIsRoot s then s else voteTorn s g

/-- Span time reaches t_arm. -/
def voteArmDue (s : State) (g : Nat) : State :=
  match (voteOf s g).arm with
  | some p => if spanReached s p.1 then voteArm s g p.2 else s
  | none => s

/-- The root has waited SP_VOTE_TO µs for ACKs. -/
def voteTimedOut (s : State) (g : Nat) : State :=
  match Sparse.find g s.span.rootVotes with
  | some v => if 1000 * fget s Fd.spVoteToUs ≤ s.clock - v.startedAt then rootAbandon s g else s
  | none => s

/-- A member has waited 2 · SP_VOTE_TO µs since its ACK. -/
def voteGivenUp (s : State) (g : Nat) : State :=
  match (voteOf s g).ackedAt with
  | some c => if 2000 * fget s Fd.spVoteToUs ≤ s.clock - c then voteTorn s g else s
  | none => s

/-! ### Remote memory (R440, R441) -/

def rcLocal (s : State) : Nat := split16 s Adr.rcLaddr 3 / 8 * 8
def rcRemote (s : State) : Nat := split16 s Adr.rcRaddr 3 / 8 * 8
def rcLen (s : State) : Nat := split16 s Adr.rcLen 2 / 8 * 8

/-- A memory frame: op, destination chip and tag, address. -/
def memFrame (op chip tag a : Nat) : SpanOut := { kind := 3, arg := op + 16 * chip + 256 * tag, value := a }

/-- The port that a memory frame for a chip leaves by (R425): the tree link to it or to a child that reaches it, else
the parent's, else the first. -/
def rcPort (s : State) (chip : Nat) : Nat :=
  ((spanTree s).find? fun n => decide (portPeer s n = chip) || bit (spanPort s n).reach chip).getD
    (((spanTree s).find? fun n => (spanPort s n).parent).getD ((spanTree s).headD 0))

/-- The payload of a memory frame on a port, sent (dir 0) or received (dir 1), is the byte stream of tally kind 5
(R298, R441). -/
def memPayload (s : State) (n dir : Nat) (bs : List Byte) : State := if bs.isEmpty then s else tallyFrame s 5 n dir 0 bs

/-- A free tag among the frames that are out; an entry holds 16 · offset + tag. -/
def rcTag (s : State) : Option Nat := (List.range 16).find? fun t => s.span.rcOut.all fun x => decide (x % 16 ≠ t)

/-- The length of the frame at an offset. -/
def rcChunk (s : State) (at' : Nat) : Nat := min 256 (rcLen s - at')

/-- Frames go out while tags are free and data is left. -/
def rcIssue : Nat → State → State
  | 0, s => s
  | fuel + 1, s =>
    match rcTag s with
    | none => s
    | some t =>
      if s.span.rcLeft = 0 then s
      else
        let at' := s.span.rcAt
        let n := rcChunk s at'
        let chip := fget s Fd.rcCtrlChip
        let out := fun (s : State) => { s with span := { s.span with
          rcLeft := s.span.rcLeft - n, rcAt := at' + n, rcOut := s.span.rcOut ++ [16 * at' + t] } }
        if fbit s Fd.rcCtrlDir then
          rcIssue fuel (out (spanSend s [rcPort s chip] (memFrame 1 chip t (rcRemote s + at'))))
        else
          let r := dramRead s (rcLocal s + at') n
          if r.2.1 then rcFail r.2.2 true
          else
            let s := spanSend r.2.2 [rcPort s chip] (memFrame 0 chip t (rcRemote s + at'))
            rcIssue fuel (out (memPayload s (rcPort s chip) 0 r.1))

/-- A go write. -/
def rcGo (s : State) : State :=
  if fbit s Fd.rcStatBusy then stopIgnored s Adr.rcCtrl bayChip
  else
    let chip := fget s Fd.rcCtrlChip
    if !joined s || !bit (fget s Fd.spMembersMask) chip || decide (chip = spanNum s) ||
        decide (s.mem.top < rcLocal s + rcLen s) || decide (2 ^ 24 < rcLen s) then fon s Fd.rcStatRefused
    else
      let s := { s with span := { s.span with rcLeft := rcLen s, rcAt := 0, rcOut := [] } }
      rcIssue 16 (fon s Fd.rcStatBusy)

/-- An abort write. -/
def rcAbort (s : State) : State :=
  if !fbit s Fd.rcStatBusy then s
  else
    let s := { s with span := { s.span with rcLeft := 0, rcAt := 0, rcOut := [] } }
    fon (fset s Fd.rcStatBusy 0) Fd.rcStatAborted

/-- The outstanding frame that an answer names. -/
def rcFrame (s : State) (origin tag : Nat) : Option Nat :=
  if fbit s Fd.rcStatBusy && decide (origin = fget s Fd.rcCtrlChip) then
    s.span.rcOut.find? fun x => decide (x % 16 = tag)
  else none

def rcDone (s : State) (x : Nat) : State :=
  rcIssue 16 { s with span := { s.span with rcOut := s.span.rcOut.filter fun y => decide (y ≠ x) } }

/-- A memory frame on tree link `n`: what it does here is `f`; one for another member goes on towards it (R425). -/
def memIn (s : State) (n origin dest op tag a : Nat) (bs : List Byte) (f : State → State) : State :=
  if !spanHears s n origin then s
  else
    let s := memPayload (frameIn s n) n 1 bs
    if dest = spanNum s then f s
    else if bit (fget s Fd.spMembersMask) dest then
      memPayload (spanSend s [rcPort s dest] (memFrame op dest tag a)) (rcPort s dest) 0 bs
    else s

/-- A write frame for this chip; the answer leaves by the link it came on. -/
def memWriteIn (s : State) (n origin tag a : Nat) (bs : List Byte) : State :=
  if s.mem.top < a + bs.length then spanSend (chipUnmapped s) [n] (memFrame 4 origin tag a)
  else
    let r := dramWrite s a bs false
    spanSend r.2 [n] (memFrame (if r.1 then 3 else 4) origin tag a)

/-- A read request for this chip. -/
def memReadIn (s : State) (n origin tag a len : Nat) : State :=
  if s.mem.top < a + len then spanSend (chipUnmapped s) [n] (memFrame 4 origin tag a)
  else
    let r := dramRead s a len
    if r.2.1 then spanSend r.2.2 [n] (memFrame 4 origin tag a)
    else memPayload (spanSend r.2.2 [n] (memFrame 2 origin tag a)) n 0 r.1

/-- Read data for a pull. -/
def memDataIn (s : State) (origin tag : Nat) (bs : List Byte) : State :=
  match rcFrame s origin tag with
  | none => s
  | some x =>
    if !fbit s Fd.rcCtrlDir then s
    else
      let r := dramWrite s (rcLocal s + x / 16) (bs.take (rcChunk s (x / 16))) false
      if r.1 then rcDone r.2 x else rcFail r.2 false

/-- A write ack for a push. -/
def memAckIn (s : State) (origin tag : Nat) : State :=
  match rcFrame s origin tag with
  | some x => if fbit s Fd.rcCtrlDir then s else rcDone s x
  | none => s

/-- An error frame. -/
def memErrorIn (s : State) (origin tag : Nat) : State :=
  match rcFrame s origin tag with
  | some _ => rcFail s false
  | none => s

/-- Every ack or local write response has returned. -/
def rcComplete (s : State) : State :=
  if fbit s Fd.rcStatBusy && decide (s.span.rcLeft = 0) && s.span.rcOut.isEmpty then
    fireIf (fset s Fd.rcStatBusy 0) (fbit s Fd.rcEvtDoneEn) (fget s Fd.rcEvtDoneChan)
  else s

/-- A frame arrives with a CRC error or a reserved kind (R423, R424). -/
def crcErrorIn (s : State) (n : Nat) : State :=
  if !spanOn s || decide (portState s n < 2) then s else spanNak (fon s (Fd.sppStatCrcErr n)) n

/-! ### The span faces (R22, R30) -/

/-- The members of the chip's own span bay, or of the group, by their last sync frames. -/
def spanViews (s : State) (group : Bool) : List SpanView :=
  (s.span.views.filter fun p =>
    bit (fget s Fd.spMembersMask) p.1 && (group || decide (p.1 / 4 = spanNum s / 4))).map Prod.snd

def spanTiView (s : State) (group : Bool) : Nat :=
  (spanViews s group).foldl (fun a v => a ||| v.tiView) s.span.own.tiView

def spanWaiting (s : State) (group : Bool) : Nat :=
  min 4095 ((spanViews s group).foldl (fun a v => a + v.waiting) s.span.own.waiting)

end Sys2Proof.Machine
end

