-- ==== Sys2Proof/Machine/EngCore.lean ====
section
/-! DEFINITION. Taking an exception on an engine, escalation, lockup, the return, debug halt, and the issue of one
instruction with its delay slot, DROP shadow, load delay and loop end (05_engine_isa.md, 06_engine_exceptions.md). -/

namespace Sys2Proof.Machine

/-! ### Fetching -/

/-- The check of a fetch: the class of its fault, if any, and what it leaves (R113, R114, R119). A granule in the buffer
is checked as it was read, and written back where the RAM still holds it. -/
def fetchCheck (s : State) (e : Nat) (pc : Word) : Option Nat × State :=
  match engLoc e pc with
  | .ram k _ =>
    let g := fetchGran s e k
    if g = granOf s k then
      let r := ramCheck s k
      (if r.1 then some 5 else none, r.2)
    else match g.mark with
      | .ok => (none, s)
      | .single => (none, raise s (ramBay k) 3)
      | .bad => (some 5, raise s (ramBay k) 4)
  | _ => (some 4, raise s (bayEng e) 5)

/-- The word at an address as a fetch sees it and a trap saves it; outside the RAMs the spec gives no word (DESIGN
CHOICE, log entry 2). -/
def peekWord (s : State) (e : Nat) (a : Word) : Word × State :=
  match engLoc e a with
  | .ram k slot => (granWord (fetchGran s e k) slot, s)
  | _ => ((draw s).setWidth 20, drew s)

/-- The length of the instruction that stands at an address. Where the address lies outside the RAMs, or its granule is
uncorrectable, it is that of a free or an unchecked word, and nothing faults (DESIGN CHOICE, log entry 62). -/
def sizeAt (s : State) (e : Nat) (a : Word) : Word := BitVec.ofNat 20 (wordsOf (peekWord s e a).1)

/-- The word at the PC and the one after it spell an instruction; the others are reserved (R132). -/
def spelled (s : State) (e : Nat) (pc : Word) : Bool :=
  (engDecode (Fin.ofNat 128 e) (peekWord s e pc).1 (peekWord s e (pc + 1)).1).isSome

/-! ### Special registers (R111, R112, R157) -/

/-- The fields of ESTAT and BWST that a table lists; bit 8 reads 0. -/
def estatMask : Word := 0xFE2FF
def bwstMask : Word := 0xFFAFF

def holdOf (u : Eng) : Bool := bit u.ecause.toNat 19
def setHold (u : Eng) (b : Bool) : Eng :=
  { u with ecause := BitVec.ofNat 20 (setBits u.ecause.toNat 19 19 (boolNat b)) }

/-- MFS and DBG_S. -/
def sregRead (u : Eng) (n : Nat) : Word :=
  match n with
  | 0 => BitVec.ofNat 20 (statusWord u)
  | 1 => u.lc
  | 2 => u.ls
  | 3 => u.le
  | 4 => u.epc
  | 5 => u.estat &&& estatMask
  | 6 => u.ecause
  | 7 => u.eaddr
  | 8 => u.einst0
  | 9 => u.einst1
  | 10 => u.vbase
  | 11 => u.bwSp
  | 12 => u.bwpc
  | 13 => u.bwst &&& bwstMask
  | 14 => u.flvl0
  | _ => u.flvl1

/-- MTS and DBG_S; at Task level an MTS leaves STATUS.mask (R112). -/
def sregWrite (u : Eng) (n : Nat) (v : Word) (task : Bool) : Eng :=
  match n with
  | 0 =>
    { u with
      sat := bit v.toNat 9
      mask := if task then u.mask else BitVec.ofNat 4 (bits v.toNat 5 2) }
  | 1 => { u with lc := v, la := u.la && decide (v ≠ 0) }
  | 2 => { u with ls := v }
  | 3 => { u with le := v }
  | 4 => { u with epc := v }
  | 5 => { u with estat := v &&& estatMask }
  | 6 => setHold u (bit v.toNat 19)
  | 7 => { u with eaddr := v }
  | 8 => { u with einst0 := v }
  | 9 => { u with einst1 := v }
  | 10 => { u with vbase := v &&& 0xFFF00 }
  | 11 => { u with bwSp := v }
  | 12 => { u with bwpc := v }
  | 13 => { u with bwst := v &&& bwstMask }
  | 14 => { u with flvl0 := v }
  | _ => { u with flvl1 := v &&& 0xFFFF }

/-! ### Boundaries -/

/-- The boundary is neither between a branch and its slot nor between a DROP and its shadow (R150). -/
def boundaryFree (u : Eng) : Bool := u.branch.isNone && u.shadow.isNone

def FabOp.isLoad : FabOp → Bool
  | .load _ _ _ _ _ => true
  | .store _ _ _ => false

/-- A window load has not answered yet. -/
def loadsOut (u : Eng) : Bool := u.fab.any FabOp.isLoad

/-- The instruction after an outstanding load has issued: the next one waits for the data (R123). -/
def loadStall (u : Eng) : Bool :=
  u.fab.any fun f => match f with
    | .load _ _ _ age _ => decide (1 ≤ age)
    | .store _ _ _ => false

/-- WPEND: posted stores not yet acknowledged (R124, R130). -/
def wpend (u : Eng) : Nat := (u.fab.filter fun f => !f.isLoad).length

/-- The engine stands in alarm halt (R410). -/
def alarmHalt (s : State) (u : Eng) : Bool := fbit s Fd.thStatAlarm && decide (u.level = 2)

/-- The engine issues, or sleeps in WAIT: it is present, in no reset, and neither held, locked nor halted. -/
def engAlive (s : State) (e : Nat) : Bool :=
  let u := engOf s e
  mainUp s && engPresent s e && !inQuadReset s (e / 4) && !u.held && !u.locked && !u.halted

/-- The PC that an interrupt, a watchdog stage or an imprecise fault saves (R92, R93, R147). -/
def boundaryPc (u : Eng) : Word :=
  match u.sleep with
  | some (_, m) => if m = 0 then u.pc + 1 else u.pc
  | none => u.pc

/-- Loaded values that the next instruction would not see are there for what follows (R136). -/
def settleLoads (u : Eng) : Eng :=
  gputs { u with pendLd := [] } (u.pendLd.map fun p => (p.1.toNat, p.2))

/-! ### Entry, escalation and lockup (R147-R155) -/

/-- An exception to be taken: class, number, EADDR and words where it supplies them, the saved PC, ESTAT[19:13]. -/
structure Exc where
  cls : Nat
  num : Nat
  addr : Option Word
  epc : Word
  flags : Nat
  words : Option (Word × Word)
deriving DecidableEq, Repr

/-- The fault level of a class (R147, R157). -/
def faultLevel (u : Eng) (c : Nat) : Nat :=
  if 1 ≤ c ∧ c ≤ 5 then bits u.flvl0.toNat (4 * c - 1) (4 * c - 4)
  else if 6 ≤ c ∧ c ≤ 9 then bits u.flvl1.toNat (4 * c - 21) (4 * c - 24)
  else 0

/-- ESTAT of an entry: the flags, and STATUS with bw 0 and, for a DROP shadow, the lowered level (R155, R162). -/
def savedStatus (u : Eng) (flags : Nat) : Nat :=
  let w := statusWord { u with bw := false }
  let w := match u.shadow with
    | some n => if bit flags 5 then setBits w 1 0 n.toNat else w
    | none => w
  flags * 2 ^ 13 + w

/-- The level at which a class enters (R148). -/
def entryLevel (u : Eng) (c : Nat) : BitVec 2 := if c = 9 ∨ c = 10 ∨ u.level = 0 then 0 else 1

/-- The vector table of an entry level (R148). -/
def vecBase (s : State) (e : Nat) (u : Eng) (el : BitVec 2) : Word :=
  if el = 0 then BitVec.ofNat 20 (fget s (Fd.engSecvecBase (e / 4) (e % 4)) * 256) else u.vbase &&& 0xFFF00

/-- What every entry ends: a pending slot, a shadow, a sleep, the fetch buffer's contents; a step that ran it halts next
(R142, R167). -/
def entered (u : Eng) : Eng :=
  { u with branch := none, shadow := none, skipSlot := false, sleep := none, stepping := false, fbuf := [],
           stopDue := u.stopDue || u.stepping }

/-- The buffer fills at the PC of an engine that has entered a handler or left debug halt. -/
def refetch (s : State) (e : Nat) : State := setEng s e (fetchFresh s e (engOf s e))

/-- EADDR, EINST0 and EINST1 take what the exception supplies. -/
def supply (u : Eng) (x : Exc) : Eng :=
  let u := match x.addr with
    | some a => { u with eaddr := a }
    | none => u
  match x.words with
  | some w => { u with einst0 := w.1, einst1 := w.2 }
  | none => u

/-- Lockup (R154). -/
def engLock (s : State) (e cls : Nat) (pc : Word) : State :=
  let u := entered (settleLoads (engOf s e))
  raise (setEng s e { u with
    locked := true, lockCls := BitVec.ofNat 4 cls, dbgPc := pc, stopDue := false, haltReq := false }) (bayEng e) 0

/-- Exchange of g14 and BW_SP. -/
def swapSp (u : Eng) : Eng := { gput u 14 u.bwSp with bwSp := greg u 14 }

/-- Entry to the breakwater handler. A refused return enters at level 0, with the Secure table, on an engine without the
grant too: R155's `bl` names class 10, which comes here only from such an engine (DEDUCED, log entry 62). -/
def engEscalate (s : State) (e : Nat) (x : Exc) (entry : Bool) : State :=
  let u := settleLoads (engOf s e)
  let bl := entryLevel u x.cls
  let pc := vecBase s e u bl
  let bwst := setBits (savedStatus u x.flags) 12 11 (2 * boolNat entry + boolNat (holdOf u))
  let ecause := setBits (setBits u.ecause.toNat 11 8 x.cls) 7 0 x.num
  let v := swapSp (supply (entered { u with bwpc := x.epc, bwst := BitVec.ofNat 20 bwst, ecause := BitVec.ofNat 20 ecause }) x)
  let s := setEng s e { v with bw := true, level := bl, ceil := bl, mask := 15, la := false, pc := pc }
  let r := fetchCheck (raise s (bayEng e) 1) e pc
  match r.1 with
  | some c => engLock r.2 e c pc
  | none => refetch r.2 e

/-- Taking an exception (R151-R155). A fault of the vector fetch escalates with number 0 (DESIGN CHOICE, log entry 62). -/
def engEnter (s : State) (e : Nat) (x : Exc) : State :=
  let u := settleLoads (engOf s e)
  if u.bw then engLock s e x.cls x.epc
  else if x.cls ≠ 10 ∧ (holdOf u ∨ (x.cls ≠ 11 ∧ faultLevel u x.cls ≤ u.mask.toNat)) then engEscalate s e x false
  else
    let el := entryLevel u x.cls
    let pc := vecBase s e u el + BitVec.ofNat 20 (8 * x.cls)
    let ecause := setBits (setBits (setBits u.ecause.toNat 19 19 1) 15 12 x.cls) 7 0 x.num
    let mask := if x.cls = 11 then x.num else if x.cls = 10 then 15 else faultLevel u x.cls
    let v := supply (entered { u with epc := x.epc, estat := BitVec.ofNat 20 (savedStatus u x.flags), ecause := BitVec.ofNat 20 ecause }) x
    let r := fetchCheck
      (setEng s e { v with level := el, ceil := el, la := false, mask := BitVec.ofNat 4 mask, pc := pc }) e pc
    match r.1 with
    | some c => engEscalate r.2 e { cls := c, num := 0, addr := some pc, epc := pc, flags := 0, words := none } true
    | none => refetch r.2 e

/-- A fault of the instruction at the PC of `u`, in its slot or shadow where it stands in one (R158, R159, R162). Only
an Unimplemented trap supplies words; a pending transfer keeps its target in EINST0. -/
def engFault (s : State) (e : Nat) (u : Eng) (cls : Nat) (addr : Word) : State :=
  let w0 := peekWord s e u.pc
  let w1 := peekWord w0.2 e (u.pc + 1)
  let s := if cls = 1 then w1.2 else s
  let words := if cls = 1 then some (w0.1, w1.1) else none
  let s := raiseIf (setEng s e u) (decide (cls = 4)) (bayEng e) 5
  match u.branch with
  | some b =>
    if b.pt then
      engEnter s e { cls := cls, num := 0, addr := some addr, epc := u.pc, flags := 4 + 2 * boolNat b.taken,
                     words := some (b.target, match words with
                       | some w => w.2
                       | none => u.einst1) }
    else engEnter s e { cls := cls, num := 0, addr := some addr, epc := b.addr, flags := 64, words := words }
  | none =>
    engEnter s e { cls := cls, num := 0, addr := some addr, epc := u.pc, flags := if u.shadow.isSome then 32 else 0,
                   words := words }

/-- A delayed fault before the instruction at the PC (R129, R159, R162). -/
def engDelayed (s : State) (e cls : Nat) (addr : Word) : State :=
  let u := engOf s e
  let s := raise s (bayEng e) (if cls = 4 then 5 else 4)
  match u.branch with
  | some b =>
    let s := if b.link then setEng s e (gput u 15 (u.pc + sizeAt s e u.pc)) else s
    engEnter s e { cls := cls, num := 0, addr := some addr, epc := u.pc, flags := 16 + 4 + 2 * boolNat b.taken,
                   words := some (b.target, u.einst1) }
  | none =>
    engEnter s e { cls := cls, num := 0, addr := some addr, epc := u.pc,
                   flags := 16 + (if u.shadow.isSome then 32 else 0), words := none }

/-! ### Debug halt (R167) -/

/-- The engine enters debug halt before the instruction at its PC; landing units with freeze set freeze (R75). A load
before it counts as completed, as before an exception (DESIGN CHOICE, log entry 62). -/
def engHalt (s : State) (e : Nat) : State :=
  let u := settleLoads (engOf s e)
  landFreezeAll (setEng s e
    { u with halted := true, dbgPc := u.pc, sleep := none, stepping := false, stopDue := false, haltReq := false }) e

/-- An interrupt that the engine would take (R150). -/
def irqTakeable (s : State) (e : Nat) : Bool :=
  let u := engOf s e
  decide (u.mask.toNat < icPresented s e) && !holdOf u && !u.bw

/-- A due first watchdog stage that the engine would take (R153, R166). -/
def wdTakeable (u : Eng) : Bool := u.wdDue && !u.bw

/-- The fault of the fetch at the PC, or of a reserved word there, which comes before what no instruction raises (R156): its
class and address, and what the fetch leaves. A sleeping WAIT has been fetched. -/
def nextFault (s : State) (e : Nat) : Option (Nat × Word) × State :=
  let u := engOf s e
  if u.sleep.isSome then (none, s)
  else
    let r := fetchCheck s e u.pc
    match r.1 with
    | some c => (some (c, u.pc), r.2)
    | none => if spelled s e u.pc then (none, s) else (some (1, u.pc), r.2)

/-- A boundary of a running engine: the first exception that is due without the next instruction, by R156: a delayed
fault, an imprecise Bus fault, the halt after a single step or BRK, before which a fetch fault at the PC comes. An
exception waits for outstanding loads (R136), and alarm halt takes none (R411). -/
def engBoundary (s : State) (e : Nat) : State :=
  let u := engOf s e
  if !engAlive s e || loadsOut u then s
  else
    match u.delayed with
    | (false, c, a) :: t =>
      if alarmHalt s u then s else engDelayed (setEng s e { u with delayed := t }) e c a
    | _ =>
      match u.impr with
      | a :: t =>
        if alarmHalt s u || !boundaryFree u then s
        else
          engEnter (raise (setEng s e { u with impr := t }) (bayEng e) 5) e
            { cls := 4, num := 0, addr := some a, epc := boundaryPc u, flags := 8, words := none }
      | [] =>
        if u.stopDue && boundaryFree u then
          match nextFault s e with
          | (some x, t) => if alarmHalt s u then engHalt s e else engFault t e u x.1 x.2
          | (none, _) => if wdTakeable u || irqTakeable s e then s else engHalt s e
        else s

/-- Something is due at the boundary before the next instruction. -/
def engDue (u : Eng) : Bool :=
  (match u.delayed with
    | (false, _, _) :: _ => true
    | _ => false) || (!u.impr.isEmpty && boundaryFree u)

/-! ### The issue of an instruction -/

/-- What an instruction does once nothing stops it before. -/
inductive Run where
  /-- Completes: register writes, loaded values, the level that DROP lowers to. -/
  | next (s : State) (ws : List (Nat × Word)) (ls : List (BitVec 4 × Word)) (shadow : Option (BitVec 2))
  /-- A load leaves the engine. -/
  | leave (s : State) (rd : BitVec 4) (t : FabTgt)
  | branch (target : Word) (taken link : Bool)
  | jump (s : State) (pc : Word)
  | sleep (rd : BitVec 4) (mask : BitVec 8)
  | fault (s : State) (cls : Nat) (addr : Word)
  | trap (n : Nat)
  | rete
  /-- BRK: completes, and the halt is due. -/
  | halt
  | stall

/-- The fixed facts of an instruction: length in words, whether a slot or shadow forbids it (R139, R162), whether its
words take the Unimplemented trap (R132), whether its level forbids it (R147 class 2). -/
structure Shape where
  size : Nat
  banned : Bool
  unimpl : Bool
  priv : Bool
deriving DecidableEq, Repr

/-- The loop-end test at an instruction that starts at LE (R140): the PC after it. -/
def loopEnd (u : Eng) (a next : Word) : Eng :=
  if u.la && decide (a = u.le) then
    if 1 < u.lc.toNat then { u with lc := u.lc - 1, pc := u.ls }
    else { u with lc := 0, la := false, pc := next }
  else { u with pc := next }

/-- An instruction after an outstanding load has issued; a register it writes discards the loaded value (R136). -/
def fabAge (wr : List Nat) (f : FabOp) : FabOp :=
  match f with
  | .load rd a l age k => .load rd a l 1 (k || (decide (age = 0) && wr.any fun r => decide (r = rd.toNat)))
  | .store a v l => .store a v l

/-- The registers after an instruction: loaded values of the one before, unless it writes them or loads them again
(`ld`), then its own writes. -/
def commitRegs (u0 u : Eng) (ws : List (Nat × Word)) (ld : List Nat) : Eng :=
  let wr := ws.map Prod.fst ++ ld
  let kept := (u0.pendLd.map fun p => (p.1.toNat, p.2)).filter fun p => !wr.any fun r => decide (r = p.1)
  { gputs { u with pendLd := [] } (kept ++ ws) with
    fab := u.fab.map (fabAge wr), delayed := u.delayed.map fun d => (false, d.2) }

/-- The instruction at the PC of `u0` completes; `s` holds what it did apart from the registers. -/
def engFinish (s : State) (e : Nat) (u0 : Eng) (size : Nat) (ws : List (Nat × Word)) (ls : List (BitVec 4 × Word))
    (out : Option (BitVec 4 × FabTgt)) (br : Option Branch) (jump : Option Word) (shadow : Option (BitVec 2)) : State :=
  let u := commitRegs u0 (engOf s e) ws (ls.map (fun p => p.1.toNat) ++ (out.map fun p => p.1.toNat).toList)
  let next := u0.pc + BitVec.ofNat 20 size
  let u := { u with
    pendLd := ls
    fab := match out with
      | some w => u.fab ++ [FabOp.load w.1 w.2 u.level 0 false]
      | none => u.fab }
  let u := match u0.branch with
    | some b => if b.taken then { u with pc := b.target } else loopEnd u u0.pc next
    | none =>
      match br with
      | some _ => { u with pc := next }
      | none => match jump with
        | some p => { u with pc := p }
        | none => loopEnd u u0.pc next
  let u := { u with
    branch := br
    skipSlot := br.isSome && u0.skipSlot
    level := u0.shadow.getD u.level
    shadow := shadow
    sleep := none }
  let u := if u.stepping && boundaryFree u then { u with stepping := false, stopDue := true } else u
  let leaves := jump.isSome || match u0.branch with
    | some b => b.taken
    | none => false
  let used := fetchKeys e u0.pc
  engBoundary (setEng s e (if leaves then fetchFresh s e u else fetchFill s e used u)) e

/-- RETE below the ceiling check (R164, R165). -/
def engReturn (s : State) (e : Nat) (u : Eng) : State :=
  let spc := if u.bw then u.bwpc else u.epc
  let sst := (if u.bw then u.bwst else u.estat).toNat
  let v := commitRegs u u (if u.bw then [(14, greg u 14)] else []) []
  let v := if u.bw then swapSp v else setHold v false
  let lvl : BitVec 2 := BitVec.ofNat 2 (bits sst 1 0)
  let ds := bit sst 19
  let v := { v with
    sat := bit sst 9, bw := false, la := bit sst 7, mask := BitVec.ofNat 4 (bits sst 5 2), level := lvl, ceil := lvl
    pc := spc
    branch := if !ds && bit sst 15 then
        some { addr := spc, target := u.einst0, taken := bit sst 14, link := false, pt := true } else none
    skipSlot := ds && bit sst 13 }
  let v := if v.stepping && boundaryFree v then { v with stepping := false, stopDue := true } else v
  engBoundary (setEng s e (fetchFresh s e v)) e

/-- RETE at System or Secure level (R164). -/
def engRete (s : State) (e : Nat) (u : Eng) : State :=
  let spc := if u.bw then u.bwpc else u.epc
  let sst := if u.bw then u.bwst &&& bwstMask else u.estat &&& estatMask
  let lvl := bits sst.toNat 1 0
  if lvl < u.ceil.toNat ∨ lvl = 3 then
    let s := raise (thPrivReturn s e) (bayEng e) 7
    let x : Exc := { cls := 10, num := 0, addr := some sst, epc := u.pc, flags := 0, words := none }
    if u.bw then engLock s e 10 u.pc
    else if !granted s e then engEscalate s e x false
    else engEnter (setEng s e { u with einst0 := spc }) e x
  else engReturn s e u

/-- A TRAP has completed: the instruction after it is the one before which a delayed fault may fall (R129). -/
def trapped (u : Eng) : Eng := { u with delayed := u.delayed.map fun d => (false, d.2) }

/-- TRAP n (R143, R149). -/
def engTrap (s : State) (e : Nat) (u : Eng) (n : Nat) : State :=
  let enter := fun (c : Nat) =>
    engBoundary (engEnter (setEng s e (trapped (engOf s e))) e
      { cls := c, num := n, addr := none, epc := u.pc + 1, flags := 0, words := none }) e
  if n < 240 then enter 8 else if granted s e then enter 9 else engFault s e u 2 u.pc

/-- The fetch of the words of an instruction: class and address of the fault, and what the fetch leaves. -/
def fetchWords (s : State) (e : Nat) (pc : Word) (size : Nat) : Option (Nat × Word) × State :=
  let r := fetchCheck s e pc
  match r.1 with
  | some c => (some (c, pc), r.2)
  | none =>
    if size = 2 then
      let r' := fetchCheck r.2 e (pc + 1)
      (r'.1.map fun c => (c, pc + 1), r'.2)
    else (none, r.2)

/-- The faults of an instruction in the order of R156, then its body. A reserved word at the PC takes the Unimplemented
trap whatever the command (R132, log entry 10). -/
def engAttempt (s : State) (e : Nat) (u : Eng) (sh : Shape) (body : State → Eng → Run) : Run :=
  let f := fetchWords s e u.pc sh.size
  match f.1 with
  | some x => .fault f.2 x.1 x.2
  | none =>
    if sh.unimpl || !spelled s e u.pc then .fault f.2 1 u.pc
    else if sh.banned && !boundaryFree u then .fault f.2 3 u.pc
    else if sh.priv then .fault f.2 2 u.pc
    else
      let v := match u.branch with
        | some b => if b.link then gput u 15 (u.pc + BitVec.ofNat 20 sh.size) else u
        | none => u
      body (setEng f.2 e v) v

/-- The engine can issue an instruction now. -/
def engReady (s : State) (e : Nat) : Bool :=
  let u := engOf s e
  engAlive s e && !u.stopDue && u.sleep.isNone && !alarmHalt s u && !loadStall u

/-- The engine issues one instruction; where it cannot, or stalls, nothing happens. -/
def engIssue (s : State) (e : Nat) (sh : Shape) (body : State → Eng → Run) : State :=
  let u := engOf s e
  if !engReady s e then s
  else if engDue u then engBoundary s e
  else if u.skipSlot && u.branch.isSome then
    let v := match u.branch with
      | some b => if b.link then gput u 15 (u.pc + BitVec.ofNat 20 sh.size) else u
      | none => u
    engFinish (setEng s e v) e u sh.size [] [] none none none none
  else
    match engAttempt s e u sh body with
    | .next s ws ls d => engFinish s e u sh.size ws ls none none none d
    | .leave s rd t => engFinish s e u sh.size [] [] (some (rd, t)) none none none
    | .branch t tk l =>
      engFinish (fetchWords s e u.pc sh.size).2 e u sh.size [] [] none
        (some { addr := u.pc, target := t, taken := tk, link := l, pt := false }) none none
    | .jump s p => engFinish s e u sh.size [] [] none none (some p) none
    | .sleep rd m =>
      setEng (fetchWords s e u.pc sh.size).2 e { u with sleep := some (rd, m) }
    | .fault s' c a => if loadsOut u then s else engFault s' e u c a
    | .trap n => if loadsOut u then s else engTrap (fetchWords s e u.pc sh.size).2 e u n
    | .rete => if loadsOut u then s else engRete (fetchWords s e u.pc sh.size).2 e u
    | .halt =>
      if loadsOut u then s
      else
        engFinish (setEng (fetchWords s e u.pc sh.size).2 e { u with stopDue := true }) e u sh.size [] [] none none none none
    | .stall => s

end Sys2Proof.Machine
end

