-- ==== Sys2Proof/Machine/EngCtl.lean ====
section
/-! DEFINITION. The engine's asynchronous events and its control block: watchdog, interrupts, debug halt and step,
waking from WAIT (06_engine_exceptions.md R150, R156, R166-R169; 04_ferry_channels.md R92, R93). -/

namespace Sys2Proof.Machine

/-! ### Watchdog (R166) -/

/-- The count that a reload takes, in ns; period 0 stands for 65,536 µs. -/
def wdLoad (s : State) (e : Nat) : Nat :=
  let p := fget s (Fd.engWdogCfgPeriod (e / 4) (e % 4))
  1000 * (if p = 0 then 65536 else p)

def wdKick (s : State) (e : Nat) : State :=
  setEng s e { engOf s e with wdNs := wdLoad s e, wdStage := false }

/-- WDOG_STAT as it reads: µs remaining. -/
def wdStat (u : Eng) : Nat := boolNat u.wdStage * 2 ^ 19 + (u.wdNs + 999) / 1000 % 65536

/-- The watchdog of an engine runs and its count is 0. -/
def wdExpired (s : State) (e : Nat) : Bool :=
  let u := engOf s e
  fbit s (Fd.engWdogCfgEn (e / 4) (e % 4)) && engAlive s e && !alarmHalt s u && decide (u.wdNs = 0)

/-- The first expiry: stage sets, the count reloads, FAULT_OWN bit 2, and the Watchdog exception is due. -/
def wdFirst (s : State) (e : Nat) : State :=
  if wdExpired s e && !(engOf s e).wdStage then
    raise (setEng s e { engOf s e with wdStage := true, wdDue := true, wdNs := wdLoad s e }) (bayEng e) 2
  else s

/-- The second expiry resets the quad. -/
def wdSecond (s : State) (e : Nat) : State :=
  if wdExpired s e && (engOf s e).wdStage then quadReset s (e / 4) true else s

/-- An exception that the next instruction does not raise may be taken at this boundary; a fault of the fetch, or a
reserved word at the PC, comes first (R156). -/
def asyncOpen (s : State) (e : Nat) : Bool :=
  let u := engOf s e
  engAlive s e && !loadsOut u && boundaryFree u && !alarmHalt s u && !engDue u && (nextFault s e).1.isNone

/-- The due Watchdog exception is taken. -/
def wdEnter (s : State) (e : Nat) : State :=
  let u := engOf s e
  if asyncOpen s e && wdTakeable u then
    engEnter (setEng s e { u with wdDue := false }) e
      { cls := 7, num := 0, addr := none, epc := boundaryPc u, flags := 0, words := none }
  else s

/-! ### Interrupts (R150, R347) -/

def interruptEnter (s : State) (e : Nat) : State :=
  let u := engOf s e
  if asyncOpen s e && !wdTakeable u && irqTakeable s e then
    match icTake s e with
    | some r => engEnter r.2 e { cls := 11, num := r.1, addr := none, epc := boundaryPc u, flags := 0, words := none }
    | none => s
  else s

/-! ### Debug (R167-R169) -/

/-- A debug halt is requested: DBG_CTL.halt, but not by the write that began a step while its one instruction runs, or a
step or BRK that has run. -/
def haltWanted (s : State) (e : Nat) : Bool :=
  let u := engOf s e
  u.stopDue || u.haltReq || (fbit s (Fd.engDbgCtlHalt (e / 4) (e % 4)) && !u.stepping)

/-- The request is taken at the first boundary with nothing above it due; in alarm halt where the engine stopped
(R411). -/
def haltEnter (s : State) (e : Nat) : State :=
  let u := engOf s e
  if engAlive s e && !loadsOut u && haltWanted s e &&
      (alarmHalt s u || (boundaryFree u && !engDue u && (nextFault s e).1.isNone && !wdTakeable u && !irqTakeable s e)) then
    engHalt s e
  else s

/-- The engine leaves debug halt at DBG_PC; `step` runs one instruction. -/
def engResume (s : State) (e : Nat) (step : Bool) : State :=
  let u := engOf s e
  let moved := decide (u.dbgPc ≠ u.pc)
  let u := { u with
    halted := false, pc := u.dbgPc, dbgPc := 0, stepping := step
    branch := if moved then none else u.branch
    shadow := if moved then none else u.shadow
    skipSlot := u.skipSlot && !moved, haltReq := false }
  engBoundary (landFreezeAll (setEng s e (if moved then fetchFresh s e u else fetchFill s e [] u)) e) e

/-- A write of DBG_CTL (R167): step wins over halt and leaves halt 1; a step while not halted is ignored. -/
def dbgCtlWrite (s : State) (e v : Nat) : State :=
  let q := e / 4
  let i := e % 4
  let halted := (engOf s e).halted
  let step := bit v 18 && halted
  let s := fset s (Fd.engDbgCtlBrkEn q i) (bits v 17 17)
  let s := fset s (Fd.engDbgCtlHalt q i) (if step then 1 else bits v 19 19)
  if halted && (step || !bit v 19) then engResume s e step
  else setEng s e { engOf s e with haltReq := !halted && bit v 19 && (engOf s e).stepping }

/-- DBG_STAT as it reads. -/
def dbgStat (u : Eng) : Nat :=
  boolNat u.halted * 2 ^ 19 + boolNat u.locked * 2 ^ 18 + boolNat u.sleep.isSome * 2 ^ 17 + u.lockCls.toNat

/-- DBG_PC as it reads: 0 unless halted or locked. -/
def dbgPcRead (u : Eng) : Nat := if u.halted || u.locked then u.dbgPc.toNat else 0

/-- A debugger's write of a special register, as MTS at System level would make it (R169). -/
def dbgSWrite (s : State) (e n : Nat) (v : Word) : State := setEng s e (sregWrite (engOf s e) n v false)

/-! ### WAIT (R92, R93) -/

/-- A sleeping engine wakes and completes its WAIT; what R93 takes first comes first. -/
def waitWake (s : State) (e : Nat) : State :=
  let u := engOf s e
  match u.sleep with
  | some (rd, m) =>
    if engAlive s e && !alarmHalt s u && u.impr.isEmpty && !wdTakeable u && !irqTakeable s e && !haltWanted s e then
      match tiReady s e m.toNat with
      | some k => engFinish (tiDec s e k) e u 1 [(rd.toNat, BitVec.ofNat 20 k)] [] none none none none
      | none => s
    else s
  | none => s

end Sys2Proof.Machine
end

