-- ==== Sys2Proof/Machine/BusRead.lean ====
section
/-! DEFINITION. Reads of control space (R6, R11, R31, R375): what each register reads as, the views without a register
table, and the side effects of reads. -/

namespace Sys2Proof.Machine

/-! ### Presence of registers (R31) -/

/-- The first and the second index of a register's block. -/
def RegHit.i0 (h : RegHit) : Nat := h.idx.getD 0 0
def RegHit.i1 (h : RegHit) : Nat := h.idx.getD 1 0

/-- The repetition of the register within its block. -/
def RegHit.r0 (h : RegHit) : Nat := h.ridx.getD 0 0

/-- The engine of a block that a quad page repeats by engine. -/
def RegHit.eng (h : RegHit) : Nat := 4 * h.i0 + h.i1

/-- A head register exists on this head: DisplayPort on H0-H3, LVDS on H4 and H5, the parallel bus on H5 (R247). -/
def headRegPresent (h r : Nat) : Bool :=
  if 0x800 ≤ r ∧ r < 0x880 then decide (h < 4)
  else if r = 0x880 then decide (4 ≤ h)
  else if 0x8C0 ≤ r ∧ r < 0x900 then decide (h = 5)
  else true

/-- The register belongs to a unit that the variant has. The XM-32L keeps the registers of I2S ports 8-15 (DESIGN CHOICE,
log entry 60: R250 gives it sixteen ports, and R281 calls ports 8-15 absent, with their posts). -/
def hitPresent (s : State) (h : RegHit) : Bool :=
  let v := s.variant
  match h.blk.id with
  | .faceSpan => joined s
  | .faceGroup => joined s
  | .faceHall => decide (h.i0 < v.halls)
  | .faceQuad => quadPresent s h.i0
  | .faceEng => quadPresent s h.i0
  | .eng => quadPresent s h.i0
  | .d => quadPresent s h.i0
  | .ti => engPresent s h.i0
  | .icE => engPresent s h.i0
  | .l => decide (h.i0 < v.lands)
  | .eq => decide (h.i0 < v.posts)
  | .post => decide (h.i0 < v.posts)
  | .prt => decide (h.i0 < v.ports)
  | .join => v.head h.i0
  | .vid => v.head h.i0
  | .til => v.head h.i0
  | .spr => v.head h.i0
  | .plane => v.head h.i0
  | .head => v.head h.i0 && headRegPresent h.i0 h.reg.off
  | .dpa => v.head h.i0
  | .v => decide (h.i0 < v.voices48)
  | .k => v.tallies h.i0
  | .mc => decide (h.i0 < v.channels)
  | .pl => v.planer
  | .spp => decide (h.i0 < v.spanPorts)
  | _ => true

/-! ### What registers read as -/

/-- A register with its RC fields as they were before hardware's sets of the present cycle (R7). -/
def rcValue (s : State) (off : Nat) (h : RegHit) (v : Nat) : Nat :=
  match Sparse.find off s.sets with
  | some p => mergeFields h.reg.flds (fun f => decide (f.acc = .rc)) v p.1
  | none => v

/-- The register's stored fields as a read answers them, those that are written only as zero (R6). -/
def storedRead (s : State) (off : Nat) (h : RegHit) : Nat :=
  rcValue s off h (mergeFields h.reg.flds (fun f => decide (f.acc ≠ .wo)) 0 (rget s off).toNat)

/-- The bay of a face. -/
def faceBay (h : RegHit) : Option Bay :=
  match h.blk.id with
  | .faceChip => some .chip
  | .faceSpan => some .spanBay
  | .faceGroup => some .spanGroup
  | .faceHall => if q : h.i0 < 8 then some (.hall ⟨h.i0, q⟩) else none
  | .faceQuad => if q : h.i0 < 32 then some (.quad ⟨h.i0, q⟩) else none
  | .faceEng => if q : h.eng < 128 then some (.engine ⟨h.eng, q⟩) else none
  | _ => none

/-- The presence entry that describes a bay (R27, R30). -/
def bayEntry : Bay → Nat
  | .chip => 0
  | .spanBay => 1022
  | .spanGroup => 1023
  | .hall h => 1 + 25 * h.val
  | .quad q => 1 + 25 * (q.val / 4) + 1 + 5 * (q.val % 4)
  | .engine e => 1 + 25 * (e.val / 16) + 1 + 5 * (e.val / 4 % 4) + 1 + e.val % 4

/-- A face register (R15). -/
def faceRead (s : State) (b : Bay) (r : Nat) : Nat :=
  let es := bayEngines s.variant b
  match r with
  | 0x10 => bayPath s b
  | 0x14 => 0
  | 0x18 => faultOwn s (bayNum b)
  | 0x1C => faultSum s (bayNum b)
  | 0x20 =>
    let f := Sparse.get 0 (bayNum b) s.faultFirst
    if f = 0 then 0 else 2 ^ 15 + (f - 1)
  | 0x24 => match b with
    | .spanBay => spanTiView s false
    | .spanGroup => spanTiView s true
    | _ => tiView s es
  | 0x28 => match b with
    | .spanBay => spanWaiting s false
    | .spanGroup => spanWaiting s true
    | _ => waitingOf s es
  | _ => bits (descBits (descAt s (bayEntry b))) (4 * r + 15) (4 * r)

/-- A timeline register (R57, R60). -/
def tlRead (s : State) (m : Master) (off : Nat) (h : RegHit) : Nat × State :=
  let k := h.i0
  match h.reg.off with
  | 0x0 => pos0Read s m k
  | 0x4 => ((latchOf s m k).hi, s)
  | 0x8 => ((latchOf s m k).lap, s)
  | 0x3C => (setBits (storedRead s off h) 0 0 (boolNat (tlRunning s k)), s)
  | 0x48 => (if k = 0 then storedRead s off h else 0, s)
  | _ => (storedRead s off h, s)

/-- An edge queue register (R86). -/
def eqRead (s : State) (off : Nat) (h : RegHit) : Nat × State :=
  let n := h.i0
  let u := eqOf s n
  match h.reg.off with
  | 0x8 =>
    (setBits (setBits (storedRead s off h) 11 9 u.entries.length) 8 7 u.stamps.length, s)
  | 0x20 => (match u.stamps with
    | [] => 0
    | p :: _ => 2 ^ 19 + boolNat p.2 * 2 ^ 18, s)
  | 0x24 => (match u.stamps with
    | [] => 0
    | p :: _ => p.1 / 2 ^ 20, s)
  | 0x28 => cap0Read s n
  | _ => (storedRead s off h, s)

/-- A TAKE read: the task input, a non-zero count of which it decrements (R95). -/
def takeRead (s : State) (e k : Nat) : Nat × State :=
  let v := (rget s (Adr.tiTi e k)).toNat % 32
  (v, if fget s (Fd.tiTiCount e k) = 0 then s else tiDec s e k)

/-- An engine control register (R169). -/
def engCtlRead (s : State) (off : Nat) (h : RegHit) : Nat :=
  let u := engOf s h.eng
  match h.reg.off with
  | 0x10C => wdStat u
  | 0x114 => dbgStat u
  | 0x118 => dbgPcRead u
  | 0x140 => (greg u h.r0).toNat
  | 0x180 => (sregRead u h.r0).toNat
  | _ => storedRead s off h


/-- A video layer's register; without a scaler STEP, INIT and the coefficients read fixed values (R185). -/
def vidRead (s : State) (off : Nat) (h : RegHit) : Nat :=
  if h.reg.off = 0x48 then (if s.variant.scaler then coefRead s h.i0 h.i1 else 0) else storedRead s off h

/-- A head register (R235, R237, R231, R247). -/
def headRead (s : State) (off : Nat) (h : RegHit) : Nat :=
  match h.reg.off with
  | 0x4 => setBits (storedRead s off h) 4 4 (boolNat (headLoop s h.i0))
  | 0x50 => outDelay s h.i0
  | 0x808 => setBits (storedRead s off h) 12 12 (boolNat (dpTooSlow s h.i0))
  | _ => storedRead s off h

/-- PIN of a post (R294). -/
def pinRead (s : State) (n : Nat) : Nat :=
  4 * boolNat (padKeeper s n) + 2 * boolNat (decide (padDrv s n ≠ .none) && !padKeeper s n) + boolNat (padSync s n)

/-- A port register (R295). -/
def prtRead (s : State) (off : Nat) (h : RegHit) : Nat × State :=
  let p := h.i0
  match h.reg.off with
  | 0x8 => ((List.range 32).foldl (fun a i => a + boolNat (padSync s (32 * p + i)) * 2 ^ i) 0, drew s)
  | 0x4C => serRxRead s p
  | 0x50 => (serStat s p, s)
  | _ => (storedRead s off h, s)

/-- A 16-bit part of a 64-bit parameter. -/
def part16 (v j : Nat) : Nat := v / 2 ^ (16 * j) % 2 ^ 16

/-- A tally register; the fields of the fully configurable units read 0 elsewhere, and the parameter registers those of
the selected code (R301, R305, R306). -/
def tallyRead (s : State) (m : Master) (off : Nat) (h : RegHit) : Nat × State :=
  let k := h.i0
  let full := tallyFull s.variant k
  let kept := Sparse.get [] (64 * requesterOf m + k) s.readLatch
  let c := crcCode (fget s (Fd.kCfgCode k))
  match h.reg.off with
  | 0x0 => (if full then storedRead s off h
      else setBits (setBits (setBits (storedRead s off h) 18 18 0) 12 11 0) 6 0 0, s)
  | 0x1C => (setBits (storedRead s off h) 0 0 (boolNat (tallyOf s k).inFrame), s)
  | 0x2C => (kept.getD 3 0, s)
  | 0x30 => if h.r0 = 0 then result0Read s m k else (kept.getD (h.r0 - 1) 0, s)
  | 0x50 => (if full then storedRead s off h else part16 c.poly h.r0, s)
  | 0x60 => (if full then storedRead s off h else part16 c.init h.r0, s)
  | 0x70 => (if full then storedRead s off h else part16 c.xorout h.r0, s)
  | _ => (storedRead s off h, s)

/-- A controller register (R355). -/
def icRead (s : State) (off : Nat) (h : RegHit) : Nat :=
  match h.reg.off with
  | 0x1C0100 => setBits (storedRead s off h) 16 16 (boolNat (decide (Sparse.get 0 h.r0 s.ic.hold ≠ 0)))
  | 0x1C1000 => icBits (srcPending s) h.r0
  | 0x1C1080 => icBits (srcActive s) h.r0
  | _ => storedRead s off h

/-- An engine's interrupt registers (R357). -/
def icERead (s : State) (h : RegHit) : Nat :=
  match h.reg.off with
  | 0x0 => eCurRead s h.i0
  | 0x4 => eStkRead s h.i0
  | 0xC => icPresented s h.i0
  | _ => 0

/-- A vector's registers (R351, R358). -/
def icVRead (s : State) (h : RegHit) : Nat × State :=
  match h.reg.off with
  | 0x0 => vecClaim s h.i0
  | 0x8 => (vStatRead s h.i0, s)
  | _ => (0, s)

/-- A Tollhouse register (R403, R417). -/
def thRead (s : State) (m : Master) (off : Nat) (h : RegHit) : Nat × State :=
  match h.reg.off with
  | 0x22001C => if h.r0 = 0 then rtc0Read s m else (rtcLatched s m (h.r0 - 1), s)
  | 0x220050 => (rtcLatched s m 2, s)
  | 0x220030 => thRngRead s m
  | _ => (storedRead s off h, s)

/-- A monitor register (R468): the main supplies read 0 while main is off. -/
def monRead (s : State) (off : Nat) (h : RegHit) : Nat :=
  if (off = 0x223408 ∨ off = 0x22340C) ∧ !fbit s Fd.pwrStatMainOn then 0 else storedRead s off h

/-- The value a register reads as, and what the read does apart from clearing. -/
def regValue (s : State) (m : Master) (off : Nat) (h : RegHit) : Nat × State :=
  match h.blk.id with
  | .tl => tlRead s m off h
  | .eq => eqRead s off h
  | .ti => if h.reg.off = 0x20 then takeRead s h.i0 h.r0 else (storedRead s off h, s)
  | .eng => (engCtlRead s off h, s)
  | .join => (if h.reg.off = 0x114 then setBits (storedRead s off h) 19 16 (joinFill s h.i0) else storedRead s off h, s)
  | .vid => (vidRead s off h, s)
  | .head => (headRead s off h, s)
  | .post => if h.reg.off = 0xC then (pinRead s h.i0, drew s) else (storedRead s off h, s)
  | .prt => prtRead s off h
  | .pil => (if h.reg.off = 8 then setBits (storedRead s off h) 0 0 (boolNat (pilLevel s h.i0)) else storedRead s off h, s)
  | .k => tallyRead s m off h
  | .mem => (if off ≤ 0x160008 then part16 s.mem.top h.r0 else storedRead s off h, s)
  | .ic => (icRead s off h, s)
  | .src => (srcCfgRead s h.i0, s)
  | .icE => (icERead s h, s)
  | .icV => icVRead s h
  | .th => thRead s m off h
  | .mon => (monRead s off h, s)
  | _ => match faceBay h with
    | some b => (faceRead s b h.reg.off, s)
    | none => (storedRead s off h, s)

/-- What an RC field keeps through a read: the bit, or the count, that hardware set in the cycle of the read (R7). -/
def rcKept (s : State) (off : Nat) (f : Fld) : Nat :=
  match Sparse.find off s.sets with
  | some p =>
    if f.hi = f.lo then bits p.2 f.hi f.lo else bits (rget s off).toNat f.hi f.lo - bits p.1 f.hi f.lo
  | none => 0

/-- The register as an RC read leaves it. -/
def rcLeft (s : State) (off : Nat) (h : RegHit) : Nat :=
  h.reg.flds.foldl (fun w f => if f.acc = .rc then setBits w f.hi f.lo (rcKept s off f) else w) (rget s off).toNat

/-- A read clears the RC fields of the register (R6), but for what hardware sets in the same cycle (R7). -/
def clearRc (s : State) (off : Nat) (h : RegHit) : State :=
  if h.reg.flds.any fun f => decide (f.acc = .rc) then
    let w := rcLeft s off h
    let s := match Sparse.find off s.sets with
      | some p => { s with sets := Sparse.ins off (mergeFields h.reg.flds (fun f => decide (f.acc = .rc)) p.1 0, p.2) s.sets }
      | none => s
    rput s off (BitVec.ofNat 32 w)
  else s

/-! ### Views without a register table -/

/-- Display memories: tile store, sprite table, palette (R205). -/
def dispMem (off : Nat) : Bool :=
  decide (0x2000000 ≤ off ∧ off < 0x2200000) || decide (0x2400000 ≤ off ∧ off < 0x2440000) ||
  decide (0x2500000 ≤ off ∧ off < 0x2510000)

/-- A read of an entry of the display memories against its code (R181, R215, R318): faults of the chip bay. -/
def dispCheck (s : State) (off : Nat) : State :=
  if NSet.has off s.dispBad then raise s bayChip 4 else raiseIf s (NSet.has off s.dispOne) bayChip 3

/-- The presence table: granules of 8 bytes, and words of 16 bits (R23). -/
def presenceRead (s : State) (off : Nat) : Nat :=
  if off < 0x2000 then bits (descBits (descAt s (off / 8))) (8 * (off % 8) + 31) (8 * (off % 8))
  else bits (descBits (descAt s ((off - 0x8000) / 16))) (4 * (off % 16) + 15) (4 * (off % 16))

def presenceView (off : Nat) : Bool := decide (off < 0x2000) || decide (0x8000 ≤ off ∧ off < 0xC000)

/-- FLAGS0-FLAGS7 (R106). -/
def flagsView (off : Nat) : Bool := decide (0x32000 ≤ off ∧ off < 0x32020)

/-- The staged copies (R363). -/
def mirrorView (off : Nat) : Bool := decide (0x3000000 ≤ off ∧ off < 0x3100000)

/-- A read of control space by a master: the value, and the state after. An offset that is not listed, or belongs to an
absent unit, reads as zero (R31, R374). -/
def busRead (s : State) (m : Master) (off : Nat) : Nat × State :=
  if presenceView off then (presenceRead s off, s)
  else if flagsView off then (flagsRead s (8 * (off - 0x32000)) 32, s)
  else if dispMem off then ((rget s off).toNat, dispCheck s off)
  else if mirrorView off then
    (if (stagedIn s (off - 0x3000000)).isSome then stagedGet s (off - 0x3000000) else 0, s)
  else
    match RegMap.lookup off with
    | none => (0, s)
    | some h =>
      if hitPresent s h then
        let r := regValue s m off h
        (r.1, clearRc r.2 off h)
      else (0, s)

end Sys2Proof.Machine
end

