-- ==== Sys2Proof/Machine/BusWrite.lean ====
section
/-! DEFINITION. Writes of control space: authority and fence (R12, R385-R387), the rules that refuse a write (R50, R58,
R59, R78, R98, R99, R108, R290, R292, R345), Stop-class (R360, R361), staging (R363), and the effect of each register. -/

namespace Sys2Proof.Machine

/-! ### Authority and fence -/

/-- The authority of a register: its block's, with the exceptions its chapter lists (R169, R390, R391, R417, R457). -/
def offAuth (off : Nat) (h : RegHit) : Auth :=
  match h.blk.id with
  | .sb => if 0x210008 ≤ off then .either else .sideband
  | .hl => if off = 0x200008 then .host else .either
  | .eng => if h.reg.off = 0x100 then .tollhouse else .either
  | .th =>
    if (0x22000C ≤ off ∧ off ≤ 0x220018) ∨ (0x220040 ≤ off ∧ off ≤ 0x22004C) then .sideband
    else if 0x222000 ≤ off then .tollhouse else .either
  | .pwr => if off = 0x223000 then .sideband else if off = 0x223018 ∨ 0x223100 ≤ off then .tollhouse else .either
  | _ => h.blk.auth

/-- The writers that an authority accepts (R385). -/
def authAdmits (a : Auth) (m : Master) : Bool :=
  decide (m = .tollhouse) ||
  match a with
  | .either => true
  | .host => decide (m = .host)
  | .sideband => decide (m = .sideband)
  | .tollhouse => false

/-- Registers that only the host, the side-band, the Tollhouse and Secure-level engines write (R58, R295, R444). -/
def trustedOnly (s : State) (h : RegHit) : Bool :=
  match h.blk.id with
  | .prt => decide (h.reg.off = 0)
  | .sp => decide (h.reg.off = 0x240000)
  | .spp => decide (h.reg.off = 0)
  | .tl =>
    let set := decide (0x30 ≤ h.reg.off ∧ h.reg.off ≤ 0x38)
    (decide (h.i0 = 0) && (set || decide (h.reg.off = 0x48))) || (set && decide (tlKind s h.i0 = 6))
  | _ => false

def trusted (m : Master) : Bool := masterSecure m || decide (m = .host) || decide (m = .sideband)

/-- No master may move a beam timeline, or span time while joined (R50, R59). -/
def nobodyMoves (s : State) (h : RegHit) : Bool :=
  match h.blk.id with
  | .tl => decide (0x30 ≤ h.reg.off ∧ h.reg.off ≤ 0x38) &&
      (decide (1 ≤ h.i0 ∧ h.i0 ≤ 6) || (decide (tlKind s h.i0 = 6) && joined s))
  | _ => false

def taskMaster : Master → Bool
  | .engine _ l => decide (l = 2)
  | _ => false

/-- The management group of the fence (R386). -/
def mgmtReg (h : RegHit) : Bool :=
  match h.blk.id with
  | .mem => true
  | .mc => true
  | .eng => true
  | .pwr => true
  | .prt => decide (h.reg.off = 0)
  | _ => false

/-- The masters that configure a pin interrupt line (R289). -/
def pilMaster (m : Master) : Bool :=
  match m with
  | .host => true
  | .sideband => true
  | .tollhouse => true
  | .engine _ l => decide (l ≠ 2)
  | _ => false

/-- Whether a listed write is turned away for authority, by a rule of its timeline, watchdog, port or pin interrupt
line (R58, R59, R169, R289, R295), or by the fence. -/
def writeRefused (s : State) (m : Master) (off : Nat) (h : RegHit) : Bool :=
  !authAdmits (offAuth off h) m || (trustedOnly s h && !trusted m) || nobodyMoves s h ||
  (decide (h.blk.id = .eng) && decide (h.reg.off = 0x104) && taskMaster m) ||
  (decide (h.blk.id = .pil) && decide (h.reg.off ≤ 4) && !pilMaster m) ||
  (decide (m = .host) && fbit s Fd.sbFenceMgmt && mgmtReg h)

/-- The engine whose landing units or task inputs a master may not write: another engine's, to a Task-level engine (R78,
R108), and any engine's task inputs, to a mover or a line table, which R108 does not list. -/
def taskForeign (m : Master) (h : RegHit) : Option Nat :=
  match m with
  | .engine e l =>
    if l ≠ 2 then none
    else match h.blk.id with
      | .l => if h.i0 / 4 = e.val then none else some (h.i0 / 4)
      | .ti => if h.i0 = e.val then none else some h.i0
      | _ => none
  | .barge _ => if h.blk.id = .ti then some h.i0 else none
  | .bayDma _ => if h.blk.id = .ti then some h.i0 else none
  | .lineTable _ => if h.blk.id = .ti then some h.i0 else none
  | _ => none

/-! ### Producers (R99) -/

/-- The channels that a write's channel fields name. -/
def prodChans (h : RegHit) (v : Nat) : List Nat :=
  let lo := v % 256
  match h.blk.id, h.reg.off with
  | .l, 0x0 => [lo]
  | .eq, 0x4 => [bits v 18 11, bits v 9 2]
  | .v, 0x30 => [lo]
  | .bus, 0x18 => [lo]
  | .head, 0x700 => [lo]
  | .pil, 0x4 => [lo]
  | .k, 0x18 => [bits v 15 8, lo]
  | .d, 0x1C => [bits v 15 8, lo]
  | .bg, 0x84 => [bits v 15 8, lo]
  | .pl, 0x5C => [bits v 15 8, lo]
  | .rc, 0x24 => [bits v 15 8, lo]
  | _, _ => []

/-- The bay that holds a register's block. -/
def blockBay (h : RegHit) : Nat :=
  match h.blk.id with
  | .l => bayEng (landOwner h.i0)
  | .eng => bayEng h.eng
  | .ti => bayEng h.i0
  | .d => bayQuad h.i0
  | .eq => postHall h.i0
  | .post => postHall h.i0
  | .prt => bayHall (h.i0 / 4)
  | _ => bayChip

def prodSecret (s : State) (m : Master) (h : RegHit) (v : Nat) : Bool :=
  !masterSecure m && (prodChans h v).any (chanSecure s)

/-! ### Stop-class (R360, R361) -/

/-- The block runs: its Stop-class fields keep their values. -/
def blockRuns (s : State) (h : RegHit) : Bool :=
  let k := h.i0
  match h.blk.id with
  | .tl => fbit s (Fd.tlCfgRun k)
  | .l => landArmed s k
  | .eq => eqRunning s k
  | .prt => if h.reg.off = 0 then !bankStopped s k else !serIdle s k
  | .head => if 0x800 ≤ h.reg.off ∧ h.reg.off < 0x880 then fbit s (Fd.headDpCtrlEn k)
      else headRunning s k || fbit s (Fd.headHstatStopping k)
  | .aud => fbit s Fd.audCfgRun
  | .port => fbit s (Fd.portRunRun k)
  | .dpa => fbit s (Fd.dpaCfgEn k)
  | .inp => fbit s (Fd.inSrcEn k)
  | .k => fbit s (Fd.kCfgEn k)
  | .d => dmaBusy s k h.i1 || dmaArmed s k h.i1
  | .bg => !bargeIdle s k
  | .pl => fbit s Fd.plStatBusy
  | .ic => !icStopped s
  | .rg => fbit s (Fd.rgCtrlEn k)
  | .sp => fbit s Fd.spCfgEn
  | .spp => fbit s Fd.spCfgEn
  | .rc => fbit s Fd.rcStatBusy
  | .eng => !(engOf s h.eng).halted
  | .vid => fbit s (Fd.vidCtrlEn k h.i1)
  | _ => false

def Fld.stops (f : Fld) : Bool := decide (f.cls = .stop) && decide (f.acc = .rw)

/-- A Stop-class field of the register as its table lists it, but for what R33, R51 and R57 add: kind is RO on T0-T7, and
MOD is Now on a Local timeline. -/
def fldStops (s : State) (h : RegHit) (f : Fld) : Bool :=
  f.stops &&
  !(decide (h.blk.id = .tl) &&
    ((decide (h.reg.off = 0xC) && decide (h.i0 < 8)) || (decide (h.reg.off = 0x10) && decide (tlKind s h.i0 = 7))))

/-- Some Stop-class field of the write differs from its value in effect. -/
def stopDiffers (s : State) (off : Nat) (h : RegHit) (v : Nat) : Bool :=
  h.reg.flds.any fun f => fldStops s h f && decide (bits v f.hi f.lo ≠ bits (rget s off).toNat f.hi f.lo)

def bargeMaster : Master → Bool
  | .barge _ => true
  | _ => false

/-- A Barge write that bypasses the ignore leaves the behaviour of the block undefined (R330, R480 case 5): its
Stop-class fields take free bits (DESIGN CHOICE, log entry 2). The state, and the write as it goes on. -/
def stopBypass (s : State) (m : Master) (off : Nat) (h : RegHit) (v : Nat) : State × Nat :=
  if bargeMaster m && blockRuns s h && stopDiffers s off h v then
    let v' := mergeFields h.reg.flds (fldStops s h) v (draw s).toNat
    let w := mergeFields h.reg.flds (fldStops s h) (rget s off).toNat v'
    (rput (drew s) off (BitVec.ofNat 32 w), v')
  else (s, v)

/-- A write by the register's table alone: each field by its access and class (R6, R10, R359, R361); a W1C bit that
hardware sets in the same cycle stays (R7). -/
def plainWrite (s : State) (off : Nat) (h : RegHit) (v : Nat) : State :=
  let fs := h.reg.flds
  let blocked := blockRuns s h && stopDiffers s off h v
  let s := if blocked then stopIgnored s off (blockBay h) else s
  let old := (rget s off).toNat
  let w := mergeFields fs (fun f => decide (f.acc = .rw) && (decide (f.cls = .now) || (decide (f.cls = .stop) && !blocked)))
    old v
  let w := mergeFields fs (fun f => decide (f.acc = .w1c)) w
    (w &&& ((2 ^ 32 - 1 - v % 2 ^ 32) ||| hwSets s off))
  let s := rput s off (BitVec.ofNat 32 w)
  if fs.any fun f => f.cls.waits then putWaiting s off v else s

/-! ### Effects by block -/

/-- Timelines (R39, R41, R50-R59). -/
def tlEffect (s : State) (off : Nat) (h : RegHit) (v : Nat) : State :=
  let k := h.i0
  let key := tlKey s k
  match h.reg.off with
  | 0x8 =>
    let u := tlOf s key
    let st := match u.wrapAt with
      | some (c, d) => if c = s.clock then d else 0
      | none => 0
    setTl s key { u with lap := wrapN 20 ((v : Int) + st) }
  | 0xC =>
    if k < 8 then s
    else
      let s' := plainWrite s off h v
      if fbit s' (Fd.tlCfgRun k) && !fbit s (Fd.tlCfgRun k) then tlStart s' k else s'
  | 0x1C =>
    let s' := plainWrite s off h v
    setTl s' key { tlOf s' key with idxOn := (tlOf s' key).idxOn && encAtGate s' k (tlOf s' key) }
  | 0x30 => setTl s key { tlOf s key with setHi := v % 2 ^ 20 }
  | 0x34 => tlSet0 s k (v % 2 ^ 20)
  | 0x38 => tlSlew s k (v % 2 ^ 20)
  | 0x48 => if k = 0 then { plainWrite s off h v with trimAt := none } else s
  | _ => plainWrite s off h v

/-- Landing units (R70, R73). -/
def landEffect (s : State) (off : Nat) (h : RegHit) (v : Nat) : State :=
  let n := h.i0
  match h.reg.off with
  | 0x0 => landWriteCtrl s n v
  | 0x4 => landWriteCmp0 s n (v % 2 ^ 20)
  | 0x8 => setLand s n { landOf s n with heldCmp := some (v % 2 ^ 20) }
  | 0xC => landWriteInt0 s n (v % 2 ^ 20)
  | 0x10 => setLand s n { landOf s n with heldInt := some (v % 2 ^ 20) }
  | 0x14 => landWriteTick s n (v % 256)
  | _ => plainWrite s off h v

/-- Edge queues (R79-R86). -/
def eqEffect (s : State) (off : Nat) (h : RegHit) (v : Nat) : State :=
  let n := h.i0
  match h.reg.off with
  | 0x0 =>
    let s' := plainWrite s off h v
    if eqRunning s' n && !eqRunning s n then eqStart s' n else s'
  | 0xC => setEq s n { eqOf s n with push1 := v % 2 ^ 20 }
  | 0x10 => eqPush s n (v % 2 ^ 20) .low
  | 0x14 => eqPush s n (v % 2 ^ 20) .high
  | 0x18 => eqPush s n (v % 2 ^ 20) .z
  | 0x1C => if bit v 0 then eqFlush s n else s
  | _ => plainWrite s off h v

/-- Channels (R87, R105). -/
def chanEffect (s : State) (off : Nat) (h : RegHit) (v : Nat) : State :=
  if h.reg.off = 0x10 then fireIf s (bit v 0) h.i0 else plainWrite s off h v

/-- A debugger's write of an engine register (R167-R169): the engine must stand in debug halt, but a Barge's write
bypasses that with a free value. -/
def dbgRegWrite (s : State) (m : Master) (off : Nat) (h : RegHit) (v : Nat) : State :=
  let e := h.eng
  let put := fun (s : State) (w : Word) =>
    let u := engOf s e
    if h.reg.off = 0x118 then setEng s e (if u.halted then { u with dbgPc := w } else { u with pc := w })
    else if h.reg.off = 0x140 then setEng s e (gput u h.r0 w)
    else dbgSWrite s e h.r0 w
  if (engOf s e).halted then put s (BitVec.ofNat 20 v)
  else if engCtlRead s off h = v % 2 ^ 20 then s
  else if bargeMaster m then put (drew s) ((draw s).setWidth 20)
  else stopIgnored s off (bayEng e)

/-- Engine control blocks (R166-R169). -/
def engCtlEffect (s : State) (m : Master) (off : Nat) (h : RegHit) (v : Nat) : State :=
  let e := h.eng
  if h.reg.off = 0x114 then s
  else if 0x110 ≤ h.reg.off then
    if !debugAllowed s e then refuse s m off (bayEng e) 5
    else if h.reg.off = 0x110 then dbgCtlWrite s e v
    else dbgRegWrite s m off h v
  else match h.reg.off with
    | 0x104 =>
      let s' := plainWrite s off h v
      if fbit s' (Fd.engWdogCfgEn h.i0 h.i1) && !fbit s (Fd.engWdogCfgEn h.i0 h.i1) then wdKick s' e else s'
    | 0x108 => if v % 2 ^ 20 = 0xC3A5 then wdKick s e else refuseChip s m off
    | _ => plainWrite s off h v

/-- Faces (R17-R20). -/
def faceEffect (s : State) (m : Master) (b : Bay) (r v : Nat) : State :=
  if r = 0x14 then
    match b with
    | .spanBay => spanDoorbell s (v % 8) false
    | .spanGroup => spanDoorbell s (v % 8) true
    | _ => ringEngines s (bayEngines s.variant b) (v % 8)
  else if r = 0x18 then faultClear s m (bayNum b) v
  else s

/-- Video layers (R184, R185). -/
def vidEffect (s : State) (m : Master) (off : Nat) (h : RegHit) (v : Nat) : State :=
  let r := h.reg.off
  if !s.variant.scaler && (decide (0x30 ≤ r ∧ r ≤ 0x3C) || decide (r = 0x44 ∨ r = 0x48)) then s
  else if r = 0x48 then
    if bargeMaster m && fbit s (Fd.vidCtrlEn h.i0 h.i1) then
      let l := fget s (Fd.vidCtrlEn h.i0 h.i1)
      let c := (draw s).toNat
      fset (coefWrite (fset (drew s) (Fd.vidCtrlEn h.i0 h.i1) 0) h.i0 h.i1 c) (Fd.vidCtrlEn h.i0 h.i1) l
    else coefWrite s h.i0 h.i1 v
  else plainWrite s off h v

/-- Heads (R225, R227, R228, R238, R240). -/
def headEffect (s : State) (m : Master) (off : Nat) (h : RegHit) (v : Nat) : State :=
  let k := h.i0
  match h.reg.off with
  | 0x0 =>
    let out := if blockRuns s h then fget s (Fd.headHctrlOut k) else bits v 2 1
    let bad := bit v 3 && !(decide (k = 4) || (decide (k = 5) && decide (out = 0)))
    let s := if bad then refuseChip (fon s (Fd.headHstatRejected k)) m off else s
    let v := if bad then setBits v 3 3 (fget s (Fd.headHctrlInterlace k)) else v
    headRun (plainWrite s off h v) k (bit v 0)
  | 0x804 => if bit v 0 then dpGo s k else s
  | 0x840 => auxStart s m k v
  | _ => plainWrite s off h v

/-- The audio system: T7 runs with it, and no output sends while it is stopped (R43, R248). -/
def audEffect (s : State) (off : Nat) (h : RegHit) (v : Nat) : State :=
  let s := plainWrite s off h v
  if h.reg.off = 0xC0000 then
    let s := fset s (Fd.tlCfgRun 7) (fget s Fd.audCfgRun)
    if fbit s Fd.audCfgRun then s else { s with aud := { s.aud with out := [] } }
  else s

/-- Voices (R273). -/
def voiceEffect (s : State) (off : Nat) (h : RegHit) (v : Nat) : State :=
  match h.reg.off with
  | 0x8 => startLoWrite s h.i0 (v % 2 ^ 20)
  | 0xC => startHiWrite s h.i0 (v % 2 ^ 20)
  | _ => plainWrite s off h v

/-- Tally units; what only the fully configurable ones hold is ignored elsewhere (R300, R303, R306). -/
def tallyEffect (s : State) (off : Nat) (h : RegHit) (v : Nat) : State :=
  let k := h.i0
  let full := tallyFull s.variant k
  match h.reg.off with
  | 0x0 =>
    let old := (rget s off).toNat
    let v := if full then v
      else setBits (setBits (setBits v 18 18 (bits old 18 18)) 12 11 (bits old 12 11)) 6 0 (bits old 6 0)
    let s' := plainWrite s off h v
    if fget s (Fd.kCfgEn k) ≠ fget s' (Fd.kCfgEn k) then tallyEnable s' k (fbit s' (Fd.kCfgEn k)) else s'
  | 0x10 =>
    let s' := plainWrite s off h v
    if fbit s' (Fd.kAliveEn k) then s' else setTally s' k { tallyOf s' k with ref := none }
  | 0x50 => if full then plainWrite s off h v else s
  | 0x60 => if full then plainWrite s off h v else s
  | 0x70 => if full then plainWrite s off h v else s
  | 0xA0 => plainWrite s off h (if h.r0 = 0 then v / 16 * 16 else v)
  | 0xB4 => plainWrite (noteSet s off (rget s off).toNat 0) off h v
  | _ => plainWrite s off h v

/-- A register that starts and stops a mover: a start that finds it running is one ignored Stop-class write, also where
Stop-class fields differ. -/
def moverCtrl (s : State) (off : Nat) (h : RegHit) (v : Nat) (go abort : State → State) : State :=
  let runs := blockRuns s h
  let s := if runs && (bit v 19 && !stopDiffers s off h v) then stopIgnored s off (blockBay h) else s
  let s := plainWrite s off h v
  let s := if bit v 18 then abort s else s
  if bit v 19 && !runs then go s else s

/-- Barge channels (R332, R334). -/
def bargeEffect (s : State) (off : Nat) (h : RegHit) (v : Nat) : State :=
  let n := h.i0
  if h.reg.off = 0x80 then
    let s := plainWrite s off h v
    let s := if bit v 18 then bargeAbort s n else s
    if bit v 19 then bargeArm s n else s
  else plainWrite s off h v

/-- The interrupt controller (R353, R355). -/
def icEffect (s : State) (off : Nat) (h : RegHit) (v : Nat) : State :=
  match h.reg.off with
  | 0x1C0008 => icSwSet s v
  | 0x1C1000 => icPendClear s h.r0 v
  | _ => plainWrite s off h v

/-- Raise groups (R365-R369): span, enable, arm, and the end of a raise that was pending at the write. -/
def rgEffect (s : State) (off : Nat) (h : RegHit) (v : Nat) : State :=
  let g := h.i0
  if h.reg.off = 0 then
    let pending := decide (rgPend s g ≠ 0)
    let on := fbit s (Fd.rgCtrlEn g)
    let s := plainWrite s off h (setBits v 17 17 (boolNat on))
    let s := if bit v 17 && !on then rgEnable s g else s
    let s := if bit v 19 then
        (if fbit s (Fd.rgCtrlSpan g) && joined s then voteStart s g else rgArm s g)
      else s
    let s := if bit v 18 && pending then rgAbort s g else s
    if !bit v 17 && on then rgDisable s g else s
  else plainWrite s off h v

/-- The Tollhouse (R398, R408, R413, R417). -/
def thEffect (s : State) (m : Master) (off : Nat) (h : RegHit) (v : Nat) : State :=
  match h.reg.off with
  | 0x220004 => alarmClearWrite s m v
  | 0x22000C => policyWrite s m Fd.thPol0Pol (v % 2 ^ 16)
  | 0x220010 => policyWrite s m Fd.thPol1Pol (v % 2 ^ 12)
  | 0x220040 =>
    let s := plainWrite s off h v
    { s with th := { s.th with pushCount := 0 } }
  | 0x22004C => pushWrite s v
  | _ => plainWrite s off h v

/-- Power (R448, R450, R457). -/
def pwrEffect (s : State) (off : Nat) (h : RegHit) (v : Nat) : State :=
  match h.reg.off with
  | 0x223010 => qrstWrite s v
  | 0x223018 => engGoWrite s v
  | _ => plainWrite s off h v

/-- The serial unit and the bank of a port, after the judgement of ownership (R279, R288, R295). -/
def prtEffect (s : State) (off : Nat) (h : RegHit) (v : Nat) : State :=
  let p := h.i0
  match h.reg.off with
  | 0x0 => bankJudge (plainWrite s off h v) p
  | 0x40 =>
    let mode := fget s (Fd.prtSerCfgMode p)
    let s := plainWrite s off h v
    if bits v 19 18 ≠ mode then serModeChange s p (bits v 19 18) else s
  | 0x48 => serTxPush s p v
  | _ => plainWrite s off h v

/-- A post's registers, after the judgement (R281-R294). -/
def postEffect (s : State) (m : Master) (off : Nat) (h : RegHit) (v : Nat) : State :=
  match h.reg.off with
  | 0x0 => pcfgWrite s h.i0 v
  | 0x10 => pegWrite s h.i0 m v
  | _ => plainWrite s off h v

/-- The effect of a write that nothing refuses, on the live register. -/
def regEffect (s : State) (m : Master) (off : Nat) (h : RegHit) (v : Nat) : State :=
  match h.blk.id with
  | .tl => tlEffect s off h v
  | .l => landEffect s off h v
  | .eq => eqEffect s off h v
  | .c => chanEffect s off h v
  | .eng => engCtlEffect s m off h v
  | .vid => vidEffect s m off h v
  | .head => headEffect s m off h v
  | .aud => audEffect s off h v
  | .v => voiceEffect s off h v
  | .post => postEffect s m off h v
  | .prt => prtEffect s off h v
  | .pil => if h.reg.off = 0 then pilConfigured s (plainWrite s off h v) h.i0 else plainWrite s off h v
  | .k => tallyEffect s off h v
  | .d => if h.reg.off = 0 then moverCtrl s off h v (fun s => dmaGo s m h.i0 h.i1) (fun s => dmaAbort s h.i0 h.i1)
      else plainWrite s off h v
  | .bg => bargeEffect s off h v
  | .pl => if h.reg.off = 0 then moverCtrl s off h v plGo plAbort else plainWrite s off h v
  | .ic => icEffect s off h v
  | .icE => if h.reg.off = 8 then icEoi s m h.i0 else s
  | .icV => if h.reg.off = 4 then vecEoi s h.i0 else s
  | .rg => rgEffect s off h v
  | .th => thEffect s m off h v
  | .mb =>
    if h.reg.off = 0 then mbCommand s m h.i0 v
    else if h.reg.off = 0x100 then mbArgWrite s m h.i0 h.r0 (v % 2 ^ 16) else s
  | .sp => if h.reg.off = 0x240000 then spanPortsRefresh (plainWrite s off h v) else plainWrite s off h v
  | .spp => if h.reg.off = 0 then spanPortsRefresh (plainWrite s off h v) else plainWrite s off h v
  | .rc =>
    if h.reg.off = 0 then moverCtrl s off h v rcGo rcAbort
    else plainWrite s off h (if h.r0 = 0 ∧ h.reg.off ≤ 0x1C then v / 8 * 8 else v)
  | .pwr => pwrEffect s off h v
  | _ => match faceBay h with
    | some b => faceEffect s m b h.reg.off v
    | none => plainWrite s off h v

/-! ### Judgements by block -/

/-- A channel register (R98): the flag is judged only where a 1 clears it, and a write of EVENTS is ignored unjudged. -/
def chanWrite (s : State) (m : Master) (off : Nat) (h : RegHit) (v : Nat) : State :=
  let c := h.i0
  if (h.reg.off = 0x14 ∧ !bit v 0) ∨ h.reg.off = 0x18 then s
  else
    match chanJudge s c m (decide (h.reg.off = 0) && decide (boolNat (bit v 16) ≠ fget s (Fd.cOwnSecure c))) with
    | .ok => chanEffect s off h v
    | r => chanRefuse s m off r

/-- Only a Secure-level engine or the Tollhouse writes a post's OWN (R290). -/
def postOwnRefused (s : State) (n : Nat) (m : Master) (v : Nat) : Option State :=
  if masterSecure m then none
  else some (postForeign s n
    (if fbit s (Fd.postOwnSecure n) ∨ boolNat (bit v 16) ≠ fget s (Fd.postOwnSecure n) then .secure else .foreign))

/-- A register of a post or of its edge queue, or of the port's serial unit: ownership, pegging, then the Secure
attribute of the channels it names (R99, R290, R292). -/
def postWrite (s : State) (m : Master) (off : Nat) (h : RegHit) (v n : Nat) (frozen : Bool) : State :=
  let own := if h.blk.id = .post ∧ h.reg.off = 4 then postOwnRefused s n m v else none
  match own with
  | some s' => s'
  | none =>
    match postGuard s n m frozen false with
    | some s' => s'
    | none =>
      if prodSecret s m h v then refuse s m off (blockBay h) 7
      else
        let b := stopBypass s m off h v
        regEffect b.1 m off h b.2

/-- The fields of a post that pegging keeps (R292). -/
def pegFrozen (h : RegHit) : Bool :=
  match h.blk.id with
  | .post => decide (h.reg.off = 0 ∨ h.reg.off = 4 ∨ h.reg.off = 0x18 ∨ h.reg.off = 0x10)
  | .eq => decide (h.reg.off = 0 ∨ h.reg.off = 4)
  | _ => false

/-- A port register: the bank, the per-port writes, the serial unit under post Pp.00 (R286, R288, R290). -/
def prtWrite (s : State) (m : Master) (off : Nat) (h : RegHit) (v : Nat) : State :=
  let p := h.i0
  let r := h.reg.off
  if r = 0xC then portWrite s p m v Fd.postGpioOut 1
  else if r = 0x10 then portWrite s p m v Fd.postGpioOut 0
  else if r = 0x14 then portWrite s p m v Fd.postGpioOe 1
  else if r = 0x18 then portWrite s p m v Fd.postGpioOe 0
  else if 0x40 ≤ r then postWrite s m off h v (32 * p) (serFrozen s p r)
  else
    let b := stopBypass s m off h v
    prtEffect b.1 off h b.2

/-- SRC_CFG (R345). -/
def srcWrite (s : State) (m : Master) (off : Nat) (h : RegHit) (v : Nat) : State :=
  let old := fget s (Fd.srcSrcCfgSecure h.i0)
  if !masterSecure m && (decide (old = 1) || decide (boolNat (bit v 18) ≠ old)) then refuse s m off bayChip 7
  else plainWrite s off h v

/-- A write that authority and fence let through: the judgements of its block, then the staged copy or the live
register. -/
def regWrite (s : State) (m : Master) (off : Nat) (h : RegHit) (v : Nat) : State :=
  match h.blk.id with
  | .c => chanWrite s m off h v
  | .post => postWrite s m off h v h.i0 (pegFrozen h && postPegged s h.i0)
  | .eq => postWrite s m off h v h.i0 (pegFrozen h && postPegged s h.i0)
  | .prt => prtWrite s m off h v
  | .src => srcWrite s m off h v
  | _ =>
    if prodSecret s m h v then refuse s m off (blockBay h) 7
    else match stagedIn s off with
      | some (g, k) =>
        if !s.variant.scaler && decide (h.blk.id = .vid) && decide (0x30 ≤ h.reg.off ∧ h.reg.off ≤ 0x3C) then s
        else stageWrite s g k off v
      | none =>
        if h.blk.id = .eng ∨ h.blk.id = .vid then regEffect s m off h v
        else
          let b := stopBypass s m off h v
          regEffect b.1 m off h b.2

/-! ### The write of a master -/

/-- A write of an entry of the display memories: its code is good from now on (R181, R205, R215). -/
def dispWrite (s : State) (off : Nat) (v : Nat) : State :=
  rput { s with dispBad := NSet.del off s.dispBad, dispOne := NSet.del off s.dispOne } off (BitVec.ofNat 32 v)

/-- A write to a live or staged register that the map lists. -/
def listedWrite (s : State) (m : Master) (off : Nat) (h : RegHit) (v : Nat) : State :=
  if !hitPresent s h then s
  else if writeRefused s m off h then refuseChip s m off
  else match taskForeign m h with
    | some e => raise s (bayEng e) 5
    | none => regWrite s m off h v

/-- A write of control space by a master. The fence of every BAR0 write comes first; then an offset that is not listed,
or belongs to an absent unit, ignores the write, uncounted (R31, R386). -/
def busWrite (s : State) (m : Master) (off : Nat) (v : Nat) : State :=
  if decide (m = .host) && fbit s Fd.sbFenceAll then refuseChip s m off
  else if flagsView off then flagsClear s m off (8 * (off - 0x32000)) 32 v
  else if off = 0x22000 then snapMask s m v
  else if dispMem off then dispWrite s off v
  else
    let live := if mirrorView off then off - 0x3000000 else off
    if mirrorView off && (stagedIn s live).isNone then s
    else match RegMap.lookup live with
      | none => s
      | some h => listedWrite s m live h v

/-- The value last written to a register, as a write of a part of its bits keeps the others: the staged copy of a
member, else the waiting value, else the value in effect. -/
def lastWritten (s : State) (off : Nat) : Nat :=
  if (stagedIn s off).isSome then stagedGet s off else wgetN s off

end Sys2Proof.Machine
end

