-- ==== Sys2Proof/Machine/EngDevice.lean ====
section
/-! DEFINITION. What an engine reaches outside its RAMs: the device register range (R62, R78, R109, R122-R126), chip-space
windows with their responses (R127-R130), and outside accesses to engine RAM (R309). -/

namespace Sys2Proof.Machine

/-- The engine as a master, at the level at which it issued the access (R128). -/
def engMaster (e : Nat) (level : BitVec 2) : Master := .engine (Fin.ofNat 128 e) level

/-- The engine as a master, at its level now. -/
def asEngine (e : Nat) (u : Eng) : Master := engMaster e u.level

/-! ### Self registers (R124) -/

def winBase (u : Eng) (k : Nat) : Nat := Sparse.get 0 k u.win

/-- WINk_LO, with the held WINk_HI. -/
def winLoWrite (u : Eng) (k v : Nat) : Eng :=
  let hi := (Sparse.find k u.winHeld).getD (winBase u k / 2 ^ 38)
  { u with win := Sparse.put 0 k (hi * 2 ^ 38 + v * 2 ^ 18) u.win, winHeld := Sparse.del k u.winHeld }

def winHiWrite (u : Eng) (k v : Nat) : Eng := { u with winHeld := Sparse.ins k (v % 1024) u.winHeld }

def selfRead (e : Nat) (u : Eng) (r : Nat) : Nat :=
  if r = 0 then e % 128
  else if 2 ≤ r ∧ r ≤ 9 then
    (if r % 2 = 0 then winBase u ((r - 2) / 2) / 2 ^ 18 % 2 ^ 20 else winBase u ((r - 2) / 2) / 2 ^ 38)
  else if r = 10 then wpend u
  else 0

def selfWrite (u : Eng) (r v : Nat) : Eng :=
  if 2 ≤ r ∧ r ≤ 9 then (if r % 2 = 0 then winLoWrite u ((r - 2) / 2) v else winHiWrite u ((r - 2) / 2) v) else u

/-- A window base register: at Task level its write takes the Privilege fault. -/
def isWin (a : Nat) : Bool := decide (0x80302 ≤ a ∧ a ≤ 0x80309)

/-! ### Word pairs (R125) -/

/-- The register of a word in the Joiner window or the palette pairs, and whether the word is the odd one. -/
def pairOf (a : Nat) : Option (Nat × Bool) :=
  if 0xA0000 ≤ a ∧ a < 0xAC000 then
    let w := a - 0xA0000
    some (0x80000 + 0x4000 * (w / 0x2000) + 4 * (w % 0x2000 / 2), decide (w % 2 = 1))
  else if 0xB0000 ≤ a ∧ a < 0xB8000 then
    let w := a - 0xB0000
    some (0x2500000 + 4 * (w / 2), decide (w % 2 = 1))
  else none

/-- An odd-word write is held with its register. -/
def oddWrite (s : State) (e off v : Nat) : State := setEng s e { engOf s e with oddHeld := some (off, v % 4096) }

/-- An even-word write, with the held odd word of the same register, or the bits [31:20] last written. -/
def evenWrite (s : State) (e : Nat) (m : Master) (off v : Nat) : State :=
  let u := engOf s e
  let kept := lastWritten s off / 2 ^ 20
  let hi := match u.oddHeld with
    | some (o, x) => if o = off then x else kept
    | none => kept
  busWrite (setEng s e { u with oddHeld := none }) m off (hi * 2 ^ 20 + v % 2 ^ 20)

/-- An even-word read latches bits [31:20] for the next odd-word read of the register. -/
def evenRead (s : State) (e : Nat) (m : Master) (off : Nat) : Nat × State :=
  let r := busRead s m off
  (r.1 % 2 ^ 20, setEng r.2 e { engOf r.2 e with evenLatch := Sparse.ins off (r.1 / 2 ^ 20) (engOf r.2 e).evenLatch })

/-- An odd-word read: the bits latched for the register, once, or the live ones. -/
def oddRead (s : State) (e : Nat) (m : Master) (off : Nat) : Nat × State :=
  let u := engOf s e
  match Sparse.find off u.evenLatch with
  | some x => (x, setEng s e { u with evenLatch := Sparse.del off u.evenLatch })
  | none => ((busRead s m off).1 / 2 ^ 20, s)

/-! ### The display-table port (R126) -/

/-- The table that TP_SEL names; 3 is reserved and acts as one of the three (DESIGN CHOICE, log entry 12). -/
def tpTable (s : State) (u : Eng) : Nat :=
  if u.tpSel = 3 then (Config.openOf 1 s.clock).toNat % 3 else u.tpSel.toNat

/-- The control-space offset of the unit at TP_IDX. -/
def tpOff (s : State) (u : Eng) : Nat :=
  match tpTable s u with
  | 0 => 0x2000000 + 4 * (u.tpIdx.toNat % 524288)
  | 1 => 0x2400000 + 4 * (u.tpIdx.toNat % 65536)
  | _ => 0x2500000 + 4 * (u.tpIdx.toNat % 16384)

def tpWrite (s : State) (e : Nat) (m : Master) (v : Nat) : State :=
  let u := engOf s e
  busWrite (setEng s e { u with tpIdx := u.tpIdx + 1 }) m (tpOff s u) (u.tpHi.toNat * 2 ^ 20 + v % 2 ^ 20)

def tpRead (s : State) (e : Nat) (m : Master) : Nat × State :=
  let u := engOf s e
  let r := busRead s m (tpOff s u)
  (r.1 % 2 ^ 20, setEng r.2 e { engOf r.2 e with tpIdx := u.tpIdx + 1, tpHi := BitVec.ofNat 12 (r.1 / 2 ^ 20) })

/-! ### The device register range (R122) -/

/-- The control-space offset of a landing, task-input, edge-queue or post register in the range. -/
def devOff (e a : Nat) : Option Nat :=
  if 0x80100 ≤ a ∧ a < 0x80140 then
    some (0x40000 + (4 * e + (a - 0x80100) / 16) * 0x40 + 4 * (a % 16))
  else if 0x80200 ≤ a ∧ a < 0x80210 then some (0x34000 + 0x40 * e + 4 * (a - 0x80200))
  else if 0x84000 ≤ a ∧ a < 0x88000 then some (0x60000 + 4 * (a - 0x84000))
  else if 0x88000 ≤ a ∧ a < 0x90000 then some (0x100000 + 4 * (a - 0x88000))
  else none

/-- An address of the range that R122 lists. -/
def devListed (e a : Nat) : Bool :=
  decide (a < 0x80082) || (devOff e a).isSome || decide (0x80240 ≤ a ∧ a ≤ 0x8024C) ||
  decide (0x80300 ≤ a ∧ a ≤ 0x8030A) || (pairOf a).isSome || decide (0xB8000 ≤ a ∧ a ≤ 0xB8003)

/-- The access leaves the engine: its target lies beyond the own registers (R123, R130). -/
def devFar (a : Nat) : Bool := decide (0x84000 ≤ a)

/-- A load from a listed register of the engine's own. -/
def devRead (s : State) (e a : Nat) : Nat × State :=
  let u := engOf s e
  let m := asEngine e u
  if a < 0x80080 then
    let r := busRead s m (0x20000 + 0x100 * ((a - 0x80000) / 4) + (if a % 4 = 3 then 0x3C else 4 * (a % 4)))
    (r.1 % 2 ^ 20, r.2)
  else if a < 0x80082 then (0, s)
  else if 0x80240 ≤ a ∧ a ≤ 0x8024C then (flagsRead s (20 * (a - 0x80240)) 20, s)
  else if 0x80300 ≤ a ∧ a ≤ 0x8030A then (selfRead e u (a - 0x80300), s)
  else match devOff e a with
    | some off =>
      let r := busRead s m off
      (r.1 % 2 ^ 20, r.2)
    | none => (0, s)

/-- What a read of control space answers: poison from an uncorrectable entry of the display memories (R181, R215). -/
def ctrlReply (s : State) (off : Nat) : Reply := if dispMem off && NSet.has off s.dispBad then .poison else .ok

/-- A load from a listed register beyond the engine's own, where it reaches its target. -/
def farRead (s : State) (e : Nat) (m : Master) (a : Nat) : Nat × Reply × State :=
  match devOff e a with
  | some off =>
    let r := busRead s m off
    (r.1 % 2 ^ 20, .ok, r.2)
  | none => match pairOf a with
    | some (off, odd) =>
      let r := if odd then oddRead s e m off else evenRead s e m off
      (r.1, ctrlReply s off, r.2)
    | none =>
      let u := engOf s e
      match a with
      | 0xB8000 => (u.tpSel.toNat, .ok, s)
      | 0xB8001 => (u.tpIdx.toNat, .ok, s)
      | 0xB8002 => (u.tpHi.toNat, .ok, s)
      | _ =>
        let r := tpRead s e m
        (r.1, ctrlReply s (tpOff s u), r.2)

/-- A write of an own landing unit or task input, which no level restricts; other registers as any master. -/
def ownWrite (s : State) (m : Master) (a off v : Nat) : State :=
  if a < 0x80200 then
    match RegMap.lookup off with
    | some h => if hitPresent s h then regWrite s m off h v else s
    | none => s
  else busWrite s m off v

/-- A store to a listed register of the engine's own. -/
def devWrite (s : State) (e a v : Nat) : State :=
  let u := engOf s e
  let m := asEngine e u
  if a < 0x80080 then s
  else if a = 0x80080 then snapMask s m v
  else if a = 0x80081 then snapMask s m (v % 4096 * 2 ^ 20)
  else if 0x80240 ≤ a ∧ a ≤ 0x8024C then
    let c := 20 * (a - 0x80240)
    flagsClear s m (0x32000 + 4 * (c / 32)) c 20 v
  else if 0x80300 ≤ a ∧ a ≤ 0x8030A then setEng s e (selfWrite u (a - 0x80300) v)
  else match devOff e a with
    | some off => ownWrite s m a off v
    | none => s

/-- A store to a listed register beyond the engine's own, where it reaches its target. -/
def farWrite (s : State) (e : Nat) (m : Master) (a v : Nat) : State :=
  let u := engOf s e
  match devOff e a with
  | some off => busWrite s m off v
  | none => match pairOf a with
    | some (off, odd) => if odd then oddWrite s e off v else evenWrite s e m off v
    | none => match a with
      | 0xB8000 => setEng s e { u with tpSel := BitVec.ofNat 2 v }
      | 0xB8001 => setEng s e { u with tpIdx := BitVec.ofNat 20 v }
      | 0xB8002 => setEng s e { u with tpHi := BitVec.ofNat 12 v }
      | _ => tpWrite s e m v

/-! ### Windows (R127-R130) -/

/-- The chip address of word offset `o` in window `k`. -/
def winAddr (u : Eng) (k o : Nat) : Addr := BitVec.ofNat 48 (winBase u k + 4 * o)

/-- EADDR of an access that left the engine: bits [21:2] of its chip address, or the word address of its device register
(R163; the latter DEDUCED, log entry 62). -/
def FabTgt.eaddr : FabTgt → Word
  | .chip a => BitVec.ofNat 20 (a.toNat / 4)
  | .dev a => a

/-- A target, within which an engine's accesses keep their order (R130): a memory, the posts with their edge queues, the
Joiners and heads with the display memories, or another unit of control space (DEDUCED, log entry 62). -/
inductive FabTarget where
  | dram
  | localRam (e : Nat)
  | quadRam (q : Nat)
  | posts
  | joiners
  | unit (b : Blk) (idx : List Nat)
  | nowhere
deriving DecidableEq, Repr

def ctrlTarget (off : Nat) : FabTarget :=
  if dispMem off then .joiners
  else match RegMap.lookup (if mirrorView off then off - 0x3000000 else off) with
    | none => .nowhere
    | some h => match h.blk.id with
      | .post => .posts
      | .eq => .posts
      | .join => .joiners
      | .vid => .joiners
      | .til => .joiners
      | .spr => .joiners
      | .plane => .joiners
      | .head => .joiners
      | .dpa => .joiners
      | b => .unit b h.idx

def FabTgt.target (s : State) : FabTgt → FabTarget
  | .chip a => match chipLoc s a.toNat with
    | .dram _ => .dram
    | .ctrl off => ctrlTarget off
    | .localRam e _ => .localRam e
    | .quadRam q _ => .quadRam q
    | .absent => .nowhere
    | .unmapped => .nowhere
  | .dev a => if 0xA0000 ≤ a.toNat then .joiners else .posts

/-- The target of an engine's access to its RAMs or to a register of its own; the self registers have none. -/
def nearTarget (e : Nat) (a : Word) : FabTarget :=
  match engLoc e a with
  | .ram _ _ => if a.toNat < 0x6000 then .localRam e else .quadRam (e / 4)
  | .device d =>
    if d < 0x80080 then ctrlTarget (0x20000 + 0x100 * ((d - 0x80000) / 4))
    else match devOff e d with
      | some off => ctrlTarget off
      | none => .nowhere
  | _ => .nowhere

def FabOp.tgt : FabOp → FabTgt
  | .load _ t _ _ _ => t
  | .store t _ _ => t

/-- An access that left the engine before has not reached this target yet, so one to it waits (R123, R130). -/
def olderAt (s : State) (ops : List FabOp) (t : FabTarget) : Bool :=
  decide (t ≠ .nowhere) && ops.any fun f => decide (f.tgt.target s = t)

/-- A 32-bit read of chip space by a master: value, reply, state. -/
def chipRead (s : State) (m : Master) (a : Nat) : Nat × Reply × State :=
  match chipLoc s a with
  | .dram b =>
    let r := dramRead s b 4
    (leNat r.1, if r.2.1 then .poison else .ok, r.2.2)
  | .ctrl off =>
    let r := busRead s m off
    (r.1, ctrlReply s off, r.2)
  | .unmapped => (0, .error, chipUnmapped s)
  | loc => ramOutRead s m loc

/-- A 32-bit write of chip space by a master. -/
def chipWrite (s : State) (m : Master) (a v : Nat) : Reply × State :=
  match chipLoc s a with
  | .dram b =>
    let r := dramWrite s b (leBytes 4 v) false
    (if r.1 then .ok else .error, r.2)
  | .ctrl off => (.ok, busWrite s m off v)
  | .unmapped => (.error, chipUnmapped s)
  | loc => ramOutWrite s m v loc

/-- A range of chip space as a master reads it, beat by beat in DRAM and container by container elsewhere: its bytes with
their marks, whether any of it was poison or an error, and the state after. -/
structure RowData where
  st : State
  bytes : List (Byte × Bool)
  poison : Bool
  err : Bool

/-- The piece of a range within one beat. -/
def beatRead (m : Master) (r : RowData) (a n : Nat) : RowData :=
  if a < r.st.mem.top then
    let x := dramRead r.st a n
    { r with st := x.2.2, bytes := r.bytes ++ x.1.map fun b => (b, x.2.1), poison := r.poison || x.2.1 }
  else
    (List.range ((a + n - 1) / 4 - a / 4 + 1)).foldl (fun (r : RowData) i =>
      let c := 4 * (a / 4 + i)
      let x := chipRead r.st m c
      let lo := max a c
      let bs := ((leBytes 4 x.1).drop (lo - c)).take (min (a + n) (c + 4) - lo)
      { st := x.2.2, bytes := r.bytes ++ bs.map fun b => (b, decide (x.2.1 ≠ .ok)),
        poison := r.poison || decide (x.2.1 = .poison), err := r.err || decide (x.2.1 = .error) }) r

def rowRead (s : State) (m : Master) (a n : Nat) : RowData :=
  (beatsOf a n).foldl (fun r b => beatRead m r (a + b.1) b.2) { st := s, bytes := [], poison := false, err := false }

/-- The oldest operation on the fabric of a kind, with those before and after it. -/
def fabFirst (isLoad : Bool) : List FabOp → Option (List FabOp × FabOp × List FabOp)
  | [] => none
  | f :: t =>
    if f.isLoad = isLoad then some ([], f, t)
    else (fabFirst isLoad t).map fun p => (f :: p.1, p.2)

/-- What a transfer on the fabric met (R318): a correction, or poison that it creates. -/
def fabricMark (s : State) : Fabric → State
  | .clean => s
  | .corrected => raise (fcount s Fd.memFabCeCount 1) bayChip 3
  | .poison => raise (fcount s Fd.memFabUeCount 1) bayChip 4

/-- A load reaches its target: value, reply, state. -/
def tgtRead (s : State) (e : Nat) (level : BitVec 2) : FabTgt → Nat × Reply × State
  | .chip a => chipRead s (engMaster e level) (a.toNat / 4 * 4)
  | .dev a => farRead s e (engMaster e level) a.toNat

/-- A store whose data became poison on the fabric: DRAM stores the poison pattern (R316); what another target does is not
stated, so it stores nothing and answers an error (DESIGN CHOICE, log entry 62). -/
def poisonWrite (s : State) (a v : Nat) : Reply × State :=
  match chipLoc s a with
  | .dram b => (.ok, (dramWrite s b (leBytes 4 v) true).2)
  | .unmapped => (.error, chipUnmapped s)
  | _ => (.error, s)

/-- A posted store reaches the tally units that watch it (R298) and its target, with good or with poisoned data: reply,
state. -/
def tgtWrite (s : State) (e : Nat) (level : BitVec 2) (v : Word) (poison : Bool) : FabTgt → Reply × State
  | .chip a =>
    let at' := a.toNat / 4 * 4
    let s := tallyStore s e at' (leBytes 4 v.toNat)
    if poison then poisonWrite s at' v.toNat else chipWrite s (engMaster e level) at' v.toNat
  | .dev a => if poison then (.error, s) else (.ok, farWrite s e (engMaster e level) a.toNat v.toNat)

/-- The oldest load that left the engine is answered (R129, R136): its value, or a delayed fault. It waits for older
stores to its target. -/
def loadAnswer (s : State) (e : Nat) (fabric : Fabric) : State :=
  let u := engOf s e
  match fabFirst true u.fab with
  | some (before, .load rd t level age killed, after) =>
    if olderAt s before (t.target s) then s
    else
      let r := tgtRead (fabricMark s fabric) e level t
      let u := { engOf r.2.2 e with fab := before ++ after }
      let v : Word := BitVec.ofNat 20 r.1
      let u := match (if fabric = .poison ∧ r.2.1 = .ok then .poison else r.2.1) with
        | .ok =>
          if age = 0 then { u with pendLd := u.pendLd ++ [(rd, v)] }
          else if killed then u else gput u rd.toNat v
        | .error => { u with delayed := u.delayed ++ [(decide (age = 0), 4, t.eaddr)] }
        | .poison => { u with delayed := u.delayed ++ [(decide (age = 0), 5, t.eaddr)] }
      engBoundary (setEng r.2.2 e u) e
  | _ => s

/-- The oldest posted store reaches its target and is acknowledged, or fails (R130). It waits for older loads there. -/
def storeAnswer (s : State) (e : Nat) (fabric : Fabric) : State :=
  let u := engOf s e
  match fabFirst false u.fab with
  | some (before, .store t v level, after) =>
    if olderAt s before (t.target s) then s
    else
      let r := tgtWrite (fabricMark s fabric) e level v (decide (fabric = .poison)) t
      let u := { engOf r.2 e with fab := before ++ after }
      let u := match r.1 with
        | .ok => u
        | _ => { u with impr := u.impr ++ [t.eaddr] }
      engBoundary (setEng r.2 e u) e
  | _ => s

/-- An outside access to a container of an engine RAM (R118, R309): the answer goes to its master. -/
def outsideAnswer (s : State) (m : Master) (a : Addr) (wr : Option Dword) : State :=
  let loc := chipLoc s a.toNat
  let inRam := match loc with
    | .localRam _ _ => true
    | .quadRam _ _ => true
    | .absent => true
    | _ => false
  let code : Reply → Nat
    | .ok => 0
    | .error => 1
    | .poison => 2
  if !inRam || decide (a.toNat % 4 ≠ 0) then s
  else match wr with
    | some v =>
      let r := ramOutWrite s m v.toNat loc
      setResp r.2 (code r.1) []
    | none =>
      let r := ramOutRead s m loc
      setResp r.2.2 (code r.2.1) [r.1]

end Sys2Proof.Machine
end

