-- ==== Sys2Proof/Machine/Idle.lean ====
section
/-! DEFINITION. The heads that the idle program drives (19_startup.md R454, R455): what it reads of a sink, the mode it
chooses, and its writes. -/

namespace Sys2Proof.Machine

/-- A write of the idle program: one per cycle, each with its events (R456). -/
def idleWrite (s : State) (p : Nat × Nat) : State := nextCycle (settle (busWrite s .tollhouse p.1 p.2))

/-- The program's readings of the sink of head `h` are no longer awaited. -/
def idleForget (s : State) (h : Nat) : State := { s with th := { s.th with probes := Sparse.del h s.th.probes } }

/-! ### The sink (R240, R454) -/

/-- The best rate and lane count that a sink allows, by the number of its reading: open (log entry 63). -/
def sinkRate (n : Nat) : Nat := bits (Config.free n).toNat 7 0 % 6
def sinkLanes (n : Nat) : Nat := bits (Config.free n).toNat 15 8 % 3

/-- The writes of a mode: geometry, polarity and pixel clock (R247). -/
def modeWrites (h : Nat) (ha ht hs hw va vt vs vw pol khz : Nat) : List (Nat × Nat) :=
  [(Adr.headHactive h, ha), (Adr.headHtotal h, ht), (Adr.headHsync h, hw * 2 ^ 16 + hs), (Adr.headVactive h, va),
   (Adr.headVtotal h, vt), (Adr.headVsync h, vw * 2 ^ 16 + vs), (Adr.headPol h, pol), (Adr.headPclk h, khz)]

/-- The first detailed timing of a sink, by the number of its reading: open (log entry 63). -/
def sinkMode (h n : Nat) : List (Nat × Nat) :=
  let a := (Config.free (n + 1)).toNat
  let b := (Config.free (n + 2)).toNat
  let c := (Config.free (n + 3)).toNat
  modeWrites h (bits a 13 0) (bits a 28 14) (bits a 42 29) (bits a 56 43) (bits b 12 0) (bits b 26 13) (bits b 39 27)
    (bits b 52 40) (bits a 59 57) (bits c 20 0)

/-- 1920 × 1080 at 148.5 MHz, with the blanking of the example of 09_heads.md, and 640 × 480 at 25.175 MHz (PRESUMED
blanking, log entry 63). -/
def mode1080 (h : Nat) : List (Nat × Nat) := modeWrites h 1920 2200 2008 44 1080 1125 1084 5 7 148500
def mode480 (h : Nat) : List (Nat × Nat) := modeWrites h 640 800 656 96 480 525 490 2 4 25175

/-- The head as the writes of a mode would leave it. -/
def modeTried (s : State) (ws : List (Nat × Nat)) : State :=
  ws.foldl (fun s p => rput { s with waiting := Sparse.del p.1 s.waiting } p.1 (BitVec.ofNat 32 p.2)) s

/-- The mode breaks no rule of R223, and fits R237 at 8 bits per component. -/
def modeSuits (s : State) (h rate lanes : Nat) (ws : List (Nat × Nat)) : Bool :=
  let t := modeTried s ws
  modeOk t h && dpCarries rate lanes (fget t (Fd.headPclkKhz h)) 8

/-- The mode that the program takes (R454). -/
def idleMode (s : State) (h n : Nat) : List (Nat × Nat) :=
  ([sinkMode h n, mode1080 h].find? (modeSuits s h (sinkRate n) (sinkLanes n))).getD (mode480 h)

/-! ### The banner's layer (R455) -/

/-- The scale of the banner on a mode. -/
def bannerScale (s : State) (ha va : Nat) : Nat :=
  if s.variant.scaler then max 1 (min 8 (min (ha / 640) (va / 480))) else 1

/-- The settings of VID0 on a managed head; with MEM_TOP 0 none, so that the layer stays disabled. -/
def bannerWrites (s : State) (h ha va : Nat) : List (Nat × Nat) :=
  if s.mem.top = 0 then []
  else
    let k := bannerScale s ha va
    let base := s.mem.top - 0x100000
    let at' := fun (size n : Nat) => wrapN 15 (((size : Int) - ((n * k : Nat) : Int)).tdiv 2)
    [(Adr.vidBaseLo h 0, base % 2 ^ 32), (Adr.vidBaseHi h 0, base / 2 ^ 32), (Adr.vidPitch h 0, 1280),
     (Adr.vidSrcX h 0, 0), (Adr.vidSrcY h 0, 0), (Adr.vidSrcW h 0, 640), (Adr.vidSrcH h 0, 480),
     (Adr.vidDstX h 0, at' ha 640), (Adr.vidDstY h 0, at' va 480), (Adr.vidDstW h 0, 640 * k),
     (Adr.vidDstH h 0, 480 * k), (Adr.vidStepX h 0, 0x10000 / k), (Adr.vidStepY h 0, 0x10000 / k),
     (Adr.vidCtrl h 0, 0x17), (Adr.joinJcfg h, setBits (lastWritten s (Adr.joinJcfg h)) 8 8 1)]

/-- All that the program writes once it has trained the link: the mode, the banner, and the run bit (R454). -/
def idleWrites (s : State) (h n : Nat) : List (Nat × Nat) :=
  let ws := idleMode s h n
  let t := modeTried s ws
  ws ++ bannerWrites s h (fget t (Fd.headHactiveHactive h)) (fget t (Fd.headVactiveVactive h)) ++
    [(Adr.headHctrl h, setBits (lastWritten s (Adr.headHctrl h)) 0 0 1)]

/-! ### The program's steps (R454) -/

/-- A transaction of the program leaves what the sink answered, which is open, unless another master's is in progress. -/
def idleAux (s : State) (h n : Nat) : State :=
  if fbit s (Fd.headAuxStatBusy h) then s
  else
    let w := fun (k : Nat) => (Config.free (n + k)).toNat
    let s := rput s (Adr.headAuxCmd h) (BitVec.ofNat 32 (w 4 &&& 0xFFFFFF0F))
    let s := (List.range 4).foldl (fun s j => rput s (Adr.headAuxData h j) (BitVec.ofNat 32 (w (5 + j)))) s
    auxEnd s h (bits (w 9) 2 0) (bits (w 9) 4 0)

/-- The program takes up a managed head with a sink: it reads the sink and trains the link. -/
def idleProbe (s : State) (h : Nat) : State :=
  if !dpHead s h || !idleManages s h || !fbit s (Fd.headDpStatHpd h) then s
  else
    let n := s.freeCtr
    let t := idleAux { s with freeCtr := n + 10, th := { s.th with probes := Sparse.ins h n s.th.probes } } h n
    let ctrl := setBits (lastWritten t (Adr.headDpCtrl h)) 8 8 1
    [(Adr.headDpCtrl h, setBits (setBits ctrl 7 4 (sinkRate n)) 1 0 (sinkLanes n)), (Adr.headDpTrain h, 1)].foldl
      idleWrite t

/-- Training has ended, at whatever the link reached: the program writes the mode and runs the head. -/
def idleTrained (s : State) (h : Nat) : State :=
  match Sparse.find h s.th.probes with
  | none => s
  | some n =>
    if fbit s (Fd.headDpStatTraining h) then s
    else if idleManages s h then (idleWrites s h n).foldl idleWrite (idleForget s h)
    else idleForget s h

end Sys2Proof.Machine
end

