-- ==== Sys2Proof/Machine/Boot.lean ====
section
/-! DEFINITION. Bringing an owner image up (17_tollhouse.md R393-R400, 19_startup.md R450-R453), and the start of a
mailbox command (R405, R406). -/

namespace Sys2Proof.Machine

/-! ### Loading (R395, R451) -/

/-- The bytes of a section, taken from the payload. -/
def sectionData (img : Nat → Byte) (d : Section) : List Byte := imgBytes img (256 + d.at') d.size

/-- A piece of a kind 0 section within one DWORD of control space: a whole DWORD is written, a part keeps the other
bytes of the value last written. -/
def ctrlMerge (s : State) (off : Nat) (bs : List Byte) : State :=
  let o := off / 4 * 4
  let old := leBytes 4 (lastWritten s o)
  busWrite s .tollhouse o (leNat (old.take (off % 4) ++ bs ++ old.drop (off % 4 + bs.length)))

/-- The pieces of a byte range between multiples of 4: offsets and lengths. -/
def dwordPieces (a n : Nat) : List (Nat × Nat) :=
  (List.range (if n = 0 then 0 else (a + n - 1) / 4 - a / 4 + 1)).map fun i =>
    let lo := max a (4 * (a / 4 + i))
    (lo - a, min (a + n) (4 * (a / 4 + i) + 4) - lo)

/-- A kind 0 section is copied to its destination. -/
def copySection (s : State) (dest : Nat) (bs : List Byte) : State :=
  match chipLoc s dest with
  | .ctrl off =>
    (dwordPieces off bs.length).foldl (fun s p => ctrlMerge s (off + p.1) ((bs.drop p.1).take p.2)) s
  | _ => (sideWrite s dest bs).2

/-- The engines that kind 2 sections start, with their start PCs. -/
def startEntries (img : Nat → Byte) : List (Nat × Nat) :=
  ((imgSections img).filter fun d => decide (d.kind = 2)).flatMap fun d =>
    let bs := sectionData img d
    (List.range (d.size / 4)).map fun k =>
      let w := leNat ((bs.drop (4 * k)).take 4)
      (w % 128, w / 256 % 2 ^ 20)

/-- The Secure mask of the kind 1 sections. -/
def grantMask (img : Nat → Byte) : Nat :=
  ((imgSections img).filter fun d => decide (d.kind = 1)).foldl
    (fun a d => a ||| leNat ((sectionData img d).take 16)) 0

/-- An accepted image comes up (R397, R451). -/
def bringUp (s : State) (img : Nat → Byte) : State :=
  let s := idleStop s
  let s := mrExtend s 1 (keyBytes 64 (Config.sha512 (imgBytes img 0 128)).toNat)
  let s := ((imgSections img).filter fun d => decide (d.kind = 0)).foldl
    (fun s d => copySection s d.dest (sectionData img d)) s
  let g := grantMask img
  let s := (List.range 8).foldl (fun s j => fset s (Fd.thGrantG j) (g / 2 ^ (16 * j))) s
  let s := (startEntries img).foldl (fun s p =>
    if engPresent s p.1 then fset (fon s (Fd.pwrEngStartRun p.1)) (Fd.pwrEngStartPc p.1) p.2 else s) s
  let s := fon (engGoWrite s 1) Fd.thStatBootOk
  let version := imgNat img 16 4
  let s := { s with th := { s.th with running := some (imgNat img 12 1, version) } }
  thLog s 0x02 (imgNat img 11 1) version false

/-- A refused image: the log, and boot_ok 0 (R397). -/
def bootRefused (s : State) (img : Nat → Byte) (reason : Nat) : State :=
  thLog (fset s Fd.thStatBootOk 0) 0x03 (imgNat img 11 1) reason false

/-- MR1-MR7 are zero at each boot (R397). -/
def bootMeasure (s : State) : State := ((List.range 7).map (· + 1)).foldl (fun s m => mrPut s m 0) s

/-- The image in DRAM at an address, and its room. -/
def dramImage (s : State) (a : Nat) : Nat → Byte := fun i => memByte s (a + i)
def dramRoom (s : State) (a : Nat) : Nat := s.mem.top - a

/-- NOR copy A, then copy B: each refusal is logged (R394, R396). The answer is why the last was refused, if it was. -/
def bootNor (s : State) : Option Nat × State :=
  let a := norImage 0x400000
  let b := norImage 0x4800000
  match imgRefused s a 1 (norRoom 0x400000 0x4400000) with
  | none => (none, bringUp s a)
  | some r =>
    let s := bootRefused s a r
    match imgRefused s b 1 (norRoom 0x4800000 Config.norSize) with
    | none => (none, bringUp s b)
    | some r => (some r, bootRefused s b r)

/-- An image that was pushed to DRAM at an address (R398). -/
def bootPushed (s : State) (a : Nat) : Option Nat × State :=
  let img := dramImage s a
  match imgRefused s img 1 (dramRoom s a) with
  | none => (none, bringUp s img)
  | some r => (some r, bootRefused s img r)

/-- The idle program runs where no image does, and takes up the heads with a sink (R453, R454). -/
def idleOn (s : State) : State :=
  if fbit s Fd.pwrStatIdle then s else (List.range 4).foldl idleProbe (idleStart s)

/-- The boot of a main power cycle, once the main domain has trained (R397, R453). -/
def bootMain (s : State) : State :=
  if !s.th.bootDue || !thUp s || !mainUp s || !trainingOver s then s
  else
    let s := bootMeasure { s with th := { s.th with bootDue := false } }
    let s := fset s Fd.thStatBootOk 0
    if fget s Fd.thStatBootSel = 0 ∧ (life s = 1 ∨ life s = 2) then
      let r := bootNor s
      if r.1.isNone then r.2 else idleOn r.2
    else idleOn s

/-- BOOT: the image of the source that BOOT_SEL selects, a pushed one at the address of argument bytes 0-5 (R393,
R397). The result of a refusal that is not the signature's is open (DESIGN CHOICE, log entry 27). -/
def bootCommand (s : State) (b : Nat) : Nat × State :=
  let a := argNat s b 0 6
  let s := bootMeasure { s with th := { s.th with bootDue := false } }
  let r := match fget s Fd.thStatBootSel with
    | 0 => bootNor s
    | 3 => (some 0, fset s Fd.thStatBootOk 0)
    | _ => bootPushed s a
  match r.1 with
  | none => (0, r.2)
  | some why =>
    let s := idleOn r.2
    if why = 3 then (1, s) else ((draw s).toNat % 15 + 1, drew s)

/-! ### Mailbox commands start (R405, R406) -/

/-- The result and the effect of a command: where several errors stand against it, which one it gives is open. -/
def cmdOutcome (s : State) (b code : Nat) : Nat × State :=
  match cmdErrors s b code with
  | [] => if code = 1 then bootCommand s b else cmdEffect s b code
  | [e] => (e, s)
  | es => (es.getD ((draw s).toNat % es.length) 0, drew s)

/-- The command is a signed one in this state. -/
def cmdIsSigned (s : State) (code : Nat) : Bool :=
  match cmdRow s code with
  | none => false
  | some r => decide (life s ∈ r.signedIn)

/-- A command starts: its effect, the nonce, and the result that is due. -/
def cmdStart (s : State) (b code : Nat) : State :=
  let signed := cmdIsSigned s code
  let r := cmdOutcome s b code
  cmdResult (cmdNonce r.2 b code signed) b code r.1

/-- What the Tollhouse does at the end of a step: a boot that is due, and the commands that were written. -/
def thRun (s : State) : State :=
  let s := bootMain s
  let l := s.th.starts
  l.foldl (fun s p => cmdStart s p.1 p.2.2) { s with th := { s.th with starts := [] } }

end Sys2Proof.Machine
end

