-- ==== Sys2Proof/Machine/BargeRun.lean ====
section
/-! DEFINITION. The transfers of the Barge (13_memory_movers.md R329-R333). -/

namespace Sys2Proof.Machine

/-- A side's piece of a transfer: where it begins in the range, its length, its chip address. -/
structure BargeUnit where
  at' : Nat
  len : Nat
  addr : Nat
deriving DecidableEq, Repr

/-- The pieces of a chip side: 64-bit beats in DRAM, 32-bit containers elsewhere (R329, R330). -/
def bargeUnits (s : State) (a n : Nat) : List BargeUnit :=
  (beatsOf a n).flatMap fun p =>
    let x := a + p.1
    let last := x + p.2
    let cut := x / 8 * 8 + 4
    if x < s.mem.top ∨ last ≤ cut ∨ cut ≤ x then [{ at' := p.1, len := p.2, addr := x }]
    else [{ at' := p.1, len := cut - x, addr := x }, { at' := p.1 + (cut - x), len := last - cut, addr := cut }]

/-- A transfer as it runs: the source pieces not read yet, the bytes read (none: a byte of a container that is not
read), the bytes written so far, and what stops it. -/
structure BargeRun where
  st : State
  src : List BargeUnit
  buf : List (Option Byte)
  written : Nat
  out : List Byte
  skipped : Bool
  poison : Bool
  err : Bool

def BargeRun.stopped (r : BargeRun) : Bool := r.poison || r.err

/-- One piece of a chip-side source is read. -/
def bargeReadUnit (r : BargeRun) (n : Nat) (u : BargeUnit) : BargeRun :=
  let s := r.st
  match chipLoc s u.addr with
  | .dram _ =>
    let x := dramReadGran s (u.addr / 8)
    if x.1 then { r with st := x.2, poison := true }
    else { r with st := x.2, buf := r.buf ++ (memBytes x.2 u.addr u.len).map some }
  | .unmapped => { r with st := chipUnmapped s, err := true }
  | loc =>
    if u.len < 4 then { r with skipped := true, buf := r.buf ++ List.replicate u.len none }
    else match loc with
      | .ctrl off =>
        let x := if hn : n < 16 then busRead s (.barge ⟨n, hn⟩) off else (0, s)
        if ctrlReply s off = .poison then { r with st := x.2, poison := true }
        else { r with st := x.2, buf := r.buf ++ (leBytes 4 x.1).map some }
      | loc =>
        let x := if hn : n < 16 then ramOutRead s (.barge ⟨n, hn⟩) loc else (0, .ok, s)
        match x.2.1 with
        | .ok => { r with st := x.2.2, buf := r.buf ++ (leBytes 4 x.1).map some }
        | .poison => { r with st := x.2.2, poison := true }
        | .error => { r with st := x.2.2, err := true }

/-- The source is read until `need` bytes are there. -/
def bargeFill (n need : Nat) : List BargeUnit → BargeRun → BargeRun
  | [], r => { r with src := [] }
  | u :: t, r =>
    if r.stopped || decide (need ≤ r.buf.length) then { r with src := u :: t }
    else bargeFill n need t (bargeReadUnit r n u)

/-- One piece of a chip-side destination is written, with the bytes that the source gave. Writes of control space land one
per cycle, each with its events. -/
def bargeWriteUnit (r : BargeRun) (n : Nat) (u : BargeUnit) : BargeRun :=
  let s := r.st
  let bs := (r.buf.drop u.at').take u.len
  let good := bs.filterMap id
  let wrote := fun (s : State) => { r with st := s, written := r.written + good.length, out := r.out ++ good }
  match chipLoc s u.addr with
  | .dram _ =>
    if good.isEmpty then r
    else
      let cells := (List.range u.len).filterMap fun i => ((bs.getD i none).map fun b => (u.addr + i, b))
      let x := dramWriteSet s (u.addr / 8) cells
      if x.1 then wrote x.2 else { r with st := x.2, err := true }
  | .unmapped => { r with st := chipUnmapped s, err := true }
  | loc =>
    if good.length < 4 then { r with skipped := true }
    else match loc with
      | .ctrl off =>
        wrote (nextCycle (settle (if hn : n < 16 then busWrite s (.barge ⟨n, hn⟩) off (leNat good) else s)))
      | loc =>
        let x := if hn : n < 16 then ramOutWrite s (.barge ⟨n, hn⟩) (leNat good) loc else (.ok, s)
        match x.1 with
        | .ok => wrote x.2
        | _ => { r with st := x.2, err := true }

/-- The active set. -/
def bargeSrc (s : State) (n : Nat) : Nat := split16 s (Adr.bgASrc n) 4
def bargeDst (s : State) (n : Nat) : Nat := split16 s (Adr.bgADst n) 4
def bargeLen (s : State) (n : Nat) : Nat := split16 s (Adr.bgALen n) 2
def bargeSrcHost (s : State) (n : Nat) : Bool := bit (fget s (Fd.bgAOptAs n)) 4
def bargeDstHost (s : State) (n : Nat) : Bool := bit (fget s (Fd.bgAOptAs n)) 3

/-- Bits [63:48] of a chip address are ignored (R331). -/
def chipSide (a : Nat) : Nat := a % 2 ^ 48

/-- The host side answers: nothing at all while the link is down (R331). -/
def hostUp (s : State) : Bool := fbit s Fd.hlStatLinkUp && s.host.busMaster

/-- The transfer moves its data, up to `budget` write beats: destination pieces in ascending order, each after the
source bytes it holds. The host's bytes are those it has sent, and then `reply`; a host write while the link is down is an
error, and is not made (R331, R333). -/
def bargeMove (s : State) (n : Nat) (host : List Byte) (reply : Reply) (budget : Nat) : BargeRun :=
  let len := bargeLen s n
  let fromHost := bargeSrcHost s n
  let r : BargeRun :=
    { st := s, src := if fromHost then [] else bargeUnits s (chipSide (bargeSrc s n)) len
      buf := if fromHost then (host.take len).map some else [], written := 0, out := [], skipped := false
      poison := false, err := false }
  let units := if bargeDstHost s n then (beatsOf (bargeDst s n) len).map fun p => { at' := p.1, len := p.2, addr := 0 }
    else bargeUnits s (chipSide (bargeDst s n)) len
  (units.take budget).foldl (fun r (u : BargeUnit) =>
    if r.stopped then r
    else
      let r := bargeFill n (u.at' + u.len) r.src r
      if r.stopped then r
      else if r.buf.length < u.at' + u.len then
        { r with poison := decide (reply = .poison), err := decide (reply ≠ .poison) }
      else if bargeDstHost s n then
        if !hostUp s then { r with err := true } else
        let good := ((r.buf.drop u.at').take u.len).filterMap id
        { r with written := r.written + good.length, out := r.out ++ good }
      else bargeWriteUnit r n u) r

/-- DONE, STAT.partial and the tally stream (R298). -/
def bargeCount (r : BargeRun) (n : Nat) : State :=
  let s := tallyPush r.st 1 n 0 r.out
  let s := (List.range 2).foldl (fun s j => fset s (Fd.bgDoneN n j) (r.written / 2 ^ (16 * j))) s
  if r.skipped then fon s (Fd.bgStatPartial n) else s

/-- A transfer is over. -/
def bargeOver (r : BargeRun) (n : Nat) : State :=
  tallyEnd (ageEnd (fset (bargeCount r n) (Fd.bgStatBusy n) 0) (.barge (Fin.ofNat 16 n))) 1 n 0

/-- A transfer ends with what it met: the status, the fault of the chip bay, the event (R333). -/
def bargeEnd (r : BargeRun) (n : Nat) : State :=
  let s := bargeOver r n
  if r.stopped then
    let s := if r.poison then raise (fon s (Fd.bgStatPoison n)) bayChip 4 else s
    let s := if r.err then raise (fon s (Fd.bgStatErr n)) bayChip 5 else s
    fireIf s (fbit s (Fd.bgChEvtErrEn n)) (fget s (Fd.bgChEvtErrChan n))
  else fireIf s (bit (fget s (Fd.bgAOptAs n)) 0) (fget s (Fd.bgChEvtDoneChan n))

/-- What the command says of the host side can be what the host did: all its bytes with a good reply, or fewer. -/
def bargeHostFits (s : State) (n : Nat) (host : List Byte) (reply : Reply) : Bool :=
  let len := bargeLen s n
  if bargeSrcHost s n then decide (host.length < len) != decide (reply = .ok) || bargeDstHost s n && decide (host.length = len)
  else bargeDstHost s n || decide (reply = .ok)

/-- The last response has returned. -/
def bargeComplete (s : State) (n : Nat) (host : List Byte) (reply : Reply) : State :=
  if !fbit s (Fd.bgStatBusy n) then s
  else
    let far := (bargeSrcHost s n || bargeDstHost s n) && decide (bargeLen s n ≠ 0)
    let down := far && !hostUp s
    let host := if down then [] else host
    let reply := if down then .error else reply
    if far && !bargeHostFits s n host reply then s
    else
      let r := bargeMove s n host reply (bargeLen s n)
      let flush := far && bargeDstHost s n && !r.stopped
      bargeEnd { r with poison := r.poison || (flush && decide (reply = .poison))
                        err := r.err || (flush && decide (reply = .error)) } n

/-- An abort of a busy channel: a free number of beats has been written, and what the host had sent is open (log
entry 2). It ends at once where the transfer meets poison or an error first. -/
def bargeStop (s : State) (n : Nat) : State :=
  let s := { s with bargeAborts := NSet.del n s.bargeAborts }
  if !fbit s (Fd.bgStatBusy n) then s
  else
    let len := bargeLen s n
    let c := (draw s).toNat
    let host := (List.range len).map fun i => (Config.openOf 5 (c * 2 ^ 32 + i)).setWidth 8
    let r := bargeMove (drew s) n host .ok (c % (len / 8 + 3))
    if r.stopped then bargeEnd r n else fon (bargeOver r n) (Fd.bgStatAborted n)

/-- The aborts that a step's writes asked for. -/
def bargeStops (s : State) : State := s.bargeAborts.foldl bargeStop s

end Sys2Proof.Machine
end

