-- ==== Sys2Proof/Machine/Finish.lean ====
section
/-! DEFINITION. How a command ends: what its writes started in the Tollhouse and the Barge, and the events they carry. -/

namespace Sys2Proof.Machine

/-- The rest of the step after a command's own effect (R88, R333, R406). -/
def wind (s : State) : State := settle (bargeStops (thRun s))

/-- A command's answer. -/
def finish (s : State) : Host.Outcome State Fault Refusal := .next (wind s)

/-- A unit of the main domain acts only while that domain is powered and out of reset (R448). -/
def mainDo (s : State) (f : State → State) : State := if mainUp s then f s else s

/-- Registers of the always-on domain, which masters reach while main is down: side-band, Tollhouse, power, monitors. -/
def aonReg (off : Nat) : Bool := decide (0x210000 ≤ off ∧ off < 0x224000)

/-- A master reaches a register: the host, engines and movers need the main domain; the side-band and the Tollhouse
reach the always-on domain without it (R384, R388). -/
def busOpen (s : State) (m : Master) (off : Nat) : Bool :=
  mainUp s || (aonReg off && decide (m = .sideband ∨ m = .tollhouse))

/-- A write of a master, as a whole command. -/
def writeCmd (s : State) (m : Master) (off v : Nat) : Host.Outcome State Fault Refusal :=
  if busOpen s m off then finish (busWrite s m off v) else .next s

/-- A read of a master, as a whole command: the answer is the value, marked as poison from an uncorrectable entry of the
display memories (R181, R377). -/
def readCmd (s : State) (m : Master) (off : Nat) : Host.Outcome State Fault Refusal :=
  if busOpen s m off then
    let r := busRead s m off
    finish (setResp r.2 (if ctrlReply s off = .poison then 2 else 0) [r.1])
  else .next s

/-- An event of the main domain, as a whole command. -/
def mainCmd (s : State) (f : State → State) : Host.Outcome State Fault Refusal := finish (mainDo s f)

end Sys2Proof.Machine
end

