-- ==== Sys2Proof/Machine/Joiner.lean ====
section
/-! DEFINITION. The Joiner at work (07_joiner_layers.md R190-R200, 08_sprites_raster.md R210, R220): line tables, compose
starts, what a line reads, and its finish. -/

namespace Sys2Proof.Machine

/-! ### Which line is next (R190, R225, R227) -/

/-- The screen coordinate of line `n`, of the field that the beam scans next (R225). -/
def lineY (s : State) (h n : Nat) : Nat :=
  if fbit s (Fd.headHctrlInterlace h) then
    let lap := tlLapCount s (h + 1)
    let later := (headOf s h).placed && decide (n * (beamTotalsOf s h).1 ≤ tlPos s (h + 1))
    2 * n + (if later then lap + 1 else lap) % 2
  else n

/-- The line after `n`. -/
def lineAfter (s : State) (h n : Nat) : Nat := if n + 1 < vactive s h then n + 1 else 0

/-- The evaluation that a head start waits for has run to completion (R210, R227). -/
def startEvalDone (s : State) (h : Nat) : Bool :=
  match (headOf s h).eval with
  | some v => !v.waits || sprAllDrawn v
  | none => true

/-- The Joiner may start the next line: the beam has crossed S(n), or the head start composes its first lines. -/
def lineDue (s : State) (h : Nat) : Bool :=
  let u := headOf s h
  let t := beamTotalsOf s h
  headRunning s h && u.comp.isNone &&
  (if u.placed then decide (ahead (t.1 * t.2) (tlPos s (h + 1)) (u.next * t.1) ≤ leadOf s h * t.1)
   else decide (u.next < leadOf s h) && startEvalDone s h)

/-- The pointer moves on to line `n` of the schedule; the line table starts anew with line 0 (R197). -/
def setNext (s : State) (h n : Nat) : State :=
  let u := headOf s h
  setHead s h (if n = 0 then { u with next := 0, ltPtr := none, ltStop := false } else { u with next := n })

/-! ### Line tables (R197-R199) -/

/-- The fields of record `v`. -/
def ltOp (v : Nat) : Nat := bits v 63 60
def ltIdx (v : Nat) : Nat := bits v 59 46
def ltValue (v : Nat) : Nat := bits v 31 0

/-- The record at a byte address, as DRAM holds it. -/
def ltRecord (s : State) (a : Nat) : Nat := leNat (memBytes s a 8)

/-- A record cannot be read whole and good. -/
def ltBroken (s : State) (a : Nat) : Bool :=
  decide (s.mem.top < a + 8) || NSet.has (a / 8) s.mem.poison || NSet.has (a / 8) s.mem.bad

/-- The start of line 0 begins: LT_RECS takes the count of the frame before, where that one was whole (R202); the pointer,
by the values in effect before the latch; and the Frame-class latch. A Frame-class field that a record of line 0 writes
waits for the next frame (R198). -/
def ltPrepare (s : State) (h : Nat) : State :=
  let u := headOf s h
  if u.next ≠ 0 ∨ u.ltPtr.isSome then s
  else
    let s := if u.ltWhole then fset s (Fd.joinLtRecsCount h) (min (2 ^ 20 - 1) u.ltCount) else s
    let s := fset s (Fd.joinLtStatEnded h) 0
    let on := fbit s (Fd.joinLtCtrlEn h)
    let s := setHead s h { u with
      ltCount := 0, ltWhole := true, ltStop := !on, ltPtr := if on then some (fget s (Fd.joinLtBaseBase h) * 256) else none }
    latchRange s (0x80000 + 0x4000 * h) (0x84000 + 0x4000 * h) fun c => decide (c = .frame)

/-- The address of a record that is due for the line about to start; none where the pointer stops. -/
def ltDueAt (s : State) (h : Nat) : Option Nat :=
  let u := headOf s h
  let at' := if u.ltStop then none else match u.ltPtr with
    | some a => some a
    | none => if u.next = 0 ∧ fbit s (Fd.joinLtCtrlEn h) then some (fget s (Fd.joinLtBaseBase h) * 256) else none
  match at' with
  | none => none
  | some a =>
    let v := ltRecord s a
    if !ltBroken s a && decide (ltOp v = 1 ∧ u.next < ltIdx v) then none else some a

/-- The target of a WRITE is refused (R198). -/
def ltRefused (s : State) (off idx : Nat) : Bool :=
  decide (0x1000 ≤ idx) || (stagedIn s off).isSome ||
  match RegMap.lookup off with
  | some hit => (hit.reg.flds.any Fld.stops) || decide (offAuth off hit ≠ .either)
  | none => false

/-- A WRITE record. -/
def ltWrite (s : State) (h : Fin 6) (idx v : Nat) : State :=
  let off := 0x80000 + 0x4000 * h.val + 4 * idx
  if ltRefused s off idx then raise (fon s (Fd.joinLtStatRefused h)) bayChip 5
  else busWrite s (.lineTable h) off v

/-- The pointer stops for the rest of the frame. -/
def ltHalt (s : State) (h : Nat) : State := setHead s h { headOf s h with ltStop := true }

/-- The pointer moves past the record at `a`. -/
def ltPass (s : State) (h a : Nat) : State :=
  let u := headOf s h
  setHead s h { u with ltPtr := some (a + 8), ltCount := u.ltCount + 1, ltLine := u.ltLine + 1 }

/-- The record that is due is applied. -/
def ltApply (s : State) (h : Fin 6) (a : Nat) : State :=
  if s.mem.top < a + 8 then ltHalt (chipUnmapped s) h
  else
    let r := dramRead s a 8
    let s := r.2.2
    if r.2.1 then ltHalt (raise (fon s (Fd.joinLtStatPoison h)) bayChip 4) h
    else
      let v := leNat r.1
      match ltOp v with
      | 0 => ltPass (ltWrite s h (ltIdx v) (ltValue v)) h a
      | 1 => ltPass s h a
      | 2 => ltPass (dispWrite s (palAddr (ltIdx v)) (ltValue v)) h a
      | 3 => ltHalt (fon s (Fd.joinLtStatEnded h)) h
      | _ => ltHalt (fon (fon s (Fd.joinLtStatEnded h)) (Fd.joinLtStatBad h)) h

/-- The records due at a line start, up to the 64 of R199. -/
def ltRun (h : Fin 6) : Nat → State → State
  | 0, s => s
  | n + 1, s =>
    match ltDueAt s h with
    | none => s
    | some a => if (headOf s h).ltLine < 64 then ltRun h n (ltApply s h a) else fon s (Fd.joinLtStatLate h)

/-! ### Compose start (R192) -/

/-- The sprites of the line that starts; a line after a slip restart has none (R210). -/
def startSprites (s : State) (h n : Nat) : State × List DrawnSprite :=
  if (headOf s h).restarted then
    (fset (fon s (Fd.sprStatNoeval h)) (Fd.sprListShown h) 0, [])
  else sprFinish s h n

/-- The evaluation of the line after `n` begins (R210). -/
def startEval (s : State) (h n : Nat) : State :=
  let k := lineAfter s h n
  if fbit s (Fd.sprEvalEn h) then
    sprEvaluate s h k (lineY s h k) (fget s (Fd.sprFirstFirst h)) (fget s (Fd.sprEvalCount h)) false
  else setHead s h { headOf s h with eval := none }

/-- The compose start of the next line: records, latch, events, sprites (R192). -/
def composeStart (s : State) (h : Fin 6) : State :=
  let s := ltRun h 65 (ltPrepare s h)
  let n := (headOf s h).next
  let s := latchRange s (0x80000 + 0x4000 * h.val) (0x84000 + 0x4000 * h.val) fun c => decide (c = .line)
  let s := if n = 0 ∧ !fbit s (Fd.joinLtCtrlEn h) then ltHalt s h else s
  let s := fireIf s (fbit s (Fd.headEvEn h 0)) (fget s (Fd.headEvChan h 0))
  let s := if n = 0 then fireIf s (fbit s (Fd.headEvEn h 2)) (fget s (Fd.headEvChan h 2)) else s
  let s := fset s (Fd.joinJstatLine h) n
  let r := startSprites s h n
  let s := startEval r.1 h n
  let u := headOf s h
  let s := setHead s h { u with
    comp := some { line := n, y := lineY s h n, at' := s.clock, sprites := r.2, fills := [], spans := 0, done := [], stall := 0 },
    rows := if n = 0 then [] else u.rows, restarted := false, ltLine := 0 }
  setNext s h (lineAfter s h n)

/-- Composition starts by itself where nothing of a line table is due before it (R190); line 0 of a head start has its
own command. -/
def composeTry (s : State) (h : Fin 6) : State :=
  let u := headOf s h
  if (u.placed || decide (u.next ≠ 0)) && lineDue s h && (ltDueAt s h).isNone then composeStart s h else s

/-! ### What a line reads (R178, R186, R188, R200) -/

/-- The spans of the line, each with its layers. -/
def lineSpans (s : State) (h : Nat) (k : Compose) : List (List Nat × List Nat) :=
  (List.range (spanCount s h)).map fun i =>
    let cols := spanCols (hactive s h) i
    (cols, spanLayers s h k cols (layerStack s h))

/-- The bytes of the pattern that a tile layer reads at column `x`, as a range. -/
def tileBytes (s : State) (h l x y : Nat) : Option (Nat × Nat) :=
  let fmt := fget s (Fd.tilCtrlFmt h l)
  if !tileClip s h l x || decide (fmt = 7) then none
  else
    let p := tilePlace s h l x y
    let a := tileRow s h l (tileEntry s p.1) p.2.1 p.2.2
    let w := fmtBits fmt
    some (a.1 + a.2 * w / 8, a.1 + (a.2 * w + w - 1) / 8)

/-- The cache lines that the tile layers of a span read, each once per layer. -/
def spanReads (s : State) (h : Nat) (k : Compose) (p : List Nat × List Nat) : List Nat :=
  p.2.flatMap fun c =>
    if 4 ≤ c ∧ c < 12 then
      NSet.norm (p.1.flatMap fun x =>
        match tileBytes s h (c - 4) x k.y with
        | some r => linesOf s r.1 r.2
        | none => [])
    else []

/-- The source rows that the video layers of a span read, as keys of the head's rows. -/
def spanRows (s : State) (h : Nat) (k : Compose) (p : List Nat × List Nat) : List Nat :=
  p.2.flatMap fun c =>
    if c < 4 && vidShows s h c && !vidStepBad s h c && p.1.any fun x => vidInside s h c x k.y then
      (vidRows s h c k.y).map fun r => c * 65536 + r
    else []

/-- A span has everything it reads. -/
def spanReady (s : State) (h : Nat) (k : Compose) (p : List Nat × List Nat) : Bool :=
  ((spanReads s h k p).all fun l => cached s l || NSet.has l k.fills) &&
  ((spanRows s h k p).all fun r => (Sparse.find r (headOf s h).rows).isSome)

/-- The display-memory entries that a layer of a span reads. -/
def spanEntries (s : State) (h : Nat) (k : Compose) (c : Nat) (cols : List Nat) : List Nat :=
  let pal := fun (fmt base raw : Nat) => if fmt ≤ 2 then [palAddr (base + raw)] else []
  cols.flatMap fun x =>
    if 4 ≤ c ∧ c < 12 then
      let l := c - 4
      if (tileBytes s h l x k.y).isNone then []
      else
        let fmt := fget s (Fd.tilCtrlFmt h l)
        let p := tilePlace s h l x k.y
        let e := tileEntry s p.1
        let a := tileRow s h l e p.2.1 p.2.2
        let raw := rowPixel (patRow s a.1 (tilT s h l * fmtBits fmt / 8)) (fmtBits fmt) a.2
        (0x2000000 + 4 * p.1) :: pal fmt (fget s (Fd.tilPalBaseBase h l) + bits e 23 18 * 2 ^ fmtBits fmt) raw.1
    else if 12 ≤ c then
      (k.sprites.filter fun e => decide (e.1.plane = c - 12)).flatMap fun e =>
        match sprColumn e.1 x with
        | some i =>
          pal e.1.fmt (fget s (Fd.planePalBaseBase h e.1.plane) + bits e.1.q1 6 1 * 2 ^ fmtBits e.1.fmt)
            (rowPixel e.2 (fmtBits e.1.fmt) i).1
        | none => []
    else []

/-- A pattern read of a tile layer in the span lies beyond DRAM: an error, not poison (R187, R308). -/
def spanBeyond (s : State) (h : Nat) (k : Compose) (c : Nat) (cols : List Nat) : Bool :=
  cols.any fun x =>
    match tileBytes s h (c - 4) x k.y with
    | some r => decide (s.mem.top ≤ r.2)
    | none => false

/-- A read of a tile layer in the span is poisoned: a map entry, a palette entry, or a pattern in DRAM. -/
def spanPoison (s : State) (h : Nat) (k : Compose) (c : Nat) (cols : List Nat) : Bool :=
  (spanEntries s h k c cols).any (fun o => NSet.has o s.dispBad) ||
  cols.any fun x =>
    match tileBytes s h (c - 4) x k.y with
    | some r => (linesOf s r.1 r.2).any fun l => NSet.has l s.cache.bad
    | none => false

/-- The marks that one layer of a span leaves: STAT of a tile layer or a plane, FAULT_OWN of the chip (R187, R215). The
video layers' marks are set by their source reads, and those of sprite patterns when the sprite is drawn. -/
def spanMarks (h : Nat) (k : Compose) (cols : List Nat) (s : State) (c : Nat) : State :=
  if c < 4 then s
  else if 12 ≤ c then
    if (spanEntries s h k c cols).any fun o => NSet.has o s.dispBad then
      raise (fon s (Fd.planeStatPoison h (c - 12))) bayChip 4
    else s
  else
    let beyond := spanBeyond s h k c cols
    let s' := if beyond then raise s bayChip 5 else s
    if spanPoison s h k c cols then raise (fon s' (Fd.tilStatPoison h (c - 4))) bayChip 4 else s'

/-! ### The finish (R188, R193, R196) -/

/-- The rows that stay for later lines: rows without an error, of layers that fetch a row once a frame (R186, R187). -/
def keepRows (s : State) (h : Nat) : List (Nat × List (Byte × Bool)) :=
  (headOf s h).rows.filter fun r =>
    !(r.2.any fun b => b.2) && decide (fget s (Fd.vidStepYStep h (r.1 / 65536)) ≤ 0x10000)

/-- The head leaves a line: its rows stay as R186 and R187 allow. -/
def dropRows (s : State) (h : Nat) : State := setHead s h { headOf s h with rows := keepRows s h }

/-- Span `i` of the line is composed: its reads, counters and marks, and its pixels (R181, R187, R188, R200). -/
def composeSpan (s : State) (h : Nat) (k : Compose) (p : List Nat × List Nat) : State :=
  let reads := spanReads s h k p
  let pix := spanPixels s h k (hactive s h) k.spans
  let s' := fcount s (Fd.joinSkippedCount h) ((layerStack s h).length - p.2.length)
  let s' := countReads s' reads (k.fills.filter fun l => NSet.has l reads).length
  let s' := p.2.foldl (spanMarks h k p.1) s'
  let one := !s.dispOne.isEmpty && p.2.any fun c => (spanEntries s h k c p.1).any fun o => NSet.has o s.dispOne
  let s' := raiseIf s' one bayChip 3
  setHead s' h { headOf s' h with
    comp := some { k with spans := k.spans + 1, done := k.done ++ pix, fills := k.fills.filter fun l => !NSet.has l reads } }

/-- The lines that the composition is about to read are sound, or are dropped and wanted again (R318). -/
def spanSound (s : State) (h : Nat) (k : Compose) (reads : List Nat) : Compose × State :=
  let lost := sramBad s reads
  let k := { k with fills := k.fills.filter fun l => !NSet.has l lost }
  if lost.isEmpty then (k, s)
  else
    let s := sramDrop s lost
    (k, setHead s h { headOf s h with comp := some k })

/-- One cycle of a head's composition: span i composes in cycle c + 1 + 16i, and later by the cycles for which reads have
not come in (R196; DESIGN CHOICE, log entry 41). -/
def composeCycle (s : State) (h : Nat) : State :=
  match (headOf s h).comp with
  | none => s
  | some k =>
    match (lineSpans s h k)[k.spans]? with
    | none => s
    | some p =>
      if s.clock < k.at' + 1 + 16 * k.spans + k.stall then s
      else
        let w := spanSound s h k (spanReads s h k p)
        if spanReady w.2 h w.1 p then composeSpan w.2 h w.1 p
        else setHead w.2 h { headOf w.2 h with comp := some { w.1 with stall := w.1.stall + 1 } }

/-- The spans that are left compose now. -/
def composeRest (h : Nat) : List (List Nat × List Nat) → State → State
  | [], s => s
  | p :: t, s =>
    match (headOf s h).comp with
    | some k => composeRest h t (composeSpan s h k p)
    | none => s

/-- Every pixel of the line is made: it waits in the line buffer, or is in scan-out already. -/
def composeEnd (s : State) (h : Fin 6) (k : Compose) : State :=
  let b : LineBuf := { pix := k.done, bg := bgOf s h, deep := fbit s (Fd.joinJcfgOutBpc h) }
  let u := headOf s h
  let s := setHead s h (if u.scan = .live then { u with comp := none, scan := .buf b }
    else { u with comp := none, lines := Sparse.ins k.line b u.lines })
  composeTry (dropRows s h) h

/-- COMPOSE_FINISH: the line in composition has had every read answered (R190, R196). -/
def composeFinish (s : State) (h : Fin 6) : State :=
  match (headOf s h).comp with
  | some k =>
    let rest := (lineSpans s h k).drop k.spans
    let w := spanSound s h k (rest.flatMap (spanReads s h k))
    if rest.all (spanReady w.2 h w.1) then
      let s' := composeRest h rest w.2
      match (headOf s' h).comp with
      | some k' => composeEnd s' h k'
      | none => s'
    else w.2
  | none => s

/-- One cycle of the core: the reference's moves, and in each head the evaluator and the composition. -/
def headsCycle (s : State) : State :=
  (s.heads.map Prod.fst).foldl (fun s h => composeCycle (sprCycle s h) h) s

/-! ### Pattern and source reads (R186, R187, R200) -/

/-- The line of the pattern cache is read by the line in composition, or by a listed sprite. -/
def fillWanted (s : State) (h line : Nat) : Bool × Bool :=
  let u := headOf s h
  ((match u.comp with
    | some k => ((lineSpans s h k).drop k.spans).any fun p => NSet.has line (spanReads s h k p)
    | none => false),
   (match u.eval with
    | some v => v.rest.any fun e => NSet.has line (sprLines s h e)
    | none => false))

/-- A miss brings its line in (R200). -/
def patternFill (s : State) (h : Fin 6) (a : Nat) : State :=
  let line := a / 256
  let w := fillWanted s h line
  if cached s line || !(w.1 || w.2) then s
  else
    let s := fcount (cacheFill s line) Fd.pcMissesCount 1
    let u := headOf s h
    setHead s h { u with
      comp := u.comp.map fun k => if w.1 then { k with fills := NSet.ins line k.fills } else k
      eval := u.eval.map fun v => if w.2 then { v with fills := NSet.ins line v.fills } else v }

/-- A source row arrives: what its bytes leave (R187). -/
def videoRow (s : State) (h l row : Nat) (d : List (Byte × Bool)) (poison err : Bool) : State :=
  let s := if poison then raise (fon s (Fd.vidStatPoison h l)) bayChip 4 else s
  let s := if err then raise (fon s (Fd.vidStatErr h l)) bayChip 5 else s
  let u := headOf s h
  let w := fmtBits (fget s (Fd.vidCtrlFmt h l)) / 8
  let pad := List.replicate (fget s (Fd.vidSrcXX h l) * w) ((0 : Byte), false)
  setHead s h { u with rows := Sparse.ins (l * 65536 + row) (pad ++ d) u.rows }

/-- The bytes of the crop in a source row. -/
def videoLen (s : State) (h l : Nat) : Nat := fget s (Fd.vidSrcWW h l) * (fmtBits (fget s (Fd.vidCtrlFmt h l)) / 8)

/-- The address of the crop in a source row. -/
def videoAt (s : State) (h l row : Nat) : Nat :=
  fget s (Fd.vidBaseLoBaseLo h l) + fget s (Fd.vidBaseHiBaseHi h l) * 2 ^ 32 + row * fget s (Fd.vidPitchPitch h l) +
    fget s (Fd.vidSrcXX h l) * (fmtBits (fget s (Fd.vidCtrlFmt h l)) / 8)

/-- A row of the chip's own memory, read by the Joiner as a master without a Secure level (R308, R309). -/
def videoChip (s : State) (h l row : Nat) : State :=
  let r := rowRead s (.lineTable (Fin.ofNat 6 h)) (videoAt s h l row % 2 ^ 48) (videoLen s h l)
  videoRow r.st h l row r.bytes r.poison r.err

/-- VIDEO_SOURCE_READ (R186): the layer's row is read from the chip, or answered by the host. -/
def videoRead (s : State) (h l row : Nat) (data : List Byte) (r : Reply) : State :=
  match (headOf s h).comp with
  | none => s
  | some k =>
    let key := l * 65536 + row
    let wanted := ((lineSpans s h k).drop k.spans).any fun p => NSet.has key (spanRows s h k p)
    if !wanted || (Sparse.find key (headOf s h).rows).isSome then s
    else if !fbit s (Fd.vidCtrlHost h l) then videoChip s h l row
    else
      let n := videoLen s h l
      let all := fun (b : Bool) => (List.range n).map fun i => (data.getD i 0, b)
      if !hostUp s || decide (r = .error) then videoRow s h l row (all true) false true
      else if r = .poison then videoRow s h l row (all true) true false
      else if data.length = n then videoRow s h l row (all false) false false
      else s

/-- The host does not answer the row that a layer waits for (R379). -/
def videoTimeout (s : State) (h l : Nat) : State :=
  match (headOf s h).comp with
  | none => s
  | some k =>
    let due := ((lineSpans s h k).drop k.spans).flatMap fun p => (spanRows s h k p).filter fun key =>
      decide (key / 65536 = l) && (Sparse.find key (headOf s h).rows).isNone
    match due with
    | [] => s
    | key :: _ =>
      if !fbit s (Fd.vidCtrlHost h l) then s
      else videoRow (fon s Fd.hlStatCto) h l (key % 65536) (List.replicate (videoLen s h l) (0, true)) false true

/-! ### The commands -/

/-- COMPOSE_START (R192): the next line starts with every record that is due. -/
def execComposeStart (h : Fin 6) (s : State) : Host.Outcome State Fault Refusal :=
  mainCmd s fun s => if lineDue s h then composeStart s h else s

/-- The record at the pointer is the one the command names, and it is due. -/
def ltNamed (s : State) (h : Fin 6) (p : Nat → Bool) : State :=
  if !lineDue s h then s
  else
    let s' := ltPrepare s h
    match ltDueAt s' h with
    | none => s
    | some a => if !ltBroken s' a && p (ltRecord s' a) && decide ((headOf s' h).ltLine < 64)
        then composeTry (ltApply s' h a) h else s

/-- LINE_TABLE_WRITE (R197, R198). -/
def execLineTableWrite (h : Fin 6) (idx : BitVec 14) (v : Dword) (s : State) : Host.Outcome State Fault Refusal :=
  mainCmd s fun s => ltNamed s h fun r => decide (ltOp r = 0 ∧ ltIdx r = idx.toNat ∧ ltValue r = v.toNat)

/-- LINE_TABLE_WAIT (R197): a WAIT for a line that has come is passed; one for a later line stands. -/
def execLineTableWait (h : Fin 6) (idx : BitVec 14) (s : State) : Host.Outcome State Fault Refusal :=
  mainCmd s fun s => ltNamed s h fun r => decide (ltOp r = 1 ∧ ltIdx r = idx.toNat)

/-- LINE_TABLE_PAL (R197). -/
def execLineTablePal (h : Fin 6) (idx : BitVec 14) (v : Dword) (s : State) : Host.Outcome State Fault Refusal :=
  mainCmd s fun s => ltNamed s h fun r => decide (ltOp r = 2 ∧ ltIdx r = idx.toNat ∧ ltValue r = v.toNat)

/-- LINE_TABLE_END (R197): op 3, or one of 4-15 that act as it. -/
def execLineTableEnd (h : Fin 6) (op : BitVec 4) (s : State) : Host.Outcome State Fault Refusal :=
  mainCmd s fun s => ltNamed s h fun r => decide (3 ≤ ltOp r ∧ ltOp r = op.toNat)

/-- COMPOSE_FINISH (R190). -/
def execComposeFinish (h : Fin 6) (s : State) : Host.Outcome State Fault Refusal := mainCmd s fun s => composeFinish s h

/-- PATTERN_CACHE_FILL (R200). -/
def execPatternCacheFill (h : Fin 6) (a : Addr) (s : State) : Host.Outcome State Fault Refusal :=
  mainCmd s fun s => patternFill s h a.toNat

/-- VIDEO_SOURCE_READ (R186). -/
def execVideoSourceRead (h : Fin 6) (layer : Fin 4) (row : Nat) (data : List Byte) (r : Reply) (s : State) :
    Host.Outcome State Fault Refusal :=
  mainCmd s fun s => videoRead s h layer.val row data r

/-- COEF_DATA_WRITE (R184). -/
def execCoefDataWrite (m : Master) (h : Fin 6) (layer : Fin 4) (v : Dword) (s : State) :
    Host.Outcome State Fault Refusal :=
  writeCmd s m (Adr.vidCoefData h layer) v.toNat

/-- An engine reaches its display-table port and its paired windows while its quad is out of reset. -/
def portCmd (e : Fin 128) (s : State) (f : State → Nat × State) (answers : Bool) : Host.Outcome State Fault Refusal :=
  mainCmd s fun s =>
    if !engPresent s e || inQuadReset s (e / 4) then s
    else
      let r := f s
      if answers then setResp r.2 0 [r.1] else r.2

/-- TP_LO_WRITE (R126). -/
def execTpLoWrite (e : Fin 128) (v : Word) (s : State) : Host.Outcome State Fault Refusal :=
  portCmd e s (fun s => (0, tpWrite s e (asEngine e (engOf s e)) v.toNat)) false

/-- TP_LO_READ (R126). -/
def execTpLoRead (e : Fin 128) (s : State) : Host.Outcome State Fault Refusal := 
  portCmd e s (fun s => tpRead s e (asEngine e (engOf s e))) true

/-- The register of a paired word of the given half (R125). -/
def pairHalf (a : Word) (odd : Bool) : Option Nat :=
  match pairOf a.toNat with
  | some (off, o) => if o = odd then some off else none
  | none => none

/-- ODD_WORD_WRITE (R125). -/
def execOddWordWrite (e : Fin 128) (a : Word) (v : Word) (s : State) : Host.Outcome State Fault Refusal :=
  portCmd e s (fun s => (0, match pairHalf a true with
    | some off => oddWrite s e off v.toNat
    | none => s)) false

/-- EVEN_WORD_WRITE (R125). -/
def execEvenWordWrite (e : Fin 128) (a : Word) (v : Word) (s : State) : Host.Outcome State Fault Refusal :=
  portCmd e s (fun s => (0, match pairHalf a false with
    | some off => evenWrite s e (asEngine e (engOf s e)) off v.toNat
    | none => s)) false

/-- EVEN_WORD_READ (R125). -/
def execEvenWordRead (e : Fin 128) (a : Word) (s : State) : Host.Outcome State Fault Refusal :=
  match pairHalf a false with
  | some off => portCmd e s (fun s => evenRead s e (asEngine e (engOf s e)) off) true
  | none => finish s

end Sys2Proof.Machine
end

