-- ==== Sys2Proof/Machine/Beam.lean ====
section
/-! DEFINITION. Heads at work (09_heads.md): placement and scan-out, underruns, the witness, sync marks, DisplayPort and
AUX events. -/

namespace Sys2Proof.Machine

/-! ### Scan-out (R191, R194, R232, R233, R244) -/

/-- An underrun of line `n`: counted and reported, its composition abandoned, the rest of it background (R194, R232). -/
def underrun (s : State) (h n : Nat) : State :=
  let s := fset (fcount s (Fd.headUnderrunsCount h) 1) (Fd.headUrLastLine h) n
  let s := raise (hevt s h 6) bayChip 6
  let s := fireIf s (fbit s (Fd.headEvEn h 3)) (fget s (Fd.headEvChan h 3))
  let s := dropRows s h
  let u := headOf s h
  let s := setHead s h { u with comp := none, scan := .bg (bgOf s h), witFlags := u.witFlags ||| 1 }
  if u.next = n then setNext s h (lineAfter s h n) else s

/-- The record of the frame that ended is published, and the next begins (R245). -/
def witnessTurn (s : State) (h : Nat) : State :=
  let u := headOf s h
  let s := match u.wit with
    | some (lap, t) =>
      let s := fset (fset s (Fd.headWitFrameFrame h) lap) (Fd.headWitSpanLoT h) t
      fset (fset s (Fd.headWitSpanHiT h) (t / 2 ^ 32)) (Fd.headWitFlagsFlags h) u.witFlags
    | none => s
  let now := (tlOf s 32).lap * 2 ^ 40 + (tlOf s 32).pos
  setHead s h { u with wit := some (tlLapCount s (h + 1), now), witFlags := 0 }

/-- The beam-line event of line `n`: its scan-out begins. -/
def lineScan (s : State) (h n : Nat) : State :=
  let s := fireIf s (fbit s (Fd.headEvEn h 1)) (fget s (Fd.headEvChan h 1))
  let s := if n = 0 then witnessTurn s h else s
  let u := headOf s h
  let u := if joined s then { u with witFlags := u.witFlags ||| 8 } else u
  let s := match Sparse.find n u.lines with
    | some b => setHead s h { u with scan := .buf b, lines := Sparse.del n u.lines }
    | none =>
      if u.comp.any fun k => decide (k.line = n) then setHead s h { u with scan := .live }
      else underrun (setHead s h u) h n
  tallyBegin s 4 h 0 n

/-- Column `x` of the line in composition has been written (R196): its span is composed, and 41 cycles, one for each two
columns, and the stalls have passed. -/
def columnReady (s : State) (k : Compose) (x : Nat) : Bool :=
  decide (x < k.done.length ∧ k.at' + 41 + x / 2 + k.stall ≤ s.clock)

/-- What scan-out reads at column `x`: the colour, the line's background, and whether it has 10 bits. -/
def scanRead (s : State) (h x : Nat) : Nat × Nat × Bool :=
  let deep := fbit s (Fd.joinJcfgOutBpc h)
  let u := headOf s h
  match u.scan with
  | .buf b => (b.pix.getD x b.bg, b.bg, b.deep)
  | .bg c => (c, c, deep)
  | .live =>
    let bg := bgOf s h
    match u.comp with
    | some k => (k.done.getD x bg, bg, deep)
    | none => (bg, bg, deep)

/-- The bytes that a witness sees of a pixel (R173, R244). -/
def witnessBytes (deep : Bool) (c : Nat) : List Byte :=
  if deep then leBytes 4 c
  else
    let f := fun v => BitVec.ofNat 8 (min 255 ((v + 2) / 4))
    [f (bits c 29 20), f (bits c 19 10), f (bits c 9 0)]

/-- HCTRL.blank or HSTAT.alarm_blank (R233). -/
def headBlanked (s : State) (h : Nat) : Bool := fbit s (Fd.headHctrlBlank h) || fbit s (Fd.headHstatAlarmBlank h)

/-- One active column of line `n` leaves scan-out. -/
def columnScan (s : State) (h n x : Nat) : State :=
  let late : Bool := match (headOf s h).comp with
    | some k => decide ((headOf s h).scan = .live) && !columnReady s k x
    | none => false
  let s := if late then underrun s h n else s
  let p := scanRead s h x
  let blank := headBlanked s h
  let u := headOf s h
  let s := setHead s h { u with pix := if blank then p.2.1 else p.1, witFlags := if blank then u.witFlags ||| 4 else u.witFlags }
  let s := tallyPush s 4 h 0 (witnessBytes p.2.2 (if blank then p.2.1 else p.1))
  if x + 1 = hactive s h then tallyEnd s 4 h 0 else s

/-! ### What the outputs carry (R222, R225, R241, R242) -/

/-- HS, VS and DE. -/
structure SyncBits where
  hs : Bool
  vs : Bool
  de : Bool
deriving DecidableEq, Repr

/-- The column at which vertical sync begins and ends in a field of parity `p` (R222, R225). -/
def vsColumn (s : State) (h p : Nat) : Nat :=
  if fbit s (Fd.headHctrlInterlace h) ∧ p % 2 = 1 then (beamTotalsOf s h).1 / 2 else fget s (Fd.headHsyncHsStart h)

/-- HS, VS and DE asserted at column `x` of line `n` (R222). A vertical sync that ends in line vtotal ends in line 0 of the
next frame, at the column of the field it began in (DEDUCED, log entry 61). -/
def headSync (s : State) (h n x : Nat) : SyncBits :=
  let t := beamTotalsOf s h
  let hs := fget s (Fd.headHsyncHsStart h)
  let v0 := fget s (Fd.headVsyncVsStart h)
  let v1 := v0 + fget s (Fd.headVsyncVsWidth h)
  let lap := tlLapCount s (h + 1)
  let q := n * t.1 + x
  let within := fun (c q : Nat) => decide (v0 * t.1 + c ≤ q ∧ q < v1 * t.1 + c)
  { hs := decide (hs ≤ x ∧ x < hs + fget s (Fd.headHsyncHsWidth h))
    vs := within (vsColumn s h lap) q || within (vsColumn s h (lap + 1)) (q + t.1 * t.2)
    de := decide (n < vactive s h ∧ x < hactive s h) }

/-- The levels of HS, VS and DE as POL gives them. -/
def syncLevels (s : State) (h : Nat) (b : SyncBits) : SyncBits :=
  { hs := b.hs == fbit s (Fd.headPolHsPol h), vs := b.vs == fbit s (Fd.headPolVsPol h),
    de := b.de == fbit s (Fd.headPolDePol h) }

/-- A 10-bit component in 8, 6 or 5 bits, rounded (R241, R242). -/
def comp8 (c : Nat) : Nat := min 255 ((c + 2) / 4)
def comp6 (c : Nat) : Nat := min 63 ((c + 8) / 16)
def comp5 (c : Nat) : Nat := min 31 ((c + 16) / 32)

/-- The bits of a number at the places of a list, the first lowest. -/
def pick (v : Nat) (l : List Nat) : Nat := l.foldr (fun i a => 2 * a + boolNat (bit v i)) 0

/-- The word of one link: seven bits of each data pair, pair 0 lowest and, in a pair, the bit sent last lowest, with DE, VS
and HS in pair 2. The bit orders of VESA and JEIDA are those of OpenLDI (PRESUMED, log entry 61). -/
def lvdsWord (s : State) (h : Nat) (b : SyncBits) (pix : Nat) : Nat :=
  let c := fun (f : Nat → Nat) => (f (bits pix 29 20), f (bits pix 19 10), f (bits pix 9 0))
  let ctl := boolNat b.hs * 16 + boolNat b.vs * 32 + boolNat b.de * 64
  let six := fun (r g b : Nat) =>
    pick r [0, 1, 2, 3, 4, 5] + g % 2 * 64 + 2 ^ 7 * (pick g [1, 2, 3, 4, 5] + b % 4 * 32) + 2 ^ 14 * (b / 4 % 16 + ctl)
  if !fbit s (Fd.headLvdsCfgBits24 h) then
    let p := c comp6
    six p.1 p.2.1 p.2.2
  else
    let p := c comp8
    let pair3 := fun (r g b : Nat) => 2 ^ 21 * (r % 4 + g % 4 * 4 + b % 4 * 16)
    if fbit s (Fd.headLvdsCfgMap h) then six (p.1 / 4) (p.2.1 / 4) (p.2.2 / 4) + pair3 p.1 p.2.1 p.2.2
    else six (p.1 % 64) (p.2.1 % 64) (p.2.2 % 64) + pair3 (p.1 / 64) (p.2.1 / 64) (p.2.2 / 64)

/-- A column's word goes to its link: with two links, even columns to the first and odd ones to the second, or exchanged,
both words together (R241). -/
def lvdsColumn (s : State) (h x word : Nat) : State :=
  let u := headOf s h
  if !fbit s (Fd.headLvdsCfgDual h) then setHead s h { u with links := [word] }
  else if x % 2 = 0 then setHead s h { u with half := word }
  else setHead s h { u with links := if fbit s (Fd.headLvdsCfgSwap h) then [word, u.half] else [u.half, word] }

/-- Entry `k` of PAR_PRE. -/
def parEntry (s : State) (k : Nat) : Nat :=
  let w := (rget s (Adr.headParPre 5 (k / 2))).toNat
  if k % 2 = 0 then bits w 8 0 else bits w 24 16

/-- The write slot of a column (R242): PAR_PRE entries from (vtotal - 1):0, then the active pixels; the data and DCX change
only with a write. CSX is low from the first entry to the last active pixel. -/
def busColumn (s : State) (n x pix : Nat) : State :=
  let u := headOf s 5
  let count := min 16 (fget s (Fd.headParNCount 5))
  let last := n + 1 = (beamTotalsOf s 5).2
  let active := n < vactive s 5 ∧ x < hactive s 5
  let low := (last ∧ 0 < count) ∨ n + 1 < vactive s 5 ∨ (n + 1 = vactive s 5 ∧ x < hactive s 5)
  let old := u.slot.getD { at' := 0, write := false, csx := true, dcx := true, data := 0 }
  let c := fun (f g h : Nat → Nat) (i j : Nat) => f (bits pix 29 20) * 2 ^ i + g (bits pix 19 10) * 2 ^ j + h (bits pix 9 0)
  let slot : BusSlot :=
    if last ∧ x < count then
      { at' := s.clock, write := true, csx := false, dcx := bit (parEntry s x) 8, data := parEntry s x % 256 }
    else if active then
      { at' := s.clock, write := true, csx := false, dcx := true
        data := if fbit s (Fd.headParCfgBus18 5) then c comp6 comp6 comp6 12 6 else c comp5 comp6 comp5 11 5 }
    else { old with at' := s.clock, write := false, csx := !decide low }
  setHead s 5 { u with slot := some slot }

/-- What the column at line `n`, column `x` puts on the head's output. In blanking the spec gives no pixel value: a free
one (DESIGN CHOICE, log entry 2). -/
def headDrive (s : State) (h n x : Nat) : State :=
  if h < 4 then s
  else
    let b := headSync s h n x
    let pix := if b.de then (headOf s h).pix else (Config.openOf 8 (8 * s.clock + h)).toNat % 2 ^ 30
    if headOut s h = 1 then busColumn s n x pix
    else if fbit s (Fd.headLvdsCfgEn h) then lvdsColumn s h x (lvdsWord s h (syncLevels s h b) pix)
    else s

/-- The beam comes to linear position `q` by an ordinary advance. -/
def beamStep (h : Nat) (s : State) (q : Nat) : State :=
  let w := (beamTotalsOf s h).1
  if w = 0 then s
  else
    let n := q / w
    let x := q % w
    headDrive (if n < vactive s h ∧ x < hactive s h then columnScan (if x = 0 then lineScan s h n else s) h n x else s) h n x

/-- HTOTAL and VTOTAL reach the mode generator (R224). -/
def takeTotals (s : State) (h : Nat) : State :=
  { s with beamTotals := Sparse.put (0, 0) h (fget s (Fd.headHtotalHtotal h), fget s (Fd.headVtotalVtotal h)) s.beamTotals }

/-- The beam advances by `d` columns (R42, R224, R228). -/
def beamAdvance (s : State) (h : Fin 6) (d : Nat) : State :=
  if !headRunning s h || !(headOf s h).placed || decide (d = 0) then s
  else
    let l := tlLap s (h + 1)
    let p := tlPos s (h + 1)
    if p + d < l then
      composeTry ((List.range d).foldl (fun s i => beamStep h s (p + 1 + i)) (tlMove s (h + 1) (.fwd d))) h
    else if fbit s (Fd.headHstatStopping h) then
      headEnd (if p + 1 < l then tlMove s (h + 1) (.fwd (l - 1 - p)) else s) h
    else
      composeTry ((List.range (p + d + 1 - l)).foldl (beamStep h) (takeTotals (tlMove s (h + 1) (.fwd d)) h)) h

/-- The beam is placed at 0:0: neither a slip nor a crossing, LAP kept (R227). -/
def beamPlace (s : State) (h : Fin 6) : State :=
  let u := headOf s h
  if !headRunning s h || u.placed || !fbit s (Fd.headPclkStatLocked h) || u.comp.isSome ||
      decide (u.next < leadOf s h) then s
  else
    let s := takeTotals (setHead s h { u with placed := true, placedAt := some s.clock }) h
    let s := setTl (fset s (Fd.tlCfgRun (h + 1)) 1) (h + 1) { tlOf s (h + 1) with pos := 0 }
    composeTry (headDrive (columnScan (lineScan s h 0) h 0 0) h 0 0) h

/-! ### Sync (R195, R229-R231) -/

/-- SYNC_CFG.src; 5-7 are reserved and act as one of the five. -/
def syncSrc (s : State) (h : Nat) : Nat :=
  let v := fget s (Fd.headSyncCfgSrc h)
  if 5 ≤ v then openField s (Fd.headSyncCfgSrc h) 5 else v

/-- A slip of the beam restarts composition. The rest of the line in scan-out shows the background colour last latched
(R195; DESIGN CHOICE, log entry 61). -/
def slipRestart (s : State) (h : Nat) : State :=
  let s := dropRows s h
  let p := tlPos s (h + 1)
  let w := (beamTotalsOf s h).1
  let next := ((List.range (vactive s h)).find? fun n => decide (p < n * w)).getD 0
  let u := headOf s h
  setNext (setHead s h { u with
    lines := [], comp := none, eval := none, scan := .bg (bgOf s h), restarted := true, ltLine := 0, ltWhole := false,
    witFlags := u.witFlags ||| 2 }) h next

/-- The column that a slip comes to leaves scan-out; the witness frame of the line it cuts ends there, and one of the line
it comes to begins (R244; DESIGN CHOICE, log entry 61). A slip crosses nothing, so there is no beam-line event (R191). -/
def slipScan (s : State) (h : Nat) : State :=
  let w := (beamTotalsOf s h).1
  let n := tlPos s (h + 1) / w
  let x := tlPos s (h + 1) % w
  let s := tallyEnd s 4 h 0
  headDrive (if n < vactive s h ∧ x < hactive s h then columnScan (tallyBegin s 4 h 0 n) h n x else s) h n x

/-- The slip to SYNC_POS. -/
def beamSlip (s : State) (h : Fin 6) (e : Int) : State :=
  if e = 0 then s else composeTry (slipScan (slipRestart (hwSlipBy s (h + 1) e) h) h) h

/-- A mark on a genlock or TE edge within an eighth of a frame after the last is ignored (R229). -/
def markNear (s : State) (h : Nat) : Bool :=
  match (headOf s h).markAt with
  | some t => decide (8 * 1000 * (s.clock - t) < framePs s h)
  | none => false

/-- An ordinary advance of unit `key` in this cycle crosses a value that `p` holds of, on a lap of `l` (R37). -/
def advanceCrosses (s : State) (key l : Nat) (p : Nat → Bool) : Bool :=
  match (tlOf s key).adv with
  | some (c, q, d) => decide (c = s.clock) && (List.range d).any fun i => p ((q + 1 + i) % l)
  | none => false

/-- An ordinary advance of span time crosses the phase in this cycle; a slip gives no mark (R229). -/
def spanMark (s : State) (h : Nat) : Bool :=
  let per := fget s (Fd.headSpanPerNs h)
  let ph := fget s (Fd.headSpanPhNs h)
  decide (per ≠ 0 ∧ ph < per) && advanceCrosses s 32 (2 ^ 40) fun v => decide (v % per = ph)

/-- The leader crosses 0:0 in this cycle, or is placed there (R229). -/
def leaderMark (s : State) (lead : Nat) : Bool :=
  decide (lead < 6) && headRunning s lead && (headOf s lead).placed &&
    (decide ((headOf s lead).placedAt = some s.clock) || advanceCrosses s (lead + 1) (tlLap s (lead + 1)) fun v => decide (v = 0))

/-- The source gives a mark in this cycle; the edge of genlock and TE is the command's own. -/
def markComes (s : State) (h : Nat) : Bool :=
  let post := fget s (Fd.headSyncCfgPost h)
  let lead := fget s (Fd.headSyncCfgLeader h)
  match syncSrc s h with
  | 1 => postLive s post 13 && !markNear s h
  | 2 => leaderMark s lead && !headLoop s h
  | 3 => spanMark s h
  | 4 => postLive s post 12 && !markNear s h
  | _ => false

/-- The source period in ps (R230). -/
def sourcePs (s : State) (h : Nat) : Nat :=
  let u := headOf s h
  match syncSrc s h with
  | 2 => framePs s (fget s (Fd.headSyncCfgLeader h))
  | 3 => 1000 * fget s (Fd.headSpanPerNs h)
  | _ =>
    match u.markAt, u.markBefore with
    | some a, some b => 1000 * (a - b)
    | _, _ => framePs s h

/-- The steer in ppm that removes `e` by the next mark, a source period from now: the pixels to go are the nearest whole
number of laps and e (R230). The spec gives no rounding: down or up is free (DESIGN CHOICE, log entry 2). -/
def steerPpm (s : State) (h : Nat) (e : Int) : Int :=
  let l := (beamTotalsOf s h).1 * (beamTotalsOf s h).2
  let ps := sourcePs s h
  let khz := fget s (Fd.headPclkKhz h)
  let nominal := ps * khz
  let laps := if l = 0 then 0 else (nominal / 10 ^ 9 + l / 2) / l
  let up := boolNat (bit (draw s).toNat 0)
  if nominal = 0 then signedN 16 (fget s (Fd.headPclkStatPpm h))
  else ((((laps * l : Nat) : Int) + e) * 10 ^ 9 - nominal) * 10 ^ 6 / (nominal : Int) + up

/-- A mark within the tolerance: the rate is steered within the pull limit; on the command-mode bus the write slots of
vertical blanking take up the error, in ns (R230, R242). -/
def steerBy (s : State) (h : Nat) (e : Int) : State :=
  if headOut s h = 1 then
    setHead s h { headOf s h with teFix := -e * (fget s (Fd.headParCfgTwLo h) + fget s (Fd.headParCfgTwHi h) : Nat) }
  else
    let lim : Int := (min 1000 (fget s (Fd.headSyncTolPull h)) : Nat)
    let v := max (-lim) (min lim (steerPpm s h e))
    fset (drew s) (Fd.headPclkStatPpm h) (wrapN 16 v)

/-- A mark (R230). -/
def syncMark (s : State) (h : Fin 6) : State :=
  if !headRunning s h || !(headOf s h).placed || !markComes s h then s
  else
    let t := beamTotalsOf s h
    let l := t.1 * t.2
    let e := slipDist l (tlPos s (h + 1))
      ((fget s (Fd.headSyncPosLine h) * t.1 + fget s (Fd.headSyncPosColumn h)) % l)
    let u := headOf s h
    let s := setHead s h { u with markBefore := u.markAt, markAt := some s.clock }
    let s := fset s (Fd.headSyncErrE h) (wrapN 20 (clampN 20 e))
    if !fbit s (Fd.headSyncStatLocked h) then
      let s := fset (fset s (Fd.headSyncStatAcquiring h) 0) (Fd.headSyncStatHoldover h) 0
      beamSlip (fon (fset s (Fd.headSyncStatMiss h) 0) (Fd.headSyncStatLocked h)) h e
    else if e.natAbs ≤ fget s (Fd.headSyncTolTol h) then
      steerBy (fset s (Fd.headSyncStatMiss h) 0) h e
    else
      let m := fget s (Fd.headSyncStatMiss h) + 1
      if max 1 (fget s (Fd.headSyncCfgMisses h)) ≤ m then
        let s := fcount (fset s (Fd.headSyncStatMiss h) 0) (Fd.headRelocksCount h) 1
        beamSlip (hevt s h 4) h e
      else fset s (Fd.headSyncStatMiss h) m

/-- No mark for 1.5 source periods (R230). -/
def syncHoldover (s : State) (h : Nat) : State :=
  let u := headOf s h
  let since := u.markAt.getD u.runAt
  if !headRunning s h || decide (syncSrc s h = 0) || fbit s (Fd.headSyncStatHoldover h) ||
      decide (2 * 1000 * (s.clock - since) < 3 * sourcePs s h) then s
  else
    let s := fset (fset (fon s (Fd.headSyncStatHoldover h)) (Fd.headSyncStatLocked h) 0) (Fd.headSyncStatAcquiring h) 0
    hevt s h 5

/-! ### DisplayPort (R238-R240) -/

/-- DP_CTRL.lanes as asked; 3 is reserved and acts as one of the three. -/
def dpLanesAsked (s : State) (h : Nat) : Nat :=
  let v := fget s (Fd.headDpCtrlLanes h)
  if v = 3 then openField s (Fd.headDpCtrlLanes h) 3 else v

/-- Training ends (R238): the rate and lanes reached can be below those asked for. -/
def trainingEnd (s : State) (h : Nat) (ok : Bool) (rate lanes : Nat) : State :=
  if !dpHead s h || !fbit s (Fd.headDpStatTraining h) then s
  else if !ok then fset (fset s (Fd.headDpStatTraining h) 0) (Fd.headDpStatTrained h) 0
  else if dpRate s h < rate ∨ dpLanesAsked s h < lanes then s
  else
    let s := fon (fset s (Fd.headDpStatTraining h) 0) (Fd.headDpStatTrained h)
    fset (fset s (Fd.headDpStatRate h) rate) (Fd.headDpStatLanes h) lanes

/-- The link is lost, with the rate and lanes it had. -/
def dpUntrain (s : State) (h : Nat) : State := fset s (Fd.headDpStatTrained h) 0

/-- A rise that stays high for 2 ms (R239); the idle program takes up a head that it manages (R454). -/
def plugIn (s : State) (h : Nat) : State :=
  if !dpHead s h then s else idleProbe (hevt (fon s (Fd.headDpStatHpd h)) h 0) h

/-- An unplug (R239); the idle program stops a head that it manages (R454). -/
def plugOut (s : State) (h : Nat) : State :=
  if !dpHead s h then s
  else
    let s := hevt (dpUntrain (fset s (Fd.headDpStatHpd h) 0) h) h 1
    if idleManages s h then
      busWrite (idleForget s h) .tollhouse (Adr.headHctrl h) ((rget s (Adr.headHctrl h)).toNat / 2 * 2)
    else s

/-- A short low pulse (R239), with which the sink may report a loss of link (R238). -/
def irqPulse (s : State) (h : Nat) (lost : Bool) : State :=
  if !dpHead s h then s else hevt (if lost then dpUntrain s h else s) h 2

/-- The request of the transaction in progress; a code that R240 does not list acts as one of the six (R8, R480). -/
def auxCode (s : State) (h : Nat) : Nat :=
  let v := fget s (Fd.headAuxCmdCmd h)
  if v ∈ [0, 1, 4, 5, 8, 9] then v else [0, 1, 4, 5, 8, 9].getD (openField s (Fd.headAuxCmdCmd h) 6) 0
def auxReads (s : State) (h : Nat) : Bool := bit (auxCode s h) 0
def auxI2c (s : State) (h : Nat) : Bool := decide (auxCode s h < 8)

/-- The 7 retries of a DEFER are used up, or one more is made (R240). -/
def auxDefer (s : State) (h reply : Nat) : State :=
  let u := headOf s h
  if u.auxTries < 7 then setHead s h { u with auxTries := u.auxTries + 1 } else auxEnd s h reply 0

/-- A sink's answer (R240). -/
def auxAnswer (s : State) (h : Nat) (r : AuxReply) : State :=
  if !dpHead s h || !fbit s (Fd.headAuxStatBusy h) then s
  else
    let n := fget s (Fd.headAuxCmdLen h) + 1
    match r with
    | .ack d =>
      if auxReads s h then auxEnd (auxData s h (d.take n)) h 0 (min d.length n) else auxEnd s h 0 n
    | .nak => auxEnd s h 1 0
    | .defer => auxDefer s h 2
    | .i2cNak => if auxI2c s h then auxEnd s h 4 0 else s
    | .i2cDefer => if auxI2c s h then auxDefer s h 5 else s

/-! ### The commands -/

/-- HEAD_START (R227): a write of 1 to HCTRL.run. -/
def execHeadStart (m : Master) (h : Fin 6) (v : Dword) (s : State) : Host.Outcome State Fault Refusal :=
  if bit v.toNat 0 then writeCmd s m (Adr.headHctrl h) v.toNat else finish s

/-- HEAD_STOP (R228): a write of 0 to HCTRL.run. -/
def execHeadStop (m : Master) (h : Fin 6) (v : Dword) (s : State) : Host.Outcome State Fault Refusal :=
  if bit v.toNat 0 then finish s else writeCmd s m (Adr.headHctrl h) v.toNat

/-- PCLK_LOCK (R227). -/
def execPclkLock (h : Fin 6) (s : State) : Host.Outcome State Fault Refusal :=
  mainCmd s fun s => if headRunning s h then fon s (Fd.headPclkStatLocked h) else s

/-- BEAM_PLACEMENT (R227). -/
def execBeamPlacement (h : Fin 6) (s : State) : Host.Outcome State Fault Refusal := mainCmd s fun s => beamPlace s h

/-- BEAM_ADVANCE (R42). -/
def execBeamAdvance (h : Fin 6) (px : Fin 3) (s : State) : Host.Outcome State Fault Refusal :=
  mainCmd s fun s => beamAdvance s h px.val

/-- SYNC_MARK (R230). -/
def execSyncMark (h : Fin 6) (s : State) : Host.Outcome State Fault Refusal := mainCmd s fun s => syncMark s h

/-- SYNC_HOLDOVER (R230). -/
def execSyncHoldover (h : Fin 6) (s : State) : Host.Outcome State Fault Refusal := mainCmd s fun s => syncHoldover s h

/-- DP_TRAIN (R238). -/
def execDpTrain (m : Master) (h : Fin 6) (v : Dword) (s : State) : Host.Outcome State Fault Refusal :=
  writeCmd s m (Adr.headDpTrain h) v.toNat

/-- TRAINING_END (R238). -/
def execTrainingEnd (h : Fin 6) (ok : Bool) (rate : BitVec 4) (lanes : BitVec 2) (s : State) :
    Host.Outcome State Fault Refusal :=
  mainCmd s fun s => idleTrained (trainingEnd s h ok rate.toNat lanes.toNat) h

/-- PLUG (R239). -/
def execPlug (h : Fin 6) (s : State) : Host.Outcome State Fault Refusal := mainCmd s fun s => plugIn s h

/-- UNPLUG (R239). -/
def execUnplug (h : Fin 6) (s : State) : Host.Outcome State Fault Refusal := mainCmd s fun s => plugOut s h

/-- IRQ_HPD (R239). -/
def execIrqHpd (h : Fin 6) (linkLost : Bool) (s : State) : Host.Outcome State Fault Refusal :=
  mainCmd s fun s => irqPulse s h linkLost

/-- The AUX_CMD value of a request (R240). -/
def auxWord (code : Nat) (addr : Word) (len : BitVec 4) : Nat := code * 2 ^ 28 + addr.toNat * 2 ^ 8 + len.toNat

/-- AUX_NATIVE_READ (R240). -/
def execAuxNativeRead (m : Master) (h : Fin 6) (addr : Word) (len : BitVec 4) (s : State) :
    Host.Outcome State Fault Refusal :=
  writeCmd s m (Adr.headAuxCmd h) (auxWord 9 addr len)

/-- AUX_NATIVE_WRITE (R240). -/
def execAuxNativeWrite (m : Master) (h : Fin 6) (addr : Word) (len : BitVec 4) (s : State) :
    Host.Outcome State Fault Refusal :=
  writeCmd s m (Adr.headAuxCmd h) (auxWord 8 addr len)

/-- AUX_I2C_READ (R240). -/
def execAuxI2cRead (m : Master) (h : Fin 6) (addr : Word) (len : BitVec 4) (s : State) :
    Host.Outcome State Fault Refusal :=
  writeCmd s m (Adr.headAuxCmd h) (auxWord 1 addr len)

/-- AUX_I2C_WRITE (R240). -/
def execAuxI2cWrite (m : Master) (h : Fin 6) (addr : Word) (len : BitVec 4) (s : State) :
    Host.Outcome State Fault Refusal :=
  writeCmd s m (Adr.headAuxCmd h) (auxWord 0 addr len)

/-- AUX_I2C_READ_MOT (R240). -/
def execAuxI2cReadMot (m : Master) (h : Fin 6) (addr : Word) (len : BitVec 4) (s : State) :
    Host.Outcome State Fault Refusal :=
  writeCmd s m (Adr.headAuxCmd h) (auxWord 5 addr len)

/-- AUX_I2C_WRITE_MOT (R240). -/
def execAuxI2cWriteMot (m : Master) (h : Fin 6) (addr : Word) (len : BitVec 4) (s : State) :
    Host.Outcome State Fault Refusal :=
  writeCmd s m (Adr.headAuxCmd h) (auxWord 4 addr len)

/-- AUX_REPLY (R240). -/
def execAuxReply (h : Fin 6) (r : AuxReply) (s : State) : Host.Outcome State Fault Refusal :=
  mainCmd s fun s => auxAnswer s h r

/-- AUX_TIMEOUT (R240): no reply within 400 µs. -/
def execAuxTimeout (h : Fin 6) (s : State) : Host.Outcome State Fault Refusal :=
  mainCmd s fun s => if dpHead s h && fbit s (Fd.headAuxStatBusy h) then auxEnd s h 3 0 else s

end Sys2Proof.Machine
end

