-- ==== Sys2Proof/Machine/Devices.lean ====
section
/-! DEFINITION. The commands of audio, posts and tally units (10_audio.md, 11_posts.md, 12_tally.md). -/

namespace Sys2Proof.Machine

/-- A write command whose value spells something else has no effect of its own. -/
def writeWhen (s : State) (c : Bool) (m : Master) (off v : Nat) : Host.Outcome State Fault Refusal :=
  if c then writeCmd s m off v else finish s

/-! ### Audio -/

/-- SAMPLE_BOUNDARY (R249). -/
def execSampleBoundary (inputs : AudioInputs) (late : List (Fin 512)) (s : State) : Host.Outcome State Fault Refusal :=
  mainCmd s fun s => audioBoundary s inputs.slots inputs.pdm late

/-- KEY_ON (R257): a V_KEY write of 1. -/
def execKeyOn (m : Master) (v : Fin 512) (s : State) : Host.Outcome State Fault Refusal := writeCmd s m (Adr.vKey v) 1

/-- KEY_OFF (R257): a V_KEY write of 2. -/
def execKeyOff (m : Master) (v : Fin 512) (s : State) : Host.Outcome State Fault Refusal := writeCmd s m (Adr.vKey v) 2

/-- CUT (R257): a V_KEY write of 3. -/
def execCut (m : Master) (v : Fin 512) (s : State) : Host.Outcome State Fault Refusal := writeCmd s m (Adr.vKey v) 3

/-! ### Posts -/

/-- PCFG_WRITE (R285). -/
def execPcfgWrite (m : Master) (n : Fin 1024) (v : Dword) (s : State) : Host.Outcome State Fault Refusal :=
  writeCmd s m (Adr.postPcfg n) v.toNat

/-- OUT_SET (R286). -/
def execOutSet (m : Master) (p : Fin 32) (v : Dword) (s : State) : Host.Outcome State Fault Refusal :=
  writeCmd s m (Adr.prtOutSet p) v.toNat

/-- OUT_CLR (R286). -/
def execOutClr (m : Master) (p : Fin 32) (v : Dword) (s : State) : Host.Outcome State Fault Refusal :=
  writeCmd s m (Adr.prtOutClr p) v.toNat

/-- OE_SET (R286). -/
def execOeSet (m : Master) (p : Fin 32) (v : Dword) (s : State) : Host.Outcome State Fault Refusal :=
  writeCmd s m (Adr.prtOeSet p) v.toNat

/-- OE_CLR (R286). -/
def execOeClr (m : Master) (p : Fin 32) (v : Dword) (s : State) : Host.Outcome State Fault Refusal :=
  writeCmd s m (Adr.prtOeClr p) v.toNat

/-- BANK_SUPPLY_CHANGE (R279): the bank's rail is the board's, main or no main; the release of main reset judges it. -/
def execBankSupplyChange (p : Fin 32) (present v33 : Bool) (s : State) : Host.Outcome State Fault Refusal :=
  finish (if s.variant.ports ≤ p then s
    else if mainUp s then bankSupply s p present v33
    else fset (fset s (Fd.prtBankStatPresent p) (boolNat present)) (Fd.prtBankStatV33 p) (boolNat (present && v33)))

/-- PEG (R291). -/
def execPeg (m : Master) (n : Fin 1024) (v : Dword) (s : State) : Host.Outcome State Fault Refusal :=
  writeCmd s m (Adr.postPeg n) v.toNat

/-- SER_TX_PUSH (R288). -/
def execSerTxPush (m : Master) (p : Fin 32) (v : Dword) (s : State) : Host.Outcome State Fault Refusal :=
  writeCmd s m (Adr.prtSerTx p) v.toNat

/-- SER_RX_READ (R288). -/
def execSerRxRead (m : Master) (p : Fin 32) (s : State) : Host.Outcome State Fault Refusal := readCmd s m (Adr.prtSerRx p)

/-- SER_MODE_WRITE (R288). -/
def execSerModeWrite (m : Master) (p : Fin 32) (v : Dword) (s : State) : Host.Outcome State Fault Refusal :=
  writeCmd s m (Adr.prtSerCfg p) v.toNat

/-- BYTE_SENT (R288). -/
def execByteSent (p : Fin 32) (received : Byte) (nacked arbLost : Bool) (s : State) :
    Host.Outcome State Fault Refusal :=
  mainCmd s fun s => serSent s p received nacked arbLost

/-- BYTE_RECEIVED (R288). -/
def execByteReceived (p : Fin 32) (b : Byte) (perr ferr : Bool) (s : State) : Host.Outcome State Fault Refusal :=
  mainCmd s fun s => serReceived s p b perr ferr

/-- CTS_CHANGE (R288). -/
def execCtsChange (p : Fin 32) (level : Bool) (s : State) : Host.Outcome State Fault Refusal :=
  finish (serCtsChange s p level)

/-- PIN_LINE_CONDITION (R289): the filtered level of a pin line changes. -/
def execPinLineCondition (k : Fin 32) (level : Bool) (s : State) : Host.Outcome State Fault Refusal :=
  mainCmd s fun s =>
    if level && !bankLive s (postPort (pilPost s k)) then s else pilChange (boardLevel s (pilPost s k) level) k level

/-! ### Tally units -/

/-- TALLY_GAP_EXPIRY (R299). -/
def execTallyGapExpiry (k : Fin 32) (s : State) : Host.Outcome State Fault Refusal := mainCmd s fun s => tallyGap s k

/-- TALLY_RING_WRITE_DONE (R304). -/
def execTallyRingWriteDone (k : Fin 32) (r : Reply) (s : State) : Host.Outcome State Fault Refusal :=
  mainCmd s fun s => ageEnd (tallyRingDone s k (decide (r = .ok))) (.tally k)

/-- RESULT0_READ (R305). -/
def execResult0Read (m : Master) (k : Fin 32) (s : State) : Host.Outcome State Fault Refusal :=
  readCmd s m (Adr.kResult k 0)

end Sys2Proof.Machine
end

