-- ==== Sys2Proof/Machine/EngAlu.lean ====
section
/-! DEFINITION. The arithmetic, logic, shift and compare instructions of the engines (05_engine_isa.md R131-R137,
R143). -/

namespace Sys2Proof.Machine

/-- An instruction of an engine, as a whole command. -/
def engCmd (s : State) (e : Fin 128) (sh : Shape) (body : State → Eng → Run) : Host.Outcome State Fault Refusal :=
  finish (engIssue s e.val sh body)

/-- The shape of an instruction that may stand anywhere and that every level may issue. -/
def plainShape (size : Nat) (unimpl : Bool) : Shape := { size := size, banned := false, unimpl := unimpl, priv := false }

/-- An instruction that computes one register (R143). -/
def aluRun (s : State) (e : Fin 128) (size : Nat) (unimpl : Bool) (rd : BitVec 4) (f : Eng → Word) :
    Host.Outcome State Fault Refusal :=
  engCmd s e (plainShape size unimpl) fun s v => .next s [(rd.toNat, f v)] [] none

/-- An R-format instruction without sub-operation: x is marked zero (R131). -/
def aluR (s : State) (e : Fin 128) (rd ra rb : BitVec 4) (x : BitVec 2) (f : Word → Word → Word) :
    Host.Outcome State Fault Refusal :=
  aluRun s e 1 (decide (x ≠ 0)) rd fun v => f (greg v ra.toNat) (greg v rb.toNat)

/-- An I-format instruction of one register and a constant. -/
def aluI (s : State) (e : Fin 128) (rd ra : BitVec 4) (f : Word → Word) : Host.Outcome State Fault Refusal :=
  aluRun s e 1 false rd fun v => f (greg v ra.toNat)

/-- An L-format instruction: x6 is marked zero (R131). -/
def aluL (s : State) (e : Fin 128) (rd ra : BitVec 4) (x6 : BitVec 6) (imm : Word) (f : Word → Word → Word) :
    Host.Outcome State Fault Refusal :=
  aluRun s e 2 (decide (x6 ≠ 0)) rd fun v => f (greg v ra.toNat) imm

/-- An instruction that may clamp, and then sets sat (R134). -/
def satRun (s : State) (e : Fin 128) (unimpl : Bool) (f : Eng → List (Nat × Word) × Bool) :
    Host.Outcome State Fault Refusal :=
  engCmd s e (plainShape 1 unimpl) fun s v =>
    let r := f v
    .next (setEng s e.val (satSet v r.2)) r.1 [] none

/-- ADD (R143). -/
def execAdd (e : Fin 128) (rd ra rb : BitVec 4) (x : BitVec 2) (s : State) :
    Host.Outcome State Fault Refusal :=
  aluR s e rd ra rb x fun a b => a + b

/-- SUB (R143). -/
def execSub (e : Fin 128) (rd ra rb : BitVec 4) (x : BitVec 2) (s : State) :
    Host.Outcome State Fault Refusal :=
  aluR s e rd ra rb x fun a b => a - b

/-- ADDS (R134, R143). -/
def execAdds (e : Fin 128) (rd ra rb : BitVec 4) (x : BitVec 2) (s : State) :
    Host.Outcome State Fault Refusal :=
  satRun s e (decide (x ≠ 0)) fun v =>
    let r := addSat (greg v ra.toNat) (greg v rb.toNat)
    ([(rd.toNat, r.1)], r.2)

/-- SUBS (R134, R143). -/
def execSubs (e : Fin 128) (rd ra rb : BitVec 4) (x : BitVec 2) (s : State) :
    Host.Outcome State Fault Refusal :=
  satRun s e (decide (x ≠ 0)) fun v =>
    let r := subSat (greg v ra.toNat) (greg v rb.toNat)
    ([(rd.toNat, r.1)], r.2)

/-- AND (R143). -/
def execAnd (e : Fin 128) (rd ra rb : BitVec 4) (x : BitVec 2) (s : State) :
    Host.Outcome State Fault Refusal :=
  aluR s e rd ra rb x fun a b => a &&& b

/-- OR (R143). -/
def execOr (e : Fin 128) (rd ra rb : BitVec 4) (x : BitVec 2) (s : State) :
    Host.Outcome State Fault Refusal :=
  aluR s e rd ra rb x fun a b => a ||| b

/-- XOR (R143). -/
def execXor (e : Fin 128) (rd ra rb : BitVec 4) (x : BitVec 2) (s : State) :
    Host.Outcome State Fault Refusal :=
  aluR s e rd ra rb x fun a b => a ^^^ b

/-- SHL by rb[4:0] (R134). -/
def execShl (e : Fin 128) (rd ra rb : BitVec 4) (x : BitVec 2) (s : State) :
    Host.Outcome State Fault Refusal :=
  aluR s e rd ra rb x fun a b => shl20 a (b.toNat % 32)

/-- SHR by rb[4:0] (R134). -/
def execShr (e : Fin 128) (rd ra rb : BitVec 4) (x : BitVec 2) (s : State) :
    Host.Outcome State Fault Refusal :=
  aluR s e rd ra rb x fun a b => shr20 a (b.toNat % 32)

/-- SRA by rb[4:0] (R134). -/
def execSra (e : Fin 128) (rd ra rb : BitVec 4) (x : BitVec 2) (s : State) :
    Host.Outcome State Fault Refusal :=
  aluR s e rd ra rb x fun a b => sra20 a (b.toNat % 32)

/-- SEQ (R135). -/
def execSeq (e : Fin 128) (rd ra rb : BitVec 4) (x : BitVec 2) (s : State) :
    Host.Outcome State Fault Refusal :=
  aluR s e rd ra rb x fun a b => cmpWord (decide (a = b))

/-- SNE (R135). -/
def execSne (e : Fin 128) (rd ra rb : BitVec 4) (x : BitVec 2) (s : State) :
    Host.Outcome State Fault Refusal :=
  aluR s e rd ra rb x fun a b => cmpWord (decide (a ≠ b))

/-- SLT, signed (R135). -/
def execSlt (e : Fin 128) (rd ra rb : BitVec 4) (x : BitVec 2) (s : State) :
    Host.Outcome State Fault Refusal :=
  aluR s e rd ra rb x fun a b => cmpWord (a.slt b)

/-- SLTU, unsigned (R135). -/
def execSltu (e : Fin 128) (rd ra rb : BitVec 4) (x : BitVec 2) (s : State) :
    Host.Outcome State Fault Refusal :=
  aluR s e rd ra rb x fun a b => cmpWord (a.ult b)

/-- MUL to a register pair: signed, unsigned, or signed by unsigned (R137, R143). -/
def execMul (e : Fin 128) (rd ra rb : BitVec 4) (x : BitVec 2) (s : State) : Host.Outcome State Fault Refusal :=
  engCmd s e (plainShape 1 (decide (rd.toNat % 2 = 1 ∨ x = 3))) fun s v =>
    .next s (pairWrites rd.toNat (wrapN 40 (mulExact x.toNat (greg v ra.toNat) (greg v rb.toNat)))) [] none

/-- MAC on a register pair: x = 0 wraps, x = 1 clamps (R134, R137, R143). -/
def execMac (e : Fin 128) (rd ra rb : BitVec 4) (x : BitVec 2) (s : State) : Host.Outcome State Fault Refusal :=
  satRun s e (decide (rd.toNat % 2 = 1 ∨ 2 ≤ x.toNat)) fun v =>
    let r := macExact (decide (x = 1)) (pairNat v rd.toNat) (greg v ra.toNat) (greg v rb.toNat)
    (pairWrites rd.toNat r.1, r.2)

/-- ADDI (R143). -/
def execAddi (e : Fin 128) (rd ra : BitVec 4) (imm : BitVec 6) (s : State) :
    Host.Outcome State Fault Refusal :=
  aluI s e rd ra fun a => a + sext6 imm

/-- ANDI (R143). -/
def execAndi (e : Fin 128) (rd ra : BitVec 4) (imm : BitVec 6) (s : State) :
    Host.Outcome State Fault Refusal :=
  aluI s e rd ra fun a => a &&& zext6 imm

/-- ORI (R143). -/
def execOri (e : Fin 128) (rd ra : BitVec 4) (imm : BitVec 6) (s : State) :
    Host.Outcome State Fault Refusal :=
  aluI s e rd ra fun a => a ||| zext6 imm

/-- XORI (R143). -/
def execXori (e : Fin 128) (rd ra : BitVec 4) (imm : BitVec 6) (s : State) :
    Host.Outcome State Fault Refusal :=
  aluI s e rd ra fun a => a ^^^ zext6 imm

/-- SHLI by imm6 (R134). -/
def execShli (e : Fin 128) (rd ra : BitVec 4) (imm : BitVec 6) (s : State) :
    Host.Outcome State Fault Refusal :=
  aluI s e rd ra fun a => shl20 a imm.toNat

/-- SHRI by imm6 (R134). -/
def execShri (e : Fin 128) (rd ra : BitVec 4) (imm : BitVec 6) (s : State) :
    Host.Outcome State Fault Refusal :=
  aluI s e rd ra fun a => shr20 a imm.toNat

/-- SRAI by imm6 (R134). -/
def execSrai (e : Fin 128) (rd ra : BitVec 4) (imm : BitVec 6) (s : State) :
    Host.Outcome State Fault Refusal :=
  aluI s e rd ra fun a => sra20 a imm.toNat

/-- SEQI (R135). -/
def execSeqi (e : Fin 128) (rd ra : BitVec 4) (imm : BitVec 6) (s : State) :
    Host.Outcome State Fault Refusal :=
  aluI s e rd ra fun a => cmpWord (decide (a = sext6 imm))

/-- SLTI, signed (R135). -/
def execSlti (e : Fin 128) (rd ra : BitVec 4) (imm : BitVec 6) (s : State) :
    Host.Outcome State Fault Refusal :=
  aluI s e rd ra fun a => cmpWord (a.slt (sext6 imm))

/-- SLTUI, unsigned (R135). -/
def execSltui (e : Fin 128) (rd ra : BitVec 4) (imm : BitVec 6) (s : State) :
    Host.Outcome State Fault Refusal :=
  aluI s e rd ra fun a => cmpWord (a.ult (zext6 imm))

/-- SAT n: n = imm6 from 1 to 20 (R134, R143). -/
def execSat (e : Fin 128) (rd ra : BitVec 4) (imm : BitVec 6) (s : State) : Host.Outcome State Fault Refusal :=
  satRun s e (decide (imm.toNat = 0 ∨ 20 < imm.toNat)) fun v =>
    let r := clampWord imm.toNat (greg v ra.toNat).toInt
    ([(rd.toNat, r.1)], r.2)

/-- ADDL (R143). -/
def execAddl (e : Fin 128) (rd ra : BitVec 4) (x6 : BitVec 6) (imm : Word) (s : State) :
    Host.Outcome State Fault Refusal :=
  aluL s e rd ra x6 imm fun a b => a + b

/-- ANDL (R143). -/
def execAndl (e : Fin 128) (rd ra : BitVec 4) (x6 : BitVec 6) (imm : Word) (s : State) :
    Host.Outcome State Fault Refusal :=
  aluL s e rd ra x6 imm fun a b => a &&& b

/-- ORL (R143). -/
def execOrl (e : Fin 128) (rd ra : BitVec 4) (x6 : BitVec 6) (imm : Word) (s : State) :
    Host.Outcome State Fault Refusal :=
  aluL s e rd ra x6 imm fun a b => a ||| b

/-- XORL (R143). -/
def execXorl (e : Fin 128) (rd ra : BitVec 4) (x6 : BitVec 6) (imm : Word) (s : State) :
    Host.Outcome State Fault Refusal :=
  aluL s e rd ra x6 imm fun a b => a ^^^ b

/-- SEQL (R135). -/
def execSeql (e : Fin 128) (rd ra : BitVec 4) (x6 : BitVec 6) (imm : Word) (s : State) :
    Host.Outcome State Fault Refusal :=
  aluL s e rd ra x6 imm fun a b => cmpWord (decide (a = b))

/-- SLTL, signed (R135). -/
def execSltl (e : Fin 128) (rd ra : BitVec 4) (x6 : BitVec 6) (imm : Word) (s : State) :
    Host.Outcome State Fault Refusal :=
  aluL s e rd ra x6 imm fun a b => cmpWord (a.slt b)

/-- SLTUL, unsigned (R135). -/
def execSltul (e : Fin 128) (rd ra : BitVec 4) (x6 : BitVec 6) (imm : Word) (s : State) :
    Host.Outcome State Fault Refusal :=
  aluL s e rd ra x6 imm fun a b => cmpWord (a.ult b)

end Sys2Proof.Machine
end

