-- ==== Sys2Proof/Machine/EngMemory.lean ====
section
/-! DEFINITION. The load, store and tag instructions of the engines (05_engine_isa.md R114-R123, R129, R130, R143). -/

namespace Sys2Proof.Machine

/-! ### One word -/

/-- An access to the engine's RAMs or to a register of its own: it waits while an earlier access to the same target is
still on its way (R123, R130). -/
def nearRun (s : State) (e : Nat) (v : Eng) (a : Word) (r : Run) : Run :=
  if olderAt s v.fab (nearTarget e a) then .stall else r

/-- A word load: RAM, window, or device register (R113, R123). -/
def loadRun (e : Nat) (rd : BitVec 4) (a : Word) (s : State) (v : Eng) : Run :=
  match engLoc e a with
  | .ram k slot =>
    let r := ramReadWord s k slot
    nearRun s e v a (if r.2.1 then .fault r.2.2 5 a else .next r.2.2 [] [(rd, r.1)] none)
  | .window k o => .leave s rd (.chip (winAddr v k o))
  | .device d =>
    if !devListed e d then .fault s 4 a
    else if devFar d then .leave s rd (.dev a)
    else
      let r := devRead s e d
      nearRun s e v a (.next r.2 [] [(rd, BitVec.ofNat 20 r.1)] none)
  | .unmapped => .fault s 4 a

/-- A store is posted, the ninth once one is acknowledged (R124, R130). -/
def postRun (s : State) (e : Nat) (v : Eng) (t : FabTgt) (val : Word) : Run :=
  if 8 ≤ wpend v then .stall
  else .next (setEng s e { v with fab := v.fab ++ [FabOp.store t val v.level] }) [] [] none

/-- A word store: the watch bit first, then a read-modify-write in RAM; a posted store; a device register of the engine's
own (R116, R121, R124, R130). -/
def storeRun (e : Nat) (val a : Word) (s : State) (v : Eng) : Run :=
  match engLoc e a with
  | .ram k slot =>
    if bit (granOf s k).watch.toNat slot then .fault s 6 a
    else
      let r := ramWriteWord s k slot val
      nearRun s e v a (if r.1 then .next r.2 [] [] none else .fault r.2 5 a)
  | .window k o => postRun s e v (.chip (winAddr v k o)) val
  | .device d =>
    if isWin d && decide (v.level = 2) then .fault s 2 v.pc
    else if !devListed e d then .fault s 4 a
    else if devFar d then postRun s e v (.dev a) val
    else nearRun s e v a (.next (devWrite s e d val.toNat) [] [] none)
  | .unmapped => .fault s 4 a

/-- LD (R123, R143). -/
def execLd (e : Fin 128) (rd ra : BitVec 4) (imm : BitVec 6) (s : State) : Host.Outcome State Fault Refusal :=
  engCmd s e (plainShape 1 false) fun s v => loadRun e.val rd (effAddr v ra (sext6 imm)) s v

/-- ST (R116, R143). -/
def execSt (e : Fin 128) (rs ra : BitVec 4) (imm : BitVec 6) (s : State) : Host.Outcome State Fault Refusal :=
  engCmd s e (plainShape 1 false) fun s v => storeRun e.val (greg v rs.toNat) (effAddr v ra (sext6 imm)) s v

/-- LDL (R123, R143). -/
def execLdl (e : Fin 128) (rd ra : BitVec 4) (x6 : BitVec 6) (imm : Word) (s : State) :
    Host.Outcome State Fault Refusal :=
  engCmd s e (plainShape 2 (decide (x6 ≠ 0))) fun s v => loadRun e.val rd (effAddr v ra imm) s v

/-- STL (R116, R143). -/
def execStl (e : Fin 128) (rs ra : BitVec 4) (x6 : BitVec 6) (imm : Word) (s : State) :
    Host.Outcome State Fault Refusal :=
  engCmd s e (plainShape 2 (decide (x6 ≠ 0))) fun s v => storeRun e.val (greg v rs.toNat) (effAddr v ra imm) s v

/-! ### Whole granules and tags: RAM only (R120) -/

/-- An access to the granule of an address; anywhere outside RAM it takes the Bus fault. -/
def granRun (e : Nat) (a : Word) (s : State) (v : Eng) (f : Nat → Run) : Run :=
  match engLoc e a with
  | .ram k _ => nearRun s e v a (f k)
  | _ => .fault s 4 a

/-- LDT (R116, R143). -/
def execLdt (e : Fin 128) (rd ra : BitVec 4) (imm : BitVec 6) (s : State) : Host.Outcome State Fault Refusal :=
  engCmd s e (plainShape 1 (decide (13 < rd.toNat))) fun s v =>
    let a := effAddr v ra (sext6 imm)
    granRun e.val a s v fun k =>
      let r := ramCheck s k
      let g := granOf s k
      if r.1 then .fault r.2 5 a else .next r.2 [] [(rd, g.w0), (rd + 1, g.w1), (rd + 2, g.w2)] none

/-- STT: the tag bits stay, but on an uncorrectable granule they become 0 (R116, R119, R121). -/
def execStt (e : Fin 128) (rs ra : BitVec 4) (imm : BitVec 6) (s : State) : Host.Outcome State Fault Refusal :=
  engCmd s e (plainShape 1 (decide (13 < rs.toNat))) fun s v =>
    let a := effAddr v ra (sext6 imm)
    granRun e.val a s v fun k =>
      let g := granOf s k
      let w := fun i => greg v (rs.toNat + i)
      if g.mark = .bad then
        .next (ramStore s k { w0 := w 0, w1 := w 1, w2 := w 2, lock := false, watch := 0, mark := .ok }) [] [] none
      else if g.watch ≠ 0 then .fault s 6 a
      else .next (ramStore s k { g with w0 := w 0, w1 := w 1, w2 := w 2 }) [] [] none

/-- LCK (R120). -/
def execLck (e : Fin 128) (rd ra : BitVec 4) (imm : BitVec 6) (s : State) : Host.Outcome State Fault Refusal :=
  engCmd s e (plainShape 1 false) fun s v =>
    let a := effAddr v ra (sext6 imm)
    granRun e.val a s v fun k =>
      let r := ramCheck s k
      let g := granOf s k
      if r.1 then .fault r.2 5 a
      else .next (ramStore r.2 k { g with lock := true }) [] [(rd, cmpWord g.lock)] none

/-- A change of a granule's tag bits: no fault on an uncorrectable granule, which stays so (DEDUCED, log entry 28). -/
def tagStore (s : State) (k : Nat) (f : Granule → Granule) : State :=
  let g := granOf s k
  if g.mark = .bad then setGran s k (f g) else ramStore (ramCheck s k).2 k (f g)

/-- ULK: the rd field is marked zero (R120, R143). -/
def execUlk (e : Fin 128) (rdz ra : BitVec 4) (imm : BitVec 6) (s : State) : Host.Outcome State Fault Refusal :=
  engCmd s e (plainShape 1 (decide (rdz ≠ 0))) fun s v =>
    let a := effAddr v ra (sext6 imm)
    granRun e.val a s v fun k => .next (tagStore s k fun g => { g with lock := false }) [] [] none

/-- TAGR: lock in bit 3, watch in bits [2:0] (R121). -/
def execTagr (e : Fin 128) (rd ra : BitVec 4) (imm : BitVec 6) (s : State) : Host.Outcome State Fault Refusal :=
  engCmd s e (plainShape 1 false) fun s v =>
    let a := effAddr v ra (sext6 imm)
    granRun e.val a s v fun k =>
      let r := ramCheck s k
      let g := granOf s k
      if r.1 then .fault r.2 5 a
      else .next r.2 [] [(rd, BitVec.ofNat 20 (8 * boolNat g.lock + g.watch.toNat))] none

/-- TAGW, at System or Secure level (R121). -/
def execTagw (e : Fin 128) (rs ra : BitVec 4) (imm : BitVec 6) (s : State) : Host.Outcome State Fault Refusal :=
  engCmd s e { plainShape 1 false with priv := decide ((engOf s e.val).level = 2) } fun s v =>
    let a := effAddr v ra (sext6 imm)
    granRun e.val a s v fun k =>
      .next (tagStore s k fun g => { g with watch := BitVec.ofNat 3 (greg v rs.toNat).toNat }) [] [] none

end Sys2Proof.Machine
end

