-- ==== Sys2Proof/Machine/EngControl.lean ====
section
/-! DEFINITION. Branches, the hardware loop, WAIT, traps, level changes and special registers, and the events that come
to an engine from outside its program (05_engine_isa.md R138-R143, 06_engine_exceptions.md). -/

namespace Sys2Proof.Machine

/-- The shape of an instruction that a delay slot and a DROP shadow forbid (R139, R162). -/
def barredShape (size : Nat) (unimpl priv : Bool) : Shape := { size := size, banned := true, unimpl := unimpl, priv := priv }

/-- The level that an engine runs at. -/
def levelOf (s : State) (e : Fin 128) : BitVec 2 := (engOf s e.val).level

/-! ### Branches and jumps (R138) -/

/-- A branch on a test of ra, to an offset from its delay slot. -/
def branchRun (s : State) (e : Fin 128) (size : Nat) (unimpl : Bool) (ra : BitVec 4) (onZero : Bool) (off : Word) :
    Host.Outcome State Fault Refusal :=
  engCmd s e (barredShape size unimpl false) fun _ v =>
    .branch (v.pc + BitVec.ofNat 20 size + off) (decide (greg v ra.toNat = 0) == onZero) false

/-- BZ (R138). -/
def execBz (e : Fin 128) (ra : BitVec 4) (off : BitVec 10) (s : State) : Host.Outcome State Fault Refusal :=
  branchRun s e 1 false ra true (sext10 off)

/-- BNZ (R138). -/
def execBnz (e : Fin 128) (ra : BitVec 4) (off : BitVec 10) (s : State) : Host.Outcome State Fault Refusal :=
  branchRun s e 1 false ra false (sext10 off)

/-- BZL (R138). -/
def execBzl (e : Fin 128) (ra : BitVec 4) (z : BitVec 10) (off : Word) (s : State) : Host.Outcome State Fault Refusal :=
  branchRun s e 2 (decide (z ≠ 0)) ra true off

/-- BNZL (R138). -/
def execBnzl (e : Fin 128) (ra : BitVec 4) (z : BitVec 10) (off : Word) (s : State) :
    Host.Outcome State Fault Refusal :=
  branchRun s e 2 (decide (z ≠ 0)) ra false off

/-- J (R138). -/
def execJ (e : Fin 128) (z : BitVec 14) (target : Word) (s : State) : Host.Outcome State Fault Refusal :=
  engCmd s e (barredShape 2 (decide (z ≠ 0)) false) fun _ _ => .branch target true false

/-- JAL: g15 takes the address after the slot, with the slot (R138, R158). -/
def execJal (e : Fin 128) (z : BitVec 14) (target : Word) (s : State) : Host.Outcome State Fault Refusal :=
  engCmd s e (barredShape 2 (decide (z ≠ 0)) false) fun _ _ => .branch target true true

/-- JR (R138). -/
def execJr (e : Fin 128) (rdz ra rbz : BitVec 4) (x : BitVec 2) (s : State) : Host.Outcome State Fault Refusal :=
  engCmd s e (barredShape 1 (decide (rdz ≠ 0 ∨ rbz ≠ 0 ∨ x ≠ 0)) false) fun _ v => .branch (greg v ra.toNat) true false

/-- JALR (R138). -/
def execJalr (e : Fin 128) (rdz ra rbz : BitVec 4) (x : BitVec 2) (s : State) : Host.Outcome State Fault Refusal :=
  engCmd s e (barredShape 1 (decide (rdz ≠ 0 ∨ rbz ≠ 0 ∨ x ≠ 0)) false) fun _ v => .branch (greg v ra.toNat) true true

/-! ### The hardware loop (R140) -/

/-- LC, LS, LE and la; a count of 0 leaves for the instruction after the one at LE. -/
def loopRun (e : Nat) (count endAddr : Word) (s : State) (v : Eng) : Run :=
  let t := setEng s e { v with lc := count, ls := v.pc + 2, le := endAddr, la := decide (count ≠ 0) }
  if count = 0 then .jump t (endAddr + sizeAt t e endAddr) else .next t [] [] none

/-- LOOP (R140). -/
def execLoop (e : Fin 128) (z4 ra : BitVec 4) (z6 : BitVec 6) (endAddr : Word) (s : State) :
    Host.Outcome State Fault Refusal :=
  engCmd s e (barredShape 2 (decide (z4 ≠ 0 ∨ z6 ≠ 0)) false) fun s v => loopRun e.val (greg v ra.toNat) endAddr s v

/-- LOOPI (R140). -/
def execLoopi (e : Fin 128) (count : BitVec 14) (endAddr : Word) (s : State) : Host.Outcome State Fault Refusal :=
  engCmd s e (barredShape 2 false false) fun s v => loopRun e.val (count.zeroExtend 20) endAddr s v

/-! ### WAIT (R92) -/

/-- WAIT: the lowest masked input that is not zero, or sleep. -/
def execWait (e : Fin 128) (rd : BitVec 4) (mask : BitVec 8) (z : BitVec 2) (s : State) :
    Host.Outcome State Fault Refusal :=
  engCmd s e (barredShape 1 (decide (z ≠ 0)) false) fun s _ =>
    match tiReady s e.val mask.toNat with
    | some k => .next (tiDec s e.val k) [(rd.toNat, BitVec.ofNat 20 k)] [] none
    | none => .sleep rd mask

/-- WAIT_WAKE (R92, R93). -/
def execWaitWake (e : Fin 128) (s : State) : Host.Outcome State Fault Refusal := mainCmd s fun s => waitWake s e.val

/-! ### Traps and levels (R143-R147, R162, R164) -/

/-- TRAP n; 240-255 form the Secure gate (R147, R149). -/
def execTrap (e : Fin 128) (n : BitVec 8) (s : State) : Host.Outcome State Fault Refusal :=
  engCmd s e (barredShape 1 false false) fun _ _ => .trap n.toNat

/-- RETE (R164). -/
def execRete (e : Fin 128) (z : BitVec 8) (s : State) : Host.Outcome State Fault Refusal :=
  engCmd s e (barredShape 1 (decide (z ≠ 0)) (decide (levelOf s e = 2))) fun _ _ => .rete

/-- DROP n: CEIL at once, the level after the shadow (R146, R162). -/
def execDrop (e : Fin 128) (z : BitVec 6) (level : BitVec 2) (s : State) : Host.Outcome State Fault Refusal :=
  engCmd s e (barredShape 1 (decide (z ≠ 0 ∨ level = 3)) (decide (level.toNat < (levelOf s e).toNat))) fun s v =>
    .next (setEng s e.val { v with ceil := level }) [] [] (some level)

/-- FENCE (R130). -/
def execFence (e : Fin 128) (z : BitVec 8) (s : State) : Host.Outcome State Fault Refusal :=
  engCmd s e (plainShape 1 (decide (z ≠ 0))) fun s v => if wpend v = 0 then .next s [] [] none else .stall

/-- BRK: debug halt where it is enabled and debug access is open (R167, R168). -/
def execBrk (e : Fin 128) (z : BitVec 8) (s : State) : Host.Outcome State Fault Refusal :=
  let on := fbit s (Fd.engDbgCtlBrkEn (e.val / 4) (e.val % 4)) && debugAllowed s e.val
  engCmd s e (barredShape 1 (decide (z ≠ 0) || !on) false) fun _ _ => .halt

/-- MFS (R111). -/
def execMfs (e : Fin 128) (rd sr : BitVec 4) (s : State) : Host.Outcome State Fault Refusal :=
  engCmd s e { plainShape 1 false with priv := decide (levelOf s e = 2 ∧ 4 ≤ sr.toNat) } fun s v =>
    .next s [(rd.toNat, sregRead v sr.toNat)] [] none

/-- MTS (R111, R112, R157). -/
def execMts (e : Fin 128) (sr ra : BitVec 4) (s : State) : Host.Outcome State Fault Refusal :=
  engCmd s e { plainShape 1 false with priv := decide (levelOf s e = 2 ∧ 4 ≤ sr.toNat) } fun s v =>
    .next (setEng s e.val (sregWrite v sr.toNat (greg v ra.toNat) (decide (v.level = 2)))) [] [] none

/-! ### The fabric and the RAMs -/

/-- WINDOW_LOAD_RESPONSE (R129): `fabric` is what the transfer met on the way (R318). -/
def execWindowLoadResponse (e : Fin 128) (fabric : Fabric) (s : State) : Host.Outcome State Fault Refusal :=
  mainCmd s fun s => loadAnswer s e.val fabric

/-- POSTED_STORE_ACK (R130). -/
def execPostedStoreAck (e : Fin 128) (fabric : Fabric) (s : State) : Host.Outcome State Fault Refusal :=
  mainCmd s fun s => storeAnswer s e.val fabric

/-- OUTSIDE_ACCESS to engine RAM (R118, R309). -/
def execOutsideAccess (m : Master) (a : Addr) (wr : Option Dword) (s : State) : Host.Outcome State Fault Refusal :=
  mainCmd s fun s => outsideAnswer s m a wr

/-- The key of a granule of an engine RAM that exists. -/
def ramRefKey (s : State) (r : RamRef) (g : Nat) : Option Nat :=
  match r with
  | .engineLocal e => if engPresent s e.val ∧ g < 8192 then some (localKey e.val g) else none
  | .quadShared q => if quadPresent s q.val ∧ g < 32768 then some (quadKey q.val g) else none

/-- RAM_WRITE_BACK (R119). -/
def execRamWriteBack (r : RamRef) (granule : Nat) (s : State) : Host.Outcome State Fault Refusal :=
  mainCmd s fun s => match ramRefKey s r granule with
    | some k => Sys2Proof.Machine.ramWriteBack s k
    | none => s

/-! ### Interrupts, watchdog, debug (R150, R166, R167) -/

/-- INTERRUPT_TAKE (R150, R347). -/
def execInterruptTake (e : Fin 128) (s : State) : Host.Outcome State Fault Refusal :=
  mainCmd s fun s => interruptEnter s e.val

/-- WATCHDOG_FIRST_STAGE (R166). -/
def execWatchdogFirstStage (e : Fin 128) (s : State) : Host.Outcome State Fault Refusal :=
  mainCmd s fun s => wdFirst s e.val

/-- WATCHDOG_ENTRY (R156, R166). -/
def execWatchdogEntry (e : Fin 128) (s : State) : Host.Outcome State Fault Refusal :=
  mainCmd s fun s => wdEnter s e.val

/-- WATCHDOG_SECOND_STAGE (R166). -/
def execWatchdogSecondStage (e : Fin 128) (s : State) : Host.Outcome State Fault Refusal :=
  mainCmd s fun s => wdSecond s e.val

/-- WDOG_KICK (R166). -/
def execWdogKick (m : Master) (e : Fin 128) (v : Dword) (s : State) : Host.Outcome State Fault Refusal :=
  writeCmd s m (0x1001108 + 0x10000 * (e.val / 4) + 0x1000 * (e.val % 4)) v.toNat

/-- The debug control register of an engine. -/
def dbgCtlAt (e : Fin 128) : Nat := Adr.engDbgCtl (e.val / 4) (e.val % 4)

/-- DEBUG_HALT_REQUEST: a DBG_CTL write with halt 1 (R167). -/
def execDebugHaltRequest (m : Master) (e : Fin 128) (v : Dword) (s : State) : Host.Outcome State Fault Refusal :=
  if bit v.toNat 19 then writeCmd s m (dbgCtlAt e) v.toNat else .next s

/-- DEBUG_HALT_ENTRY (R156, R167). -/
def execDebugHaltEntry (e : Fin 128) (s : State) : Host.Outcome State Fault Refusal :=
  mainCmd s fun s => haltEnter s e.val

/-- STEP: a DBG_CTL write with step 1 (R167). -/
def execStep (m : Master) (e : Fin 128) (v : Dword) (s : State) : Host.Outcome State Fault Refusal :=
  if bit v.toNat 18 then writeCmd s m (dbgCtlAt e) v.toNat else .next s

/-- DEBUG_RESUME: a DBG_CTL write with halt 0 and step 0 (R167). -/
def execDebugResume (m : Master) (e : Fin 128) (v : Dword) (s : State) : Host.Outcome State Fault Refusal :=
  if bit v.toNat 19 || bit v.toNat 18 then .next s else writeCmd s m (dbgCtlAt e) v.toNat

end Sys2Proof.Machine
end

