-- ==== Sys2Proof/Machine/Moving.lean ====
section
/-! DEFINITION. The commands of memory and the movers (13_memory_movers.md). -/

namespace Sys2Proof.Machine

/-- A capacity that a channel accepts: 1, 2, 4 or 8 GiB, in units of 256 MiB (R310). -/
def capListed (cap : Nat) : Bool := decide (cap = 4 ∨ cap = 8 ∨ cap = 16 ∨ cap = 32)

/-- DRAM_TRAINING_DONE (R310): a channel that still trains ends its training with its capacity, 1 to 8 GiB, or fails. -/
def execDramTrainingDone (ch : Fin 4) (ok : Bool) (cap : BitVec 8) (s : State) : Host.Outcome State Fault Refusal :=
  mainCmd s fun s =>
    if s.variant.channels ≤ ch || (ok && !capListed cap.toNat) || fbit s (Fd.mcStatTrained ch) || fbit s (Fd.mcStatFail ch) then s
    else trainChannel s ch ok cap.toNat

/-- PATROL_SCRUB (R314): one line of a channel whose MC_SCRUB.en is set. -/
def execPatrolScrub (ch : Fin 4) (s : State) : Host.Outcome State Fault Refusal :=
  mainCmd s fun s => if fbit s (Fd.mcStatTrained ch) && fbit s (Fd.mcScrubEn ch) then scrubLine s ch else s

/-- DRAM_WRITE_BACK (R314). -/
def execDramWriteBack (a : Addr) (s : State) : Host.Outcome State Fault Refusal :=
  mainCmd s fun s => dramWriteBack s (a.toNat / 8)

/-- REQUEST_AGEING (R312). -/
def execRequestAgeing (r : Requester) (s : State) : Host.Outcome State Fault Refusal := mainCmd s fun s => ageRise s r

/-! ### Bay DMA: channel c is channel c mod 2 of quad c / 2 -/

/-- BAY_DMA_GO (R324). -/
def execBayDmaGo (m : Master) (c : Fin 64) (v : Dword) (s : State) : Host.Outcome State Fault Refusal :=
  writeWhen s (bit v.toNat 19) m (Adr.dCtrl (c / 2) (c % 2)) v.toNat

/-- BAY_DMA_ABORT (R324). -/
def execBayDmaAbort (m : Master) (c : Fin 64) (v : Dword) (s : State) : Host.Outcome State Fault Refusal :=
  writeWhen s (bit v.toNat 18) m (Adr.dCtrl (c / 2) (c % 2)) v.toNat

/-- The channel's quad is out of reset. -/
def dmaOpenQuad (s : State) (q : Nat) : Bool := quadPresent s q && !inQuadReset s q

/-- BAY_DMA_RUN_START (R324). -/
def execBayDmaRunStart (c : Fin 64) (s : State) : Host.Outcome State Fault Refusal :=
  mainCmd s fun s => if dmaOpenQuad s (c / 2) then dmaTake s (c / 2) (c % 2) else s

/-- BAY_DMA_COMPLETE (R325). -/
def execBayDmaComplete (c : Fin 64) (s : State) : Host.Outcome State Fault Refusal :=
  mainCmd s fun s => if dmaOpenQuad s (c / 2) then dmaComplete s (c / 2) (c % 2) else s

/-! ### The Barge -/

/-- BARGE_ARM (R332). -/
def execBargeArm (m : Master) (n : Fin 16) (v : Dword) (s : State) : Host.Outcome State Fault Refusal :=
  writeWhen s (bit v.toNat 19) m (Adr.bgChCtrl n) v.toNat

/-- BARGE_ABORT (R333). -/
def execBargeAbort (m : Master) (n : Fin 16) (v : Dword) (s : State) : Host.Outcome State Fault Refusal :=
  writeWhen s (bit v.toNat 18) m (Adr.bgChCtrl n) v.toNat

/-- SHADOW_LOAD (R332). -/
def execShadowLoad (n : Fin 16) (s : State) : Host.Outcome State Fault Refusal := mainCmd s fun s => bargeLoad s n

/-- BARGE_TRANSFER_START (R332). -/
def execBargeTransferStart (n : Fin 16) (s : State) : Host.Outcome State Fault Refusal := mainCmd s fun s => bargeStart s n

/-- BARGE_TRANSFER_COMPLETE (R333). -/
def execBargeTransferComplete (n : Fin 16) (hostData : List Byte) (hostReply : Reply) (s : State) :
    Host.Outcome State Fault Refusal :=
  mainCmd s fun s => bargeComplete s n hostData hostReply

/-! ### The Planer: a go write, by its operation (R337) -/

/-- A go write of operation `op`. -/
def plCommand (op : Nat) (m : Master) (v : Dword) (s : State) : Host.Outcome State Fault Refusal :=
  writeWhen s (bit v.toNat 19 && decide (bits v.toNat 17 15 = op)) m Adr.plCmd v.toNat

/-- COPY (R338). -/
def execCopy (m : Master) (v : Dword) (s : State) : Host.Outcome State Fault Refusal := plCommand 0 m v s

/-- FILL (R337). -/
def execFill (m : Master) (v : Dword) (s : State) : Host.Outcome State Fault Refusal := plCommand 1 m v s

/-- COLOUR_KEYED_COPY (R337). -/
def execColourKeyedCopy (m : Master) (v : Dword) (s : State) : Host.Outcome State Fault Refusal := plCommand 2 m v s

/-- SOLID_RECTANGLE (R337). -/
def execSolidRectangle (m : Master) (v : Dword) (s : State) : Host.Outcome State Fault Refusal := plCommand 3 m v s

/-- LINE (R339). -/
def execLine (m : Master) (v : Dword) (s : State) : Host.Outcome State Fault Refusal := plCommand 4 m v s

/-- PLANER_ABORT (R340). -/
def execPlanerAbort (m : Master) (v : Dword) (s : State) : Host.Outcome State Fault Refusal :=
  writeWhen s (bit v.toNat 18) m Adr.plCmd v.toNat

/-- PLANER_COMPLETE (R340). -/
def execPlanerComplete (s : State) : Host.Outcome State Fault Refusal :=
  mainCmd s fun s => plComplete s

end Sys2Proof.Machine
end

