-- ==== Sys2Proof/Machine/Raising.lean ====
section
/-! DEFINITION. The commands of the interrupt controller and of raise groups (14_interrupts.md, 15_raising.md). -/

namespace Sys2Proof.Machine

/-- E_EOI (R348). -/
def execEEoi (m : Master) (e : Fin 128) (s : State) : Host.Outcome State Fault Refusal := writeCmd s m (Adr.icEEoi e) 1

/-- V_CLAIM_READ (R351). -/
def execVClaimRead (m : Master) (v : Fin 64) (s : State) : Host.Outcome State Fault Refusal :=
  readCmd s m (Adr.icVClaim v)

/-- V_EOI (R351). -/
def execVEoi (m : Master) (v : Fin 64) (s : State) : Host.Outcome State Fault Refusal := writeCmd s m (Adr.icVEoi v) 1

/-- MSI_X_MESSAGE (R351). -/
def execMsiXMessage (v : Fin 64) (s : State) : Host.Outcome State Fault Refusal := mainCmd s fun s => vecSend s v

/-- SW_SET (R353). -/
def execSwSet (m : Master) (v : Dword) (s : State) : Host.Outcome State Fault Refusal := writeCmd s m Adr.icSwSet v.toNat

/-- HOLD_OFF_EXPIRY (R352). -/
def execHoldOffExpiry (g : Fin 64) (s : State) : Host.Outcome State Fault Refusal := mainCmd s fun s => holdExpire s g

/-! ### Raise groups -/

/-- The live register that an offset names, itself or through its staged copy (R363). -/
def liveOff (off : Nat) : Nat := if 0x3000000 ≤ off ∧ off < 0x3100000 then off - 0x3000000 else off

/-- STAGED_WRITE (R363): a write of a stageable register of a member, at its live or its staged address. -/
def execStagedWrite (m : Master) (off : Nat) (v : Dword) (s : State) : Host.Outcome State Fault Refusal :=
  writeWhen s (stagedIn s (liveOff off)).isSome m off v.toNat

/-- RAISE_ARM (R365): an RG_CTRL write with arm set. -/
def execRaiseArm (m : Master) (g : Fin 16) (v : Dword) (s : State) : Host.Outcome State Fault Refusal :=
  writeWhen s (bit v.toNat 19) m (Adr.rgCtrl g) v.toNat

/-- RAISE_ABORT (R367): an RG_CTRL write with abort set. -/
def execRaiseAbort (m : Master) (g : Fin 16) (v : Dword) (s : State) : Host.Outcome State Fault Refusal :=
  writeWhen s (bit v.toNat 18) m (Adr.rgCtrl g) v.toNat

/-- RAISE_ENABLE (R368): an RG_CTRL write, by its en. -/
def execRaiseEnable (m : Master) (g : Fin 16) (v : Dword) (s : State) : Host.Outcome State Fault Refusal :=
  writeCmd s m (Adr.rgCtrl g) v.toNat

/-- The copy of one staged register into its live register: a write by no master, judged by nothing (R364). -/
def rgCopy (s : State) (p : Nat × Nat) : State :=
  match RegMap.lookup p.1 with
  | some h =>
    let s := regEffect s .tollhouse p.1 h p.2
    { s with rg := { s.rg with marked := NSet.del p.1 s.rg.marked } }
  | none => s

/-- The pending slots `m` whose triggers act apply in one cycle (R364-R366). -/
def rgApply (s : State) (g m : Nat) : State :=
  let copies := (rgCopies s g m).map fun o => (o, stagedGet s o)
  rgApplied (copies.foldl rgCopy s) g m

/-- APPLY (R364, R365): `slots` are the pending slots whose triggers acted in one cycle, the oldest such cycle first, and all
of them; other slots name no apply that is due. -/
def execApply (g : Fin 16) (slots : BitVec 8) (s : State) : Host.Outcome State Fault Refusal :=
  mainCmd s fun s => match Sparse.get [] g.val s.rg.due with
    | [] => s
    | p :: t =>
      let m := if fbit s (Fd.rgCtrlEn g) then p.2 &&& rgPend s g else 0
      if slots.toNat ≠ m then s
      else
        let s := { s with rg := { s.rg with due := Sparse.put [] g.val t s.rg.due } }
        if m = 0 then s else rgApply s g m

end Sys2Proof.Machine
end

