-- ==== Sys2Proof/Machine/HostLink.lean ====
section
/-! DEFINITION. The commands of the host link and of side-band management (16_host_sideband.md, 17_tollhouse.md R415). -/

namespace Sys2Proof.Machine

def byteNats (l : List Byte) : List Nat := l.map fun b => b.toNat

/-! ### BAR2 (R376, R377) -/

/-- The chip byte address of an offset of BAR2. -/
def bar2Addr (s : State) (off : Nat) : Nat := fget s Fd.hlWinBase * 2 ^ 20 + off

/-- A TLP that reaches at or beyond MEM_TOP. -/
def bar2Unmapped (s : State) : State := chipUnmapped (fon s Fd.hlStatUr)

/-- A write there is discarded, and AER logs it (R377). -/
def bar2Discard (s : State) : State :=
  let s := bar2Unmapped s
  { s with host := { s.host with aerUr := true } }

/-- The read: the answer is 0 with the data, 1 for Unsupported Request, 2 for data with the EP bit. -/
def bar2Get (s : State) (off n : Nat) : State :=
  let a := bar2Addr s (off / 4 * 4)
  if s.mem.top < a + 4 * n then setResp (bar2Unmapped s) 1 []
  else
    let r := dramRead s a (4 * n)
    setResp r.2.2 (if r.2.1 then 2 else 0) (byteNats r.1)

/-- BAR2_READ (R376). -/
def execBar2Read (off : BitVec 30) (dwords : Nat) (s : State) : Host.Outcome State Fault Refusal :=
  mainCmd s fun s => bar2Get s off.toNat dwords

/-- The write: refused by the fence (R387), unmapped, stored, or stored as poison. -/
def bar2Put (s : State) (off : Nat) (data : List Byte) (ep : Bool) : State :=
  let a := bar2Addr s off
  if fbit s Fd.sbFenceBar2 then raise (fcount s Fd.sbAuthRefusedCount 1) bayChip 5
  else if s.mem.top < a + data.length then bar2Discard s
  else if ep then (dramWrite (fon s Fd.hlStatPoisonRx) a data true).2
  else (dramWrite s a data false).2

/-- BAR2_WRITE (R376). -/
def execBar2Write (off : BitVec 30) (data : List Byte) (ep : Bool) (s : State) : Host.Outcome State Fault Refusal :=
  mainCmd s fun s => bar2Put s off.toNat data ep

/-! ### Link (R379, R380) -/

/-- LINK_UP (R380). -/
def execLinkUp (speed width : BitVec 3) (s : State) : Host.Outcome State Fault Refusal :=
  mainCmd s fun s => linkUp s speed.toNat width.toNat

/-- LINK_DOWN (R380). -/
def execLinkDown (s : State) : Host.Outcome State Fault Refusal := mainCmd s linkDown

/-- A Barge transfer whose host read is not completed in time: what had arrived before is open (DESIGN CHOICE, log entry 2). -/
def bargeTimeout (s : State) (n : Nat) : State :=
  let far := (bargeSrcHost s n || bargeDstHost s n) && decide (bargeLen s n ≠ 0)
  if !fbit s (Fd.bgStatBusy n) || !far then s
  else
    let s := fon s Fd.hlStatCto
    if bargeSrcHost s n then
      let c := (draw s).toNat
      let got := (List.range (c % bargeLen s n)).map fun i => (Config.openOf 5 (c * 2 ^ 32 + i)).setWidth 8
      bargeComplete (drew s) n got .error
    else bargeComplete s n [] .error

/-- COMPLETION_TIMEOUT (R379): of the two requesters that read host memory. -/
def execCompletionTimeout (r : Requester) (s : State) : Host.Outcome State Fault Refusal :=
  mainCmd s fun s => match r with
    | .video h l => videoTimeout s h l
    | .barge n => bargeTimeout s n
    | _ => s

/-! ### MCTP control (R382) -/

/-- A request that the always-on domain serves. -/
def sbCmd (s : State) (f : State → State) : Host.Outcome State Fault Refusal :=
  finish (if s.th.aonUp then f s else s)

def execSetEndpointId (eid : Byte) (s : State) : Host.Outcome State Fault Refusal :=
  sbCmd s fun s => setResp (fset s Fd.sbStatEid eid.toNat) 0 [eid.toNat]

def execGetEndpointId (s : State) : Host.Outcome State Fault Refusal :=
  sbCmd s fun s => setResp s 0 [fget s Fd.sbStatEid]

/-- GET_MCTP_VERSION_SUPPORT: the spec does not name a version; the answer is open (DESIGN CHOICE, log entry 2). -/
def execGetMctpVersionSupport (s : State) : Host.Outcome State Fault Refusal :=
  sbCmd s fun s => setResp (drew s) 0 [(draw s).toNat]

def execGetMessageTypeSupport (s : State) : Host.Outcome State Fault Refusal :=
  sbCmd s fun s => setResp s 0 [0x00, 0x05, 0x7E]

def execGetVendorMessageSupport (s : State) : Host.Outcome State Fault Refusal :=
  sbCmd s fun s => setResp s 0 [Config.vendorId.toNat]

/-! ### Vendor commands (R383, R384): the answer is the completion code, then the sequence number and the data -/

/-- `n` DWORDs from an offset are control space. -/
def sbRange (off n : Nat) : Bool := decide (off % 4 = 0 ∧ 1 ≤ n ∧ n ≤ 64 ∧ off + 4 * n ≤ 0x4000000)

/-- A range that holds a register of the main domain, while that domain is off or in reset (R389). -/
def sbAway (s : State) (off n : Nat) : Bool := !mainUp s && (List.range n).any fun i => !aonReg (off + 4 * i)

/-- The reads of READ, in ascending order. -/
def sbReads (off : Nat) : Nat → State → List Nat × State
  | 0, s => ([], s)
  | n + 1, s =>
    let r := busRead s .sideband off
    let q := sbReads (off + 4) n r.2
    (r.1 :: q.1, q.2)

/-- READ. -/
def sbRead (s : State) (seqNo off n : Nat) : State :=
  if !sbRange off n then setResp s 3 [seqNo]
  else if sbAway s off n then setResp s 4 [seqNo]
  else
    let r := sbReads off n s
    setResp r.2 0 (seqNo :: r.1)

def execRead (seqNo : BitVec 7) (off : Nat) (n : Byte) (s : State) : Host.Outcome State Fault Refusal :=
  sbCmd s fun s => sbRead s seqNo.toNat off n.toNat

/-- One DWORD of WRITE, and whether it was refused: AUTH_REFUSED counts it, even where the count is full. -/
def sbWriteOne (s : State) (off v : Nat) : Nat × State :=
  let had := fget s Fd.sbAuthRefusedCount
  let t := busWrite (fset s Fd.sbAuthRefusedCount 0) .sideband off v
  let k := fget t Fd.sbAuthRefusedCount
  (min 1 k, fset t Fd.sbAuthRefusedCount (min 0xFFFFF (had + k)))

/-- The writes of WRITE, in ascending order and one per cycle, with the number refused: the events of each reach their
consumers before the next lands (R384). -/
def sbWrites (off : Nat) : List Dword → State → Nat × State
  | [], s => (0, s)
  | v :: l, s =>
    let r := sbWriteOne s off v.toNat
    let q := sbWrites (off + 4) l (nextCycle (settle r.2))
    (r.1 + q.1, q.2)

/-- WRITE. -/
def sbWrite (s : State) (seqNo off : Nat) (data : List Dword) : State :=
  if !sbRange off data.length then setResp s 3 [seqNo]
  else if sbAway s off data.length then setResp s 4 [seqNo]
  else
    let r := sbWrites off data s
    setResp r.2 0 [seqNo, r.1]

def execWrite (seqNo : BitVec 7) (off : Nat) (data : List Dword) (s : State) : Host.Outcome State Fault Refusal :=
  sbCmd s fun s => sbWrite s seqNo.toNat off data

/-- LOG (R384, R414): entries by ring index. -/
def execLog (seqNo : BitVec 7) (first : BitVec 16) (n : Byte) (s : State) : Host.Outcome State Fault Refusal :=
  sbCmd s fun s =>
    if first.toNat < 1024 ∧ 1 ≤ n.toNat ∧ n.toNat ≤ 16 then
      setResp s 0 (seqNo.toNat :: (List.range n.toNat).flatMap fun i => byteNats (logAt s (first.toNat + i)))
    else setResp s 3 [seqNo.toNat]

/-- The answer of POWER: the spec gives no coding of the main power state (DESIGN CHOICE, log entry 2); then the lifecycle state. -/
def powerAnswer (s : State) (seqNo : Nat) : State := setResp (drew s) 0 [seqNo, (draw s).toNat % 256, life s]

/-- POWER action 0. -/
def execPowerStatus (seqNo : BitVec 7) (s : State) : Host.Outcome State Fault Refusal :=
  sbCmd s fun s => powerAnswer s seqNo.toNat

/-- POWER action 1 (R446). -/
def execMainOn (seqNo : BitVec 7) (s : State) : Host.Outcome State Fault Refusal :=
  sbCmd s fun s => powerAnswer (mainOn s) seqNo.toNat

/-- POWER action 2 (R447): it answers before it acts. -/
def execMainOff (seqNo : BitVec 7) (s : State) : Host.Outcome State Fault Refusal :=
  sbCmd s fun s => mainOff (powerAnswer s seqNo.toNat)

/-- POWER action 3 (R448): it answers before it acts; without a main domain to reset it answers 4. -/
def execMainReset (seqNo : BitVec 7) (s : State) : Host.Outcome State Fault Refusal :=
  sbCmd s fun s =>
    if !fbit s Fd.pwrStatMainOn then setResp s 4 [seqNo.toNat] else mainResetBySideband (powerAnswer s seqNo.toNat)

/-- POWER action 4 (R448). -/
def execPowerQuadReset (seqNo : BitVec 7) (q : Byte) (s : State) : Host.Outcome State Fault Refusal :=
  sbCmd s fun s =>
    if 32 ≤ q.toNat then setResp s 3 [seqNo.toNat]
    else if !mainUp s then setResp s 4 [seqNo.toNat]
    else powerAnswer (quadReset s q.toNat false) seqNo.toNat

/-- FENCE (R384, R386). -/
def execFenceCommand (seqNo : BitVec 7) (v : Byte) (s : State) : Host.Outcome State Fault Refusal :=
  sbCmd s fun s =>
    let t := busWrite s .sideband Adr.sbFence v.toNat
    setResp t 0 [seqNo.toNat, (rget t Adr.sbFence).toNat]

/-- The part code of IDENT. -/
def partCode : Variant → Nat
  | .xm128 => 0
  | .xm64 => 1
  | .xm32l => 2

/-- IDENT: part, stepping B0, presence entry 0. -/
def execIdent (seqNo : BitVec 7) (s : State) : Host.Outcome State Fault Refusal :=
  sbCmd s fun s => setResp s 0 ([seqNo.toNat, partCode s.variant, 1] ++ byteNats (leBytes 8 (descBits (descAt s 0))))

/-! ### The SPDM responder (R415): code 0 is the request's own response, code 1 ERROR Unspecified -/

/-- A request that the Tollhouse's firmware serves. -/
def spdmCmd (s : State) (f : State → State) : Host.Outcome State Fault Refusal := finish (if thUp s then f s else s)

def spdmError (s : State) : State := setResp s 1 []

/-- GET_VERSION: 1.2 only. -/
def execGetVersion (s : State) : Host.Outcome State Fault Refusal := spdmCmd s fun s => setResp s 0 [0x12]

/-- GET_CAPABILITIES: CERT_CAP, CHAL_CAP, MEAS_CAP with signature. -/
def execGetCapabilities (s : State) : Host.Outcome State Fault Refusal := spdmCmd s fun s => setResp s 0 [1, 1, 2]

/-- NEGOTIATE_ALGORITHMS: each of the four that the responder supports is selected where the requester offers it. -/
def execNegotiateAlgorithms (ed25519 sha512 measSha512 dmtf : Bool) (s : State) : Host.Outcome State Fault Refusal :=
  spdmCmd s fun s =>
    setResp { s with th := { s.th with spdm := ed25519 && sha512 && measSha512 && dmtf } } 0
      [boolNat ed25519, boolNat sha512, boolNat measSha512, boolNat dmtf]

/-- The identity key's public half, while there is one. -/
def idKey (s : State) : Option (BitVec 256) := s.th.priv.map fun p => Config.ed25519Public (BitVec.ofNat 256 p)

/-- Slot 0 holds the chain of the NOR while its leaf is the identity key; every other slot is empty (R402, R415). -/
def chainIn (s : State) (slot : Nat) : Bool := decide (slot = 0) && decide (idKey s = some Config.chainLeaf)

/-- The chain's bytes (R394). -/
def chainBytes (at' n : Nat) : List Byte :=
  (List.range (min n (Config.chainLength - at'))).map fun i => Config.norByte (0x200000 + at' + i)

def chainHash : List Byte := leBytes 64 (Config.sha512 (chainBytes 0 Config.chainLength)).toNat

/-- The signed part of SPDM is served: an identity key, and Provisioned or Deployed. -/
def spdmSigns (s : State) : Bool := s.th.priv.isSome && decide (life s = 1 ∨ life s = 2)

/-- A response of a kind signed by the identity key: its bytes, then a nonce from the TRNG, then the signature. -/
def spdmSigned (s : State) (kind : Nat) (nonce : BitVec 256) (body : List Byte) : State :=
  let r := trngTake s 4
  let mine := leBytes 32 r.1
  let sig := Config.ed25519Sign (BitVec.ofNat 256 (s.th.priv.getD 0))
    (Config.spdmMessage kind (leBytes 32 nonce.toNat ++ body ++ mine))
  setResp r.2 0 (byteNats (body ++ mine ++ leBytes 64 sig.toNat))

/-- GET_DIGESTS: the slot mask, and the digest of a chain that is present. -/
def execGetDigests (s : State) : Host.Outcome State Fault Refusal :=
  spdmCmd s fun s =>
    if !s.th.spdm then spdmError s
    else if chainIn s 0 then setResp s 0 (1 :: byteNats chainHash) else setResp s 0 [0]

/-- GET_CERTIFICATE: a piece of the chain of a slot that has one. -/
def execGetCertificate (slot : Byte) (off len : Nat) (s : State) : Host.Outcome State Fault Refusal :=
  spdmCmd s fun s =>
    if s.th.spdm && chainIn s slot.toNat && decide (off < Config.chainLength) then
      setResp s 0 (byteNats (chainBytes off len))
    else spdmError s

/-- CHALLENGE. -/
def execChallenge (slot : Byte) (nonce : BitVec 256) (s : State) : Host.Outcome State Fault Refusal :=
  spdmCmd s fun s =>
    if s.th.spdm && spdmSigns s && chainIn s slot.toNat then spdmSigned s 3 nonce chainHash else spdmError s

/-- The block of a measurement: its index, its mark (0 immutable firmware, 1 mutable firmware, 2 other, 3 raw), its
value. -/
def measBlock (s : State) (i : Nat) : List Byte :=
  if i = 9 then [BitVec.ofNat 8 9, BitVec.ofNat 8 3, BitVec.ofNat 8 (life s)]
  else [BitVec.ofNat 8 i, BitVec.ofNat 8 (min 2 (i - 1))] ++ leBytes 64 (mrGet s (i - 1))

/-- The blocks that an index of GET_MEASUREMENTS names: 0 asks for their number, 0xFF for all. -/
def measBody (s : State) (i : Nat) : Option (List Byte) :=
  if i = 0 then some [BitVec.ofNat 8 9]
  else if 1 ≤ i ∧ i ≤ 9 then some (measBlock s i)
  else if i = 0xFF then some ((List.range 9).flatMap fun k => measBlock s (k + 1))
  else none

/-- GET_MEASUREMENTS. -/
def execGetMeasurements (index : Byte) (signed : Bool) (nonce : BitVec 256) (s : State) :
    Host.Outcome State Fault Refusal :=
  spdmCmd s fun s =>
    match measBody s index.toNat with
    | none => spdmError s
    | some body =>
      if !s.th.spdm || signed && !spdmSigns s then spdmError s
      else if signed then spdmSigned s 4 nonce body
      else setResp s 0 (byteNats body)

end Sys2Proof.Machine
end

