-- ==== Sys2Proof/Machine/ThCmds.lean ====
section
/-! DEFINITION. The commands of the Tollhouse (17_tollhouse.md) and of its monitors (20_electrical.md R468). -/

namespace Sys2Proof.Machine

/-! ### Mailbox commands (R405, R406) -/

/-- A TH_CMD write; the command's own effect follows at the end of the step. -/
def mbCmd (s : State) (m : Master) (b : Fin 2) (code : Nat) : Host.Outcome State Fault Refusal :=
  writeCmd s m (Adr.mbCmd b) code

/-- BOOT (R397, R398). -/
def execBoot (m : Master) (b : Fin 2) (s : State) : Host.Outcome State Fault Refusal := mbCmd s m b 0x01
/-- EXTEND (R400). -/
def execExtend (m : Master) (b : Fin 2) (s : State) : Host.Outcome State Fault Refusal := mbCmd s m b 0x02
/-- RB_COMMIT (R399). -/
def execRbCommit (m : Master) (b : Fin 2) (s : State) : Host.Outcome State Fault Refusal := mbCmd s m b 0x03
/-- SET_RTC (R406). -/
def execSetRtc (m : Master) (b : Fin 2) (s : State) : Host.Outcome State Fault Refusal := mbCmd s m b 0x04
/-- WITNESS (R416). -/
def execWitness (m : Master) (b : Fin 2) (s : State) : Host.Outcome State Fault Refusal := mbCmd s m b 0x05
/-- PROVISION (R406). -/
def execProvision (m : Master) (b : Fin 2) (s : State) : Host.Outcome State Fault Refusal := mbCmd s m b 0x07
/-- DEPLOY (R406). -/
def execDeploy (m : Master) (b : Fin 2) (s : State) : Host.Outcome State Fault Refusal := mbCmd s m b 0x08
/-- RETIRE (R404). -/
def execRetire (m : Master) (b : Fin 2) (s : State) : Host.Outcome State Fault Refusal := mbCmd s m b 0x09
/-- KEY_ADD (R406). -/
def execKeyAdd (m : Master) (b : Fin 2) (s : State) : Host.Outcome State Fault Refusal := mbCmd s m b 0x0A
/-- KEY_REVOKE (R406). -/
def execKeyRevoke (m : Master) (b : Fin 2) (s : State) : Host.Outcome State Fault Refusal := mbCmd s m b 0x0B
/-- DEBUG_OPEN (R404). -/
def execDebugOpen (m : Master) (b : Fin 2) (s : State) : Host.Outcome State Fault Refusal := mbCmd s m b 0x0C
/-- ZEROISE (R402). -/
def execZeroise (m : Master) (b : Fin 2) (s : State) : Host.Outcome State Fault Refusal := mbCmd s m b 0x0D
/-- REKEY (R402). -/
def execRekey (m : Master) (b : Fin 2) (s : State) : Host.Outcome State Fault Refusal := mbCmd s m b 0x0E

/-- An event of the Tollhouse's controller. -/
def thCmd (s : State) (f : State → State) : Host.Outcome State Fault Refusal := finish (if thUp s then f s else s)

/-- COMMAND_COMPLETED (R406). -/
def execCommandCompleted (b : Fin 2) (s : State) : Host.Outcome State Fault Refusal := thCmd s fun s => cmdCompleted s b

/-! ### Push, random numbers, RTC -/

/-- TH_PUSH_BASE0_WRITE (R398). -/
def execThPushBase0Write (m : Master) (v : Dword) (s : State) : Host.Outcome State Fault Refusal :=
  writeCmd s m Adr.thPushBase0 v.toNat

/-- TH_PUSH (R398). -/
def execThPush (m : Master) (v : Dword) (s : State) : Host.Outcome State Fault Refusal := writeCmd s m Adr.thPush v.toNat

/-- TH_RNG_READ (R403). -/
def execThRngRead (m : Master) (s : State) : Host.Outcome State Fault Refusal := readCmd s m Adr.thRng

/-- TH_RTC0_READ (R417). -/
def execThRtc0Read (m : Master) (s : State) : Host.Outcome State Fault Refusal := readCmd s m (Adr.thRtc 0)

/-- TRNG_HEALTH_FAILURE (R403). -/
def execTrngHealthFailure (test : Byte) (s : State) : Host.Outcome State Fault Refusal :=
  thCmd s fun s => trngFail s test.toNat

/-- RTC_ADVANCE (R392): on standby or on battery. -/
def execRtcAdvance (s : State) : Host.Outcome State Fault Refusal := finish (rtcTick s)

/-! ### Sensors and the alarm: they work on standby or on battery (R392, R407) -/

/-- DOOR_CHANGE (R407). -/
def execDoorChange (d : Fin 8) (level : Bool) (s : State) : Host.Outcome State Fault Refusal := finish (doorEvent s d level)

/-- SENSOR_ASSERTED (R408); a door is asserted while its ball differs from the closed level. -/
def execSensorAsserted (n : Fin 14) (raw : Dword) (s : State) : Host.Outcome State Fault Refusal :=
  finish (if n.val < 8 then doorEvent s n (!bit (fget s Fd.thDoorClosed) n) else sensorEvent s n raw.toNat)

/-- SENSOR_DEASSERTED (R407): of a sensor that is no door. -/
def execSensorDeasserted (n : Fin 14) (s : State) : Host.Outcome State Fault Refusal :=
  finish (if decide (8 ≤ n.val) && (s.th.aonUp || batterySensor n) then sensorEnd s n else s)

/-- ALARM_CLEAR (R413). -/
def execAlarmClear (m : Master) (v : Dword) (s : State) : Host.Outcome State Fault Refusal :=
  writeCmd s m Adr.thAlarm v.toNat

/-! ### Monitors (R468) -/

/-- The readings refresh; the main rails read 0 while main is off. -/
def monRefresh (s : State) (tj vcore vsram vaon vbat : Nat) : State :=
  let on := fbit s Fd.pwrStatMainOn
  let s := fset s Fd.monTjT tj
  let s := fset s Fd.monTjMaxT (max (fget s Fd.monTjMaxT) tj)
  let s := fset s Fd.monVcoreMv (if on then vcore else 0)
  let s := fset s Fd.monVsramMv (if on then vsram else 0)
  fset (fset s Fd.monVaonMv vaon) Fd.monVbatMv vbat

/-- MONITOR_REFRESH (R468). -/
def execMonitorRefresh (tj vcore vsram vaon vbat : BitVec 12) (s : State) : Host.Outcome State Fault Refusal :=
  finish (if s.th.aonUp then monRefresh s tj.toNat vcore.toNat vsram.toNat vaon.toNat vbat.toNat else s)

end Sys2Proof.Machine
end

