-- ==== Sys2Proof/Machine/SpanCmds.lean ====
section
/-! DEFINITION. The commands of the span (18_span.md). -/

namespace Sys2Proof.Machine

/-- An event on a port of the span that the part has. -/
def portEvent (s : State) (p : Fin 4) (f : State → State) : Host.Outcome State Fault Refusal :=
  mainCmd s fun s => if p.val < s.variant.spanPorts then f s else s

/-- SPAN_LINK_TRAINED (R419). -/
def execSpanLinkTrained (p : Fin 4) (hello : SyncFrame) (s : State) : Host.Outcome State Fault Refusal :=
  portEvent s p fun s => linkTrained s p hello

/-- SPAN_LINK_LOSS (R442). -/
def execSpanLinkLoss (p : Fin 4) (s : State) : Host.Outcome State Fault Refusal := portEvent s p fun s => linkLost s p

/-- SYNC_INTERVAL (R425). -/
def execSyncInterval (s : State) : Host.Outcome State Fault Refusal := mainCmd s syncTick

/-- PROBE_SEND (R425). -/
def execProbeSend (s : State) : Host.Outcome State Fault Refusal := mainCmd s probesOut

/-- SYNC_FRAME (R430). -/
def execSyncFrame (p : Fin 4) (f : SyncFrame) (s : State) : Host.Outcome State Fault Refusal :=
  portEvent s p fun s => syncReceived s p f

/-- EVENT_FRAME (R434): one to eight masks. -/
def execEventFrame (p : Fin 4) (origin : Fin 16) (applyTime : BitVec 40) (masks : List (BitVec 64)) (s : State) :
    Host.Outcome State Fault Refusal :=
  portEvent s p fun s =>
    if 1 ≤ masks.length ∧ masks.length ≤ 8 then
      eventFrameIn s p origin applyTime.toNat (masks.map fun m => m.toNat)
    else s

/-- DOORBELL_FRAME (R436). -/
def execDoorbellFrame (p : Fin 4) (origin : Fin 16) (ti : BitVec 3) (level6 : Bool) (spanBay : BitVec 2) (s : State) :
    Host.Outcome State Fault Refusal :=
  portEvent s p fun s => doorbellIn s p origin ti.toNat level6 spanBay.toNat

/-- SPAN_EVENT_APPLY (R434). -/
def execSpanEventApply (s : State) : Host.Outcome State Fault Refusal := mainCmd s heldApply

/-- TIMELINE_PROBE (R429). -/
def execTimelineProbe (p : Fin 4) (probe : BitVec 40) (_turnaround : BitVec 24) (s : State) :
    Host.Outcome State Fault Refusal :=
  portEvent s p fun s => probeEcho s p probe.toNat

/-- ECHO (R429). -/
def execEcho (p : Fin 4) (probe : BitVec 40) (turnaround : BitVec 24) (s : State) : Host.Outcome State Fault Refusal :=
  portEvent s p fun s => echoTake s p probe.toNat turnaround.toNat

/-- VOTE_REQ (R437). -/
def execVoteReq (p : Fin 4) (origin g : Fin 16) (s : State) : Host.Outcome State Fault Refusal :=
  portEvent s p fun s => voteReqIn s p origin g

/-- VOTE_PREPARE (R437). -/
def execVotePrepare (p : Fin 4) (g : Fin 16) (s : State) : Host.Outcome State Fault Refusal :=
  portEvent s p fun s => votePrepareIn s p g

/-- VOTE_ACK (R437). -/
def execVoteAck (p : Fin 4) (member g : Fin 16) (next : Word) (s : State) : Host.Outcome State Fault Refusal :=
  portEvent s p fun s => voteAckIn s p member g next.toNat

/-- VOTE_NAK (R439). -/
def execVoteNak (p : Fin 4) (member g : Fin 16) (s : State) : Host.Outcome State Fault Refusal :=
  portEvent s p fun s => voteNakIn s p member g

/-- VOTE_COMMIT (R437). -/
def execVoteCommit (p : Fin 4) (g : Fin 16) (n : Word) (tArm : BitVec 40) (s : State) :
    Host.Outcome State Fault Refusal :=
  portEvent s p fun s => voteCommitIn s p g n.toNat tArm.toNat

/-- VOTE_ABORT (R439). -/
def execVoteAbort (p : Fin 4) (g : Fin 16) (s : State) : Host.Outcome State Fault Refusal :=
  portEvent s p fun s => voteAbortIn s p g

/-- SPAN_ARM (R437). -/
def execSpanArm (g : Fin 16) (s : State) : Host.Outcome State Fault Refusal := mainCmd s fun s => voteArmDue s g

/-- VOTE_TIMEOUT (R439). -/
def execVoteTimeout (g : Fin 16) (s : State) : Host.Outcome State Fault Refusal := mainCmd s fun s => voteTimedOut s g

/-- VOTE_ABANDON (R439). -/
def execVoteAbandon (g : Fin 16) (s : State) : Host.Outcome State Fault Refusal := mainCmd s fun s => voteGivenUp s g

/-- MEMORY_WRITE_FRAME (R440). -/
def execMemoryWriteFrame (p : Fin 4) (origin dest : Fin 16) (tag : BitVec 4) (a : Addr) (data : List Byte) (s : State) :
    Host.Outcome State Fault Refusal :=
  portEvent s p fun s => memIn s p origin dest 0 tag.toNat a.toNat data fun s => memWriteIn s p origin tag.toNat a.toNat data

/-- READ_REQUEST_FRAME (R440): its length field holds length / 8 - 1 (R423). -/
def execReadRequestFrame (p : Fin 4) (origin dest : Fin 16) (tag : BitVec 4) (a : Addr) (len : Byte) (s : State) :
    Host.Outcome State Fault Refusal :=
  portEvent s p fun s => memIn s p origin dest 1 tag.toNat a.toNat [] fun s =>
    memReadIn s p origin tag.toNat a.toNat (8 * (len.toNat + 1))

/-- READ_DATA_FRAME (R440). -/
def execReadDataFrame (p : Fin 4) (origin dest : Fin 16) (tag : BitVec 4) (a : Addr) (data : List Byte) (s : State) :
    Host.Outcome State Fault Refusal :=
  portEvent s p fun s => memIn s p origin dest 2 tag.toNat a.toNat data fun s => memDataIn s origin tag.toNat data

/-- WRITE_ACK_FRAME (R441). -/
def execWriteAckFrame (p : Fin 4) (origin dest : Fin 16) (tag : BitVec 4) (a : Addr) (s : State) :
    Host.Outcome State Fault Refusal :=
  portEvent s p fun s => memIn s p origin dest 3 tag.toNat a.toNat [] fun s => memAckIn s origin tag.toNat

/-- ERROR_FRAME (R441). -/
def execErrorFrame (p : Fin 4) (origin dest : Fin 16) (tag : BitVec 4) (a : Addr) (s : State) :
    Host.Outcome State Fault Refusal :=
  portEvent s p fun s => memIn s p origin dest 4 tag.toNat a.toNat [] fun s => memErrorIn s origin tag.toNat

/-- REMOTE_COPY (R440): an RC_CTRL write with go set. -/
def execRemoteCopy (m : Master) (v : Dword) (s : State) : Host.Outcome State Fault Refusal :=
  writeWhen s (bit v.toNat 19) m Adr.rcCtrl v.toNat

/-- REMOTE_COPY_ABORT (R441): an RC_CTRL write with abort set. -/
def execRemoteCopyAbort (m : Master) (v : Dword) (s : State) : Host.Outcome State Fault Refusal :=
  writeWhen s (bit v.toNat 18) m Adr.rcCtrl v.toNat

/-- REMOTE_COPY_COMPLETE (R441). -/
def execRemoteCopyComplete (s : State) : Host.Outcome State Fault Refusal := mainCmd s rcComplete

/-- FRAME_CRC_ERROR (R424). -/
def execFrameCrcError (p : Fin 4) (s : State) : Host.Outcome State Fault Refusal := portEvent s p fun s => crcErrorIn s p

end Sys2Proof.Machine
end

