-- ==== Sys2Proof/Machine/PowerCmds.lean ====
section
/-! DEFINITION. The commands of power, reset and the idle program (19_startup.md). -/

namespace Sys2Proof.Machine

/-- ALWAYS_ON_POWER_ON (R448). -/
def execAlwaysOnPowerOn (up : Bool) (bootSel sbAddr : BitVec 2) (s : State) : Host.Outcome State Fault Refusal :=
  finish (aonReset s up bootSel.toNat sbAddr.toNat)

/-- MAIN_POWER_UP (R448). -/
def execMainPowerUp (s : State) : Host.Outcome State Fault Refusal := finish (mainPowerUp s)

/-- MAIN_RESET_RELEASE (R446). -/
def execMainResetRelease (spanId : BitVec 4) (s : State) : Host.Outcome State Fault Refusal :=
  finish (mainRelease s spanId)

/-- PG_TIMEOUT (R446). -/
def execPgTimeout (s : State) : Host.Outcome State Fault Refusal := finish (pgTimedOut s)

/-- PG_LOSS (R447). -/
def execPgLoss (s : State) : Host.Outcome State Fault Refusal := finish (pgLost s)

/-- PERST (R452). -/
def execPerst (s : State) : Host.Outcome State Fault Refusal := finish (perstLow s)

/-- PERST_RELEASE (R452). -/
def execPerstRelease (s : State) : Host.Outcome State Fault Refusal := finish (perstHigh s)

/-- QRST (R448). -/
def execQrst (m : Master) (v : Dword) (s : State) : Host.Outcome State Fault Refusal := writeCmd s m Adr.pwrQrst v.toNat

/-- QUAD_RESET_RELEASE (R450). -/
def execQuadResetRelease (q : Fin 32) (s : State) : Host.Outcome State Fault Refusal := mainCmd s fun s => quadRelease s q

/-- ENG_GO (R450). -/
def execEngGo (m : Master) (v : Dword) (s : State) : Host.Outcome State Fault Refusal :=
  writeCmd s m Adr.pwrEngGo v.toNat

/-- BANNER_REFRESH (R455). -/
def execBannerRefresh (s : State) : Host.Outcome State Fault Refusal := mainCmd s bannerWrite

/-- HAND_OVER (R456). -/
def execHandOver (m : Master) (v : Dword) (s : State) : Host.Outcome State Fault Refusal :=
  writeCmd s m Adr.pwrIdleHeads v.toNat

/-- VBAT_LOSS (R417). -/
def execVbatLoss (s : State) : Host.Outcome State Fault Refusal := finish (vbatLost s)

end Sys2Proof.Machine
end

