-- ==== Sys2Proof/Machine/Registers.lean ====
section
/-! DEFINITION. The commands of registers, bays, timelines, landing units, edge queues and ferry channels
(01_conventions.md to 04_the_ferry.md). -/

namespace Sys2Proof.Machine

/-- The control-space offset of a bay's face (R16). -/
def faceAt : Bay → Nat
  | .chip => 0x2000
  | .spanBay => 0x3000
  | .spanGroup => 0x4000
  | .hall h => 0x10000 + 0x1000 * h.val
  | .quad q => 0x1000000 + 0x10000 * q.val
  | .engine e => 0x1001000 + 0x10000 * (e.val / 4) + 0x1000 * (e.val % 4)

/-- The bytes that a write enables, over the old ones. -/
def mergeBytes (old new be : Nat) : Nat :=
  (List.range 4).foldl (fun a i => a + (if bit be i then new else old) / 256 ^ i % 256 * 256 ^ i) 0

/-- REGISTER_WRITE (R6): a host write whose byte enables are not all set is ignored and counted (R374), also where its
register belongs to an absent unit (DESIGN CHOICE, log entry 60: R31 does not count a write to one). -/
def execRegisterWrite (m : Master) (off : Nat) (v : Dword) (be : BitVec 4) (s : State) :
    Host.Outcome State Fault Refusal :=
  match bar4Off m off with
  | some o => mainCmd s fun s => bar4Write s o (mergeBytes (bar4Read s o) v.toNat be.toNat)
  | none =>
  if m = .host ∧ be ≠ 15 then (if busOpen s m off then finish (refuseChip s m off) else .next s)
  else writeCmd s m off v.toNat

/-- RC_READ (R6): any read of a register, or of a DWORD of BAR4; RC fields clear. -/
def execRcRead (m : Master) (off : Nat) (s : State) : Host.Outcome State Fault Refusal :=
  match bar4Off m off with
  | some o => mainCmd s fun s => setResp s 0 [bar4Read s o]
  | none => readCmd s m off

/-- DOORBELL (R17). -/
def execDoorbell (m : Master) (bay : Bay) (ti : BitVec 3) (s : State) : Host.Outcome State Fault Refusal :=
  writeCmd s m (faceAt bay + 0x14) ti.toNat

/-- FAULT_OWN_CLEAR (R20). -/
def execFaultOwnClear (m : Master) (bay : Bay) (v : Dword) (s : State) : Host.Outcome State Fault Refusal :=
  writeCmd s m (faceAt bay + 0x18) v.toNat

/-- One cycle of the core in which T0 advances by `d`: the pads keep their level of the cycle that ends (R283), and in each
head the sprite evaluator and the composition go on (R181, R210). -/
def coreCycle (s : State) (d : Nat) : State := headsCycle (refCycle (padsSample s) d)

/-- REFERENCE_ADVANCE (R40): one cycle, in which T0 advances by one. -/
def execReferenceAdvance (s : State) : Host.Outcome State Fault Refusal := mainCmd s fun s => coreCycle s 1

/-- TRIMMED_ADVANCE (R40): one cycle, in which T0 advances by 2 where TRIM is positive, by 0 where it is negative. -/
def execTrimmedAdvance (s : State) : Host.Outcome State Fault Refusal :=
  mainCmd s fun s => match trimDist s with
    | some d => coreCycle { s with trimAt := some (s.clock + 1) } d
    | none => s

/-- ENCODER_EDGE (R44): the filtered inputs of an encoder timeline become `a` and `b`. -/
def execEncoderEdge (k : Fin 32) (a b : Bool) (s : State) : Host.Outcome State Fault Refusal :=
  mainCmd s fun s => encEdge s k.val a b

/-- INDEX_QUALIFY (R46), with the encoder edge of the same cycle where there is one. -/
def execIndexQualify (k : Fin 32) (edge : Option (Bool × Bool)) (s : State) : Host.Outcome State Fault Refusal :=
  mainCmd s fun s => encIndex s k.val edge

/-- MAINS_EDGE (R48). -/
def execMainsEdge (k : Fin 32) (rising : Bool) (s : State) : Host.Outcome State Fault Refusal :=
  mainCmd s fun s => mainsEdgeAt s k.val rising

/-- MAINS_PHASE_ADVANCE (R48). -/
def execMainsPhaseAdvance (k : Fin 32) (s : State) : Host.Outcome State Fault Refusal :=
  mainCmd s fun s => mainsAdvance s k.val

/-- MAINS_HOLDOVER (R49). -/
def execMainsHoldover (k : Fin 32) (s : State) : Host.Outcome State Fault Refusal :=
  mainCmd s fun s => mainsHold s k.val

/-- SET0 (R53). -/
def execSet0 (m : Master) (k : Fin 32) (v : Dword) (s : State) : Host.Outcome State Fault Refusal :=
  writeCmd s m (Adr.tlSet0 k.val) v.toNat

/-- SLEW (R53). -/
def execSlew (m : Master) (k : Fin 32) (v : Dword) (s : State) : Host.Outcome State Fault Refusal :=
  writeCmd s m (Adr.tlSlew k.val) v.toNat

/-- SNAP (R61). -/
def execSnap (m : Master) (mask : Dword) (s : State) : Host.Outcome State Fault Refusal :=
  writeCmd s m 0x22000 mask.toNat

/-- POS0_READ (R60). -/
def execPos0Read (m : Master) (k : Fin 32) (s : State) : Host.Outcome State Fault Refusal := readCmd s m (Adr.tlPos0 k.val)

/-- CMP0_WRITE (R70). -/
def execCmp0Write (m : Master) (n : Fin 512) (v : Dword) (s : State) : Host.Outcome State Fault Refusal :=
  writeCmd s m (Adr.lCmp0 n.val) v.toNat

/-- INT0_WRITE (R70). -/
def execInt0Write (m : Master) (n : Fin 512) (v : Dword) (s : State) : Host.Outcome State Fault Refusal :=
  writeCmd s m (Adr.lInt0 n.val) v.toNat

/-- LANDING_CTRL_WRITE (R73). -/
def execLandingCtrlWrite (m : Master) (n : Fin 512) (v : Dword) (s : State) : Host.Outcome State Fault Refusal :=
  writeCmd s m (Adr.lCtrl n.val) v.toNat

/-- EDGE0 (R79). -/
def execEdge0 (m : Master) (n : Fin 1024) (v : Dword) (s : State) : Host.Outcome State Fault Refusal :=
  writeCmd s m (Adr.eqEdge0 n.val) v.toNat

/-- EDGE1 (R79). -/
def execEdge1 (m : Master) (n : Fin 1024) (v : Dword) (s : State) : Host.Outcome State Fault Refusal :=
  writeCmd s m (Adr.eqEdge1 n.val) v.toNat

/-- EDGEZ (R79). -/
def execEdgeZ (m : Master) (n : Fin 1024) (v : Dword) (s : State) : Host.Outcome State Fault Refusal :=
  writeCmd s m (Adr.eqEdgez n.val) v.toNat

/-- FLUSH (R84). -/
def execFlush (m : Master) (n : Fin 1024) (v : Dword) (s : State) : Host.Outcome State Fault Refusal :=
  writeCmd s m (Adr.eqFlush n.val) v.toNat

/-- CAPTURE_EDGE (R85): the pad of a post makes an edge to `level`. -/
def execCaptureEdge (n : Fin 1024) (level : Bool) (s : State) : Host.Outcome State Fault Refusal :=
  mainCmd s fun s =>
    if n.val < s.variant.posts then
      if level && !bankLive s (postPort n) then s
      else
        let s := serEdge (eqCapture (boardLevel s n level) n.val level) n level
        if level then s else encIndexFalls s n
    else s

/-- CAP0_READ (R85). -/
def execCap0Read (m : Master) (n : Fin 1024) (s : State) : Host.Outcome State Fault Refusal :=
  readCmd s m (Adr.eqCap0 n.val)

/-- FIRE (R105). -/
def execFire (m : Master) (c : Fin 256) (v : Dword) (s : State) : Host.Outcome State Fault Refusal :=
  writeCmd s m (Adr.cFire c.val) v.toNat

/-- TAKE_READ (R95). -/
def execTakeRead (m : Master) (e : Fin 128) (k : Fin 8) (s : State) : Host.Outcome State Fault Refusal :=
  readCmd s m (Adr.tiTake e.val k.val)

end Sys2Proof.Machine
end

