-- ==== Sys2Proof/Machine/Dispatch.lean ====
section
/-! DEFINITION. The dispatch: one arm per command, each one call of its meaning. -/

namespace Sys2Proof.Machine

def exec (i : Instr) (s : State) : Host.Outcome State Fault Refusal :=
  match i with
  | .registerWrite m off v be => Sys2Proof.Machine.execRegisterWrite m off v be s
  | .doorbell m bay ti => Sys2Proof.Machine.execDoorbell m bay ti s
  | .faultOwnClear m bay v => Sys2Proof.Machine.execFaultOwnClear m bay v s
  | .encoderEdge k a b => Sys2Proof.Machine.execEncoderEdge k a b s
  | .indexQualify k edge => Sys2Proof.Machine.execIndexQualify k edge s
  | .mainsEdge k rising => Sys2Proof.Machine.execMainsEdge k rising s
  | .mainsPhaseAdvance k => Sys2Proof.Machine.execMainsPhaseAdvance k s
  | .mainsHoldover k => Sys2Proof.Machine.execMainsHoldover k s
  | .set0 m k v => Sys2Proof.Machine.execSet0 m k v s
  | .slew m k v => Sys2Proof.Machine.execSlew m k v s
  | .snap m mask => Sys2Proof.Machine.execSnap m mask s
  | .pos0Read m k => Sys2Proof.Machine.execPos0Read m k s
  | .cmp0Write m n v => Sys2Proof.Machine.execCmp0Write m n v s
  | .int0Write m n v => Sys2Proof.Machine.execInt0Write m n v s
  | .landingCtrlWrite m n v => Sys2Proof.Machine.execLandingCtrlWrite m n v s
  | .edge0 m n v => Sys2Proof.Machine.execEdge0 m n v s
  | .edge1 m n v => Sys2Proof.Machine.execEdge1 m n v s
  | .edgeZ m n v => Sys2Proof.Machine.execEdgeZ m n v s
  | .flush m n v => Sys2Proof.Machine.execFlush m n v s
  | .captureEdge n level => Sys2Proof.Machine.execCaptureEdge n level s
  | .cap0Read m n => Sys2Proof.Machine.execCap0Read m n s
  | .fire m c v => Sys2Proof.Machine.execFire m c v s
  | .takeRead m e k => Sys2Proof.Machine.execTakeRead m e k s
  | .add e rd ra rb x => Sys2Proof.Machine.execAdd e rd ra rb x s
  | .sub e rd ra rb x => Sys2Proof.Machine.execSub e rd ra rb x s
  | .adds e rd ra rb x => Sys2Proof.Machine.execAdds e rd ra rb x s
  | .subs e rd ra rb x => Sys2Proof.Machine.execSubs e rd ra rb x s
  | .and e rd ra rb x => Sys2Proof.Machine.execAnd e rd ra rb x s
  | .or e rd ra rb x => Sys2Proof.Machine.execOr e rd ra rb x s
  | .xor e rd ra rb x => Sys2Proof.Machine.execXor e rd ra rb x s
  | .shl e rd ra rb x => Sys2Proof.Machine.execShl e rd ra rb x s
  | .shr e rd ra rb x => Sys2Proof.Machine.execShr e rd ra rb x s
  | .sra e rd ra rb x => Sys2Proof.Machine.execSra e rd ra rb x s
  | .seq e rd ra rb x => Sys2Proof.Machine.execSeq e rd ra rb x s
  | .sne e rd ra rb x => Sys2Proof.Machine.execSne e rd ra rb x s
  | .slt e rd ra rb x => Sys2Proof.Machine.execSlt e rd ra rb x s
  | .sltu e rd ra rb x => Sys2Proof.Machine.execSltu e rd ra rb x s
  | .mul e rd ra rb x => Sys2Proof.Machine.execMul e rd ra rb x s
  | .mac e rd ra rb x => Sys2Proof.Machine.execMac e rd ra rb x s
  | .addi e rd ra imm => Sys2Proof.Machine.execAddi e rd ra imm s
  | .andi e rd ra imm => Sys2Proof.Machine.execAndi e rd ra imm s
  | .ori e rd ra imm => Sys2Proof.Machine.execOri e rd ra imm s
  | .xori e rd ra imm => Sys2Proof.Machine.execXori e rd ra imm s
  | .shli e rd ra imm => Sys2Proof.Machine.execShli e rd ra imm s
  | .shri e rd ra imm => Sys2Proof.Machine.execShri e rd ra imm s
  | .srai e rd ra imm => Sys2Proof.Machine.execSrai e rd ra imm s
  | .seqi e rd ra imm => Sys2Proof.Machine.execSeqi e rd ra imm s
  | .slti e rd ra imm => Sys2Proof.Machine.execSlti e rd ra imm s
  | .sltui e rd ra imm => Sys2Proof.Machine.execSltui e rd ra imm s
  | .sat e rd ra imm => Sys2Proof.Machine.execSat e rd ra imm s
  | .addl e rd ra x6 imm => Sys2Proof.Machine.execAddl e rd ra x6 imm s
  | .andl e rd ra x6 imm => Sys2Proof.Machine.execAndl e rd ra x6 imm s
  | .orl e rd ra x6 imm => Sys2Proof.Machine.execOrl e rd ra x6 imm s
  | .xorl e rd ra x6 imm => Sys2Proof.Machine.execXorl e rd ra x6 imm s
  | .seql e rd ra x6 imm => Sys2Proof.Machine.execSeql e rd ra x6 imm s
  | .sltl e rd ra x6 imm => Sys2Proof.Machine.execSltl e rd ra x6 imm s
  | .sltul e rd ra x6 imm => Sys2Proof.Machine.execSltul e rd ra x6 imm s
  | .ld e rd ra imm => Sys2Proof.Machine.execLd e rd ra imm s
  | .st e rs ra imm => Sys2Proof.Machine.execSt e rs ra imm s
  | .ldl e rd ra x6 imm => Sys2Proof.Machine.execLdl e rd ra x6 imm s
  | .stl e rs ra x6 imm => Sys2Proof.Machine.execStl e rs ra x6 imm s
  | .ldt e rd ra imm => Sys2Proof.Machine.execLdt e rd ra imm s
  | .stt e rs ra imm => Sys2Proof.Machine.execStt e rs ra imm s
  | .lck e rd ra imm => Sys2Proof.Machine.execLck e rd ra imm s
  | .ulk e rdz ra imm => Sys2Proof.Machine.execUlk e rdz ra imm s
  | .tagr e rd ra imm => Sys2Proof.Machine.execTagr e rd ra imm s
  | .tagw e rs ra imm => Sys2Proof.Machine.execTagw e rs ra imm s
  | .bz e ra off => Sys2Proof.Machine.execBz e ra off s
  | .bnz e ra off => Sys2Proof.Machine.execBnz e ra off s
  | .bzl e ra z off => Sys2Proof.Machine.execBzl e ra z off s
  | .bnzl e ra z off => Sys2Proof.Machine.execBnzl e ra z off s
  | .j e z target => Sys2Proof.Machine.execJ e z target s
  | .jal e z target => Sys2Proof.Machine.execJal e z target s
  | .jr e rdz ra rbz x => Sys2Proof.Machine.execJr e rdz ra rbz x s
  | .jalr e rdz ra rbz x => Sys2Proof.Machine.execJalr e rdz ra rbz x s
  | .loop e z4 ra z6 endAddr => Sys2Proof.Machine.execLoop e z4 ra z6 endAddr s
  | .loopi e count endAddr => Sys2Proof.Machine.execLoopi e count endAddr s
  | .wait e rd mask z => Sys2Proof.Machine.execWait e rd mask z s
  | .waitWake e => Sys2Proof.Machine.execWaitWake e s
  | .trap e n => Sys2Proof.Machine.execTrap e n s
  | .rete e z => Sys2Proof.Machine.execRete e z s
  | .drop e z level => Sys2Proof.Machine.execDrop e z level s
  | .fence e z => Sys2Proof.Machine.execFence e z s
  | .brk e z => Sys2Proof.Machine.execBrk e z s
  | .mfs e rd sr => Sys2Proof.Machine.execMfs e rd sr s
  | .mts e sr ra => Sys2Proof.Machine.execMts e sr ra s
  | .windowLoadResponse e fabric => Sys2Proof.Machine.execWindowLoadResponse e fabric s
  | .postedStoreAck e fabric => Sys2Proof.Machine.execPostedStoreAck e fabric s
  | .outsideAccess m a wr => Sys2Proof.Machine.execOutsideAccess m a wr s
  | .ramWriteBack r granule => Sys2Proof.Machine.execRamWriteBack r granule s
  | .interruptTake e => Sys2Proof.Machine.execInterruptTake e s
  | .watchdogFirstStage e => Sys2Proof.Machine.execWatchdogFirstStage e s
  | .watchdogEntry e => Sys2Proof.Machine.execWatchdogEntry e s
  | .watchdogSecondStage e => Sys2Proof.Machine.execWatchdogSecondStage e s
  | .wdogKick m e v => Sys2Proof.Machine.execWdogKick m e v s
  | .debugHaltRequest m e v => Sys2Proof.Machine.execDebugHaltRequest m e v s
  | .debugHaltEntry e => Sys2Proof.Machine.execDebugHaltEntry e s
  | .step m e v => Sys2Proof.Machine.execStep m e v s
  | .debugResume m e v => Sys2Proof.Machine.execDebugResume m e v s
  | .composeStart h => Sys2Proof.Machine.execComposeStart h s
  | .lineTableWrite h idx v => Sys2Proof.Machine.execLineTableWrite h idx v s
  | .lineTableWait h idx => Sys2Proof.Machine.execLineTableWait h idx s
  | .lineTablePal h idx v => Sys2Proof.Machine.execLineTablePal h idx v s
  | .lineTableEnd h op => Sys2Proof.Machine.execLineTableEnd h op s
  | .composeFinish h => Sys2Proof.Machine.execComposeFinish h s
  | .patternCacheFill h a => Sys2Proof.Machine.execPatternCacheFill h a s
  | .videoSourceRead h layer row data r => Sys2Proof.Machine.execVideoSourceRead h layer row data r s
  | .coefDataWrite m h layer v => Sys2Proof.Machine.execCoefDataWrite m h layer v s
  | .tpLoWrite e v => Sys2Proof.Machine.execTpLoWrite e v s
  | .tpLoRead e => Sys2Proof.Machine.execTpLoRead e s
  | .oddWordWrite e a v => Sys2Proof.Machine.execOddWordWrite e a v s
  | .evenWordWrite e a v => Sys2Proof.Machine.execEvenWordWrite e a v s
  | .headStart m h v => Sys2Proof.Machine.execHeadStart m h v s
  | .headStop m h v => Sys2Proof.Machine.execHeadStop m h v s
  | .pclkLock h => Sys2Proof.Machine.execPclkLock h s
  | .beamPlacement h => Sys2Proof.Machine.execBeamPlacement h s
  | .beamAdvance h px => Sys2Proof.Machine.execBeamAdvance h px s
  | .syncMark h => Sys2Proof.Machine.execSyncMark h s
  | .syncHoldover h => Sys2Proof.Machine.execSyncHoldover h s
  | .dpTrain m h v => Sys2Proof.Machine.execDpTrain m h v s
  | .trainingEnd h ok rate lanes => Sys2Proof.Machine.execTrainingEnd h ok rate lanes s
  | .plug h => Sys2Proof.Machine.execPlug h s
  | .unplug h => Sys2Proof.Machine.execUnplug h s
  | .irqHpd h linkLost => Sys2Proof.Machine.execIrqHpd h linkLost s
  | .auxNativeRead m h addr len => Sys2Proof.Machine.execAuxNativeRead m h addr len s
  | .auxNativeWrite m h addr len => Sys2Proof.Machine.execAuxNativeWrite m h addr len s
  | .auxI2cRead m h addr len => Sys2Proof.Machine.execAuxI2cRead m h addr len s
  | .auxI2cWrite m h addr len => Sys2Proof.Machine.execAuxI2cWrite m h addr len s
  | .auxI2cReadMot m h addr len => Sys2Proof.Machine.execAuxI2cReadMot m h addr len s
  | .auxI2cWriteMot m h addr len => Sys2Proof.Machine.execAuxI2cWriteMot m h addr len s
  | .auxReply h r => Sys2Proof.Machine.execAuxReply h r s
  | .auxTimeout h => Sys2Proof.Machine.execAuxTimeout h s
  | .sampleBoundary inputs late => Sys2Proof.Machine.execSampleBoundary inputs late s
  | .keyOn m v => Sys2Proof.Machine.execKeyOn m v s
  | .keyOff m v => Sys2Proof.Machine.execKeyOff m v s
  | .cut m v => Sys2Proof.Machine.execCut m v s
  | .pcfgWrite m n v => Sys2Proof.Machine.execPcfgWrite m n v s
  | .outSet m p v => Sys2Proof.Machine.execOutSet m p v s
  | .outClr m p v => Sys2Proof.Machine.execOutClr m p v s
  | .oeSet m p v => Sys2Proof.Machine.execOeSet m p v s
  | .oeClr m p v => Sys2Proof.Machine.execOeClr m p v s
  | .bankSupplyChange p present v33 => Sys2Proof.Machine.execBankSupplyChange p present v33 s
  | .peg m n v => Sys2Proof.Machine.execPeg m n v s
  | .serTxPush m p v => Sys2Proof.Machine.execSerTxPush m p v s
  | .serRxRead m p => Sys2Proof.Machine.execSerRxRead m p s
  | .serModeWrite m p v => Sys2Proof.Machine.execSerModeWrite m p v s
  | .byteSent p received nacked arbLost => Sys2Proof.Machine.execByteSent p received nacked arbLost s
  | .byteReceived p b perr ferr => Sys2Proof.Machine.execByteReceived p b perr ferr s
  | .pinLineCondition k level => Sys2Proof.Machine.execPinLineCondition k level s
  | .tallyGapExpiry k => Sys2Proof.Machine.execTallyGapExpiry k s
  | .tallyRingWriteDone k r => Sys2Proof.Machine.execTallyRingWriteDone k r s
  | .result0Read m k => Sys2Proof.Machine.execResult0Read m k s
  | .dramTrainingDone ch ok cap => Sys2Proof.Machine.execDramTrainingDone ch ok cap s
  | .patrolScrub ch => Sys2Proof.Machine.execPatrolScrub ch s
  | .dramWriteBack a => Sys2Proof.Machine.execDramWriteBack a s
  | .requestAgeing r => Sys2Proof.Machine.execRequestAgeing r s
  | .bayDmaGo m c v => Sys2Proof.Machine.execBayDmaGo m c v s
  | .bayDmaAbort m c v => Sys2Proof.Machine.execBayDmaAbort m c v s
  | .bayDmaRunStart c => Sys2Proof.Machine.execBayDmaRunStart c s
  | .bayDmaComplete c => Sys2Proof.Machine.execBayDmaComplete c s
  | .bargeArm m n v => Sys2Proof.Machine.execBargeArm m n v s
  | .bargeAbort m n v => Sys2Proof.Machine.execBargeAbort m n v s
  | .shadowLoad n => Sys2Proof.Machine.execShadowLoad n s
  | .bargeTransferStart n => Sys2Proof.Machine.execBargeTransferStart n s
  | .bargeTransferComplete n hostData hostReply => Sys2Proof.Machine.execBargeTransferComplete n hostData hostReply s
  | .copy m v => Sys2Proof.Machine.execCopy m v s
  | .fill m v => Sys2Proof.Machine.execFill m v s
  | .colourKeyedCopy m v => Sys2Proof.Machine.execColourKeyedCopy m v s
  | .solidRectangle m v => Sys2Proof.Machine.execSolidRectangle m v s
  | .line m v => Sys2Proof.Machine.execLine m v s
  | .planerAbort m v => Sys2Proof.Machine.execPlanerAbort m v s
  | .eEoi m e => Sys2Proof.Machine.execEEoi m e s
  | .vClaimRead m v => Sys2Proof.Machine.execVClaimRead m v s
  | .vEoi m v => Sys2Proof.Machine.execVEoi m v s
  | .msiXMessage v => Sys2Proof.Machine.execMsiXMessage v s
  | .swSet m v => Sys2Proof.Machine.execSwSet m v s
  | .holdOffExpiry g => Sys2Proof.Machine.execHoldOffExpiry g s
  | .stagedWrite m off v => Sys2Proof.Machine.execStagedWrite m off v s
  | .raiseArm m g v => Sys2Proof.Machine.execRaiseArm m g v s
  | .raiseAbort m g v => Sys2Proof.Machine.execRaiseAbort m g v s
  | .raiseEnable m g v => Sys2Proof.Machine.execRaiseEnable m g v s
  | .apply g slots => Sys2Proof.Machine.execApply g slots s
  | .bar2Read off dwords => Sys2Proof.Machine.execBar2Read off dwords s
  | .bar2Write off data ep => Sys2Proof.Machine.execBar2Write off data ep s
  | .linkUp speed width => Sys2Proof.Machine.execLinkUp speed width s
  | .completionTimeout r => Sys2Proof.Machine.execCompletionTimeout r s
  | .read seqNo off n => Sys2Proof.Machine.execRead seqNo off n s
  | .write seqNo off data => Sys2Proof.Machine.execWrite seqNo off data s
  | .log seqNo first n => Sys2Proof.Machine.execLog seqNo first n s
  | .powerStatus seqNo => Sys2Proof.Machine.execPowerStatus seqNo s
  | .mainOn seqNo => Sys2Proof.Machine.execMainOn seqNo s
  | .mainOff seqNo => Sys2Proof.Machine.execMainOff seqNo s
  | .mainReset seqNo => Sys2Proof.Machine.execMainReset seqNo s
  | .powerQuadReset seqNo q => Sys2Proof.Machine.execPowerQuadReset seqNo q s
  | .fenceCommand seqNo v => Sys2Proof.Machine.execFenceCommand seqNo v s
  | .ident seqNo => Sys2Proof.Machine.execIdent seqNo s
  | .boot m b => Sys2Proof.Machine.execBoot m b s
  | .extend m b => Sys2Proof.Machine.execExtend m b s
  | .rbCommit m b => Sys2Proof.Machine.execRbCommit m b s
  | .setRtc m b => Sys2Proof.Machine.execSetRtc m b s
  | .witness m b => Sys2Proof.Machine.execWitness m b s
  | .provision m b => Sys2Proof.Machine.execProvision m b s
  | .deploy m b => Sys2Proof.Machine.execDeploy m b s
  | .retire m b => Sys2Proof.Machine.execRetire m b s
  | .keyAdd m b => Sys2Proof.Machine.execKeyAdd m b s
  | .keyRevoke m b => Sys2Proof.Machine.execKeyRevoke m b s
  | .debugOpen m b => Sys2Proof.Machine.execDebugOpen m b s
  | .zeroise m b => Sys2Proof.Machine.execZeroise m b s
  | .rekey m b => Sys2Proof.Machine.execRekey m b s
  | .thPushBase0Write m v => Sys2Proof.Machine.execThPushBase0Write m v s
  | .thPush m v => Sys2Proof.Machine.execThPush m v s
  | .thRngRead m => Sys2Proof.Machine.execThRngRead m s
  | .thRtc0Read m => Sys2Proof.Machine.execThRtc0Read m s
  | .doorChange d level => Sys2Proof.Machine.execDoorChange d level s
  | .sensorAsserted n raw => Sys2Proof.Machine.execSensorAsserted n raw s
  | .alarmClear m v => Sys2Proof.Machine.execAlarmClear m v s
  | .monitorRefresh tj vcore vsram vaon vbat => Sys2Proof.Machine.execMonitorRefresh tj vcore vsram vaon vbat s
  | .spanLinkTrained p hello => Sys2Proof.Machine.execSpanLinkTrained p hello s
  | .spanLinkLoss p => Sys2Proof.Machine.execSpanLinkLoss p s
  | .syncFrame p f => Sys2Proof.Machine.execSyncFrame p f s
  | .eventFrame p origin applyTime masks => Sys2Proof.Machine.execEventFrame p origin applyTime masks s
  | .doorbellFrame p origin ti level6 spanBay => Sys2Proof.Machine.execDoorbellFrame p origin ti level6 spanBay s
  | .timelineProbe p probe turnaround => Sys2Proof.Machine.execTimelineProbe p probe turnaround s
  | .echo p probe turnaround => Sys2Proof.Machine.execEcho p probe turnaround s
  | .voteReq p origin g => Sys2Proof.Machine.execVoteReq p origin g s
  | .votePrepare p g => Sys2Proof.Machine.execVotePrepare p g s
  | .voteAck p member g next => Sys2Proof.Machine.execVoteAck p member g next s
  | .voteCommit p g n tArm => Sys2Proof.Machine.execVoteCommit p g n tArm s
  | .spanArm g => Sys2Proof.Machine.execSpanArm g s
  | .memoryWriteFrame p origin dest tag a data => Sys2Proof.Machine.execMemoryWriteFrame p origin dest tag a data s
  | .readRequestFrame p origin dest tag a len => Sys2Proof.Machine.execReadRequestFrame p origin dest tag a len s
  | .readDataFrame p origin dest tag a data => Sys2Proof.Machine.execReadDataFrame p origin dest tag a data s
  | .remoteCopy m v => Sys2Proof.Machine.execRemoteCopy m v s
  | .remoteCopyAbort m v => Sys2Proof.Machine.execRemoteCopyAbort m v s
  | .alwaysOnPowerOn up bootSel sbAddr => Sys2Proof.Machine.execAlwaysOnPowerOn up bootSel sbAddr s
  | .mainResetRelease spanId => Sys2Proof.Machine.execMainResetRelease spanId s
  | .qrst m v => Sys2Proof.Machine.execQrst m v s
  | .quadResetRelease q => Sys2Proof.Machine.execQuadResetRelease q s
  | .engGo m v => Sys2Proof.Machine.execEngGo m v s
  | .handOver m v => Sys2Proof.Machine.execHandOver m v s
  | .commandCompleted b => Sys2Proof.Machine.execCommandCompleted b s
  | .sensorDeasserted n => Sys2Proof.Machine.execSensorDeasserted n s
  | .rcRead m off => Sys2Proof.Machine.execRcRead m off s
  | .evenWordRead e a => Sys2Proof.Machine.execEvenWordRead e a s
  | .ctsChange p level => Sys2Proof.Machine.execCtsChange p level s
  | .setEndpointId eid => Sys2Proof.Machine.execSetEndpointId eid s
  | .negotiateAlgorithms ed25519 sha512 measSha512 dmtf => Sys2Proof.Machine.execNegotiateAlgorithms ed25519 sha512 measSha512 dmtf s
  | .getCertificate slot off len => Sys2Proof.Machine.execGetCertificate slot off len s
  | .challenge slot nonce => Sys2Proof.Machine.execChallenge slot nonce s
  | .getMeasurements index signed nonce => Sys2Proof.Machine.execGetMeasurements index signed nonce s
  | .trngHealthFailure test => Sys2Proof.Machine.execTrngHealthFailure test s
  | .voteNak p member g => Sys2Proof.Machine.execVoteNak p member g s
  | .voteAbort p g => Sys2Proof.Machine.execVoteAbort p g s
  | .voteTimeout g => Sys2Proof.Machine.execVoteTimeout g s
  | .voteAbandon g => Sys2Proof.Machine.execVoteAbandon g s
  | .writeAckFrame p origin dest tag a => Sys2Proof.Machine.execWriteAckFrame p origin dest tag a s
  | .errorFrame p origin dest tag a => Sys2Proof.Machine.execErrorFrame p origin dest tag a s
  | .frameCrcError p => Sys2Proof.Machine.execFrameCrcError p s
  | .referenceAdvance => Sys2Proof.Machine.execReferenceAdvance s
  | .trimmedAdvance => Sys2Proof.Machine.execTrimmedAdvance s
  | .planerComplete => Sys2Proof.Machine.execPlanerComplete s
  | .linkDown => Sys2Proof.Machine.execLinkDown s
  | .getEndpointId => Sys2Proof.Machine.execGetEndpointId s
  | .getMctpVersionSupport => Sys2Proof.Machine.execGetMctpVersionSupport s
  | .getMessageTypeSupport => Sys2Proof.Machine.execGetMessageTypeSupport s
  | .getVendorMessageSupport => Sys2Proof.Machine.execGetVendorMessageSupport s
  | .getVersion => Sys2Proof.Machine.execGetVersion s
  | .getCapabilities => Sys2Proof.Machine.execGetCapabilities s
  | .getDigests => Sys2Proof.Machine.execGetDigests s
  | .syncInterval => Sys2Proof.Machine.execSyncInterval s
  | .probeSend => Sys2Proof.Machine.execProbeSend s
  | .spanEventApply => Sys2Proof.Machine.execSpanEventApply s
  | .remoteCopyComplete => Sys2Proof.Machine.execRemoteCopyComplete s
  | .mainPowerUp => Sys2Proof.Machine.execMainPowerUp s
  | .pgTimeout => Sys2Proof.Machine.execPgTimeout s
  | .pgLoss => Sys2Proof.Machine.execPgLoss s
  | .perst => Sys2Proof.Machine.execPerst s
  | .bannerRefresh => Sys2Proof.Machine.execBannerRefresh s
  | .rtcAdvance => Sys2Proof.Machine.execRtcAdvance s
  | .vbatLoss => Sys2Proof.Machine.execVbatLoss s
  | .perstRelease => Sys2Proof.Machine.execPerstRelease s

end Sys2Proof.Machine
end

