-- ==== Sys2Proof/Safety.lean ====
section
/-! DEFINITION. The terms in which statements about the block speak: a quiet state, a write that reaches its register, an
engine that can issue and how its instruction retires, what one-time memory may never lose, and the forms of memory. -/

namespace Sys2Proof.Machine

/-! ### The end of a step -/

/-- Nothing of a step is left over: no event and no cycle of its delivery, no Tollhouse command, no Barge abort, no boot
is due. -/
def quiet (s : State) : Bool :=
  s.ferryDue.isEmpty && decide (s.rg.round = 0) && s.landDue.isEmpty && s.bargeAborts.isEmpty && s.th.starts.isEmpty &&
  !(s.th.bootDue && thUp s && mainUp s && trainingOver s)

/-- The answer of a command whose own effect is `s`: the rest of the step follows it (R88, R333, R406). -/
abbrev answers (s : State) : Host.Outcome State Fault Refusal := .next (wind s)

/-! ### Writes and reads that reach a register (R12, R31, R78, R108, R385, R386) -/

/-- The master reaches control space, the register is listed and present, and neither the fence nor authority, nor the
Task level of an engine, turns the write away. -/
def reaches (s : State) (m : Master) (off : Nat) : Bool :=
  busOpen s m off && !(decide (m = .host) && fbit s Fd.sbFenceAll) &&
  match RegMap.lookup off with
  | none => false
  | some h => hitPresent s h && !writeRefused s m off h && (taskForeign m h).isNone

/-! ### Engines -/

/-- The engine as the instruction at its PC sees it: in the slot of JAL or JALR, g15 holds the address after the slot
(R138, R158). -/
def slotView (u : Eng) (n : Nat) : Eng :=
  match u.branch with
  | some b => if b.link then gput u 15 (u.pc + BitVec.ofNat 20 n) else u
  | none => u

/-- The `n` words at the PC of engine `e` are there for it to issue: it is ready, nothing is due before the instruction,
its slot is not skipped, and the words can be fetched. -/
def fetched (s : State) (e n : Nat) : Bool :=
  let u := engOf s e
  engReady s e && !engDue u && !(u.skipSlot && u.branch.isSome) && (fetchWords s e u.pc n).1.isNone

/-- Engine `e` issues the instruction of `n` words at its PC: they are there, and they are not reserved (R132). -/
def canIssue (s : State) (e n : Nat) : Bool := fetched s e n && spelled s e (engOf s e).pc

/-- The state in which the instruction acts: its words are fetched. -/
def issuing (s : State) (e n : Nat) : State :=
  setEng (fetchWords s e (engOf s e).pc n).2 e (slotView (engOf s e) n)

/-- The instruction completes in state `t` with register writes `ws` and loaded values `ls`. -/
def retires (s t : State) (e n : Nat) (ws : List (Nat × Word)) (ls : List (BitVec 4 × Word)) :
    Host.Outcome State Fault Refusal :=
  answers (engFinish t e (engOf s e) n ws ls none none none none)

/-- No load, store, fault, branch, shadow, step or loop end stands at the engine's PC. -/
def calm (u : Eng) : Bool :=
  u.pendLd.isEmpty && u.fab.isEmpty && u.delayed.isEmpty && u.impr.isEmpty && u.branch.isNone && u.shadow.isNone &&
  !u.skipSlot && !u.stepping && !u.stopDue && u.sleep.isNone && !(u.la && decide (u.pc = u.le))

/-! ### Invariants -/

/-- Memory keeps its canonical form, and MEM_TOP lies within what four channels of 64 GiB hold (R310). -/
def memForm (s : State) : Prop := Memory.wf s.mem.cells = true ∧ s.mem.top ≤ 2 ^ 40

/-- Before provisioning no owner key and no seed is programmed (R401, R402, R404). -/
def otpForm (s : State) : Prop := s.th.provisionFuse = false → s.th.ownerKeys = [] ∧ s.th.seed = none

/-- What one-time memory never loses (R399, R401, R404): fuses, lifecycle, keys, revocations, the seed, counters. -/
structure otpKept (s t : State) : Prop where
  provision : s.th.provisionFuse = true → t.th.provisionFuse = true
  deploy : s.th.deployFuse = true → t.th.deployFuse = true
  retire : s.th.retireFuse = true → t.th.retireFuse = true
  life : life s ≤ life t
  keys : ∀ k v, Sparse.find k s.th.ownerKeys = some v → Sparse.find k t.th.ownerKeys = some v
  revoked : ∀ k < 4, NSet.has k s.th.revoked = true → NSet.has k t.th.revoked = true
  seed : ∀ v, s.th.seed = some v → t.th.seed = some v
  counters : ∀ c, counterOf s c ≤ counterOf t c
  part : t.variant = s.variant

/-- No engine stands at the reserved level 3, nor at a ceiling or a DROP target of 3 (R144, R146). -/
def legalLevels (s : State) : Prop :=
  ∀ e, (engOf s e).level ≠ 3 ∧ (engOf s e).ceil ≠ 3 ∧ (engOf s e).shadow ≠ some 3

end Sys2Proof.Machine
end

