-- ==== Sys2Proof/Certificates/Slice0/Obligations.lean ====
section
/-! DEFINITION. The statements about the block, family by family; each formalises rules R<n> of the specification. -/

open Sys2Proof Sys2Proof.Machine

/-! ### Engines: results of instructions (R131-R143) -/

/-- From R134, R135, R143: what the R-format instructions without clamp write to rd, in every context in which they
issue; writes of g0 are discarded by the operation that writes registers. From R133-R135, R143: the I-format and
L-format instructions without clamp; the first compare and add with the sign-extended constant, the logical ones and
SLTUI with the zero-extended one. -/
def Obligations.AluResults : Prop :=
  (∀ (s : State) (e : Fin 128) (rd ra rb : BitVec 4), canIssue s e 1 = true →
    let v := slotView (engOf s e) 1
    let a := greg v ra.toNat
    let b := greg v rb.toNat
    let done := fun (w : Word) => retires s (issuing s e 1) e 1 [(rd.toNat, w)] []
    exec (.add e rd ra rb 0) s = done (a + b) ∧
    exec (.sub e rd ra rb 0) s = done (a - b) ∧
    exec (.and e rd ra rb 0) s = done (a &&& b) ∧
    exec (.or e rd ra rb 0) s = done (a ||| b) ∧
    exec (.xor e rd ra rb 0) s = done (a ^^^ b) ∧
    exec (.shl e rd ra rb 0) s = done (a <<< (b.toNat % 32)) ∧
    exec (.shr e rd ra rb 0) s = done (a >>> (b.toNat % 32)) ∧
    exec (.sra e rd ra rb 0) s = done (a.sshiftRight (b.toNat % 32)) ∧
    exec (.seq e rd ra rb 0) s = done (if a = b then 1 else 0) ∧
    exec (.sne e rd ra rb 0) s = done (if a = b then 0 else 1) ∧
    exec (.slt e rd ra rb 0) s = done (if a.toInt < b.toInt then 1 else 0) ∧
    exec (.sltu e rd ra rb 0) s = done (if a.toNat < b.toNat then 1 else 0)) ∧
  (∀ (s : State) (e : Fin 128) (rd ra : BitVec 4) (imm : BitVec 6) (w : Word),
    (canIssue s e 1 = true →
      let a := greg (slotView (engOf s e) 1) ra.toNat
      let done := fun (r : Word) => retires s (issuing s e 1) e 1 [(rd.toNat, r)] []
      exec (.addi e rd ra imm) s = done (a + imm.signExtend 20) ∧
      exec (.andi e rd ra imm) s = done (a &&& imm.zeroExtend 20) ∧
      exec (.ori e rd ra imm) s = done (a ||| imm.zeroExtend 20) ∧
      exec (.xori e rd ra imm) s = done (a ^^^ imm.zeroExtend 20) ∧
      exec (.shli e rd ra imm) s = done (a <<< imm.toNat) ∧
      exec (.shri e rd ra imm) s = done (a >>> imm.toNat) ∧
      exec (.srai e rd ra imm) s = done (a.sshiftRight imm.toNat) ∧
      exec (.seqi e rd ra imm) s = done (if a = imm.signExtend 20 then 1 else 0) ∧
      exec (.slti e rd ra imm) s = done (if a.toInt < imm.toInt then 1 else 0) ∧
      exec (.sltui e rd ra imm) s = done (if a.toNat < imm.toNat then 1 else 0)) ∧
    (canIssue s e 2 = true →
      let a := greg (slotView (engOf s e) 2) ra.toNat
      let done := fun (r : Word) => retires s (issuing s e 2) e 2 [(rd.toNat, r)] []
      exec (.addl e rd ra 0 w) s = done (a + w) ∧
      exec (.andl e rd ra 0 w) s = done (a &&& w) ∧
      exec (.orl e rd ra 0 w) s = done (a ||| w) ∧
      exec (.xorl e rd ra 0 w) s = done (a ^^^ w) ∧
      exec (.seql e rd ra 0 w) s = done (if a = w then 1 else 0) ∧
      exec (.sltl e rd ra 0 w) s = done (if a.toInt < w.toInt then 1 else 0) ∧
      exec (.sltul e rd ra 0 w) s = done (if a.toNat < w.toNat then 1 else 0)))

/-- From R134, R137, R143: clamped results and products. ADDS, SUBS, SAT n and the clamping MAC write the exact result
clamped to its signed range and set STATUS.sat where it clamped; MUL and the other MAC leave sat. A pair takes the low
20 bits in the even register and the high 20 in the next. -/
def Obligations.SaturatingAndPairResults : Prop :=
  ∀ (s : State) (e : Fin 128) (rd ra rb : BitVec 4) (n : BitVec 6), canIssue s e 1 = true →
    let v := slotView (engOf s e) 1
    let a := greg v ra.toNat
    let b := greg v rb.toNat
    let clamp := fun (k : Nat) (x : Int) => max (-2 ^ (k - 1)) (min (2 ^ (k - 1) - 1) x)
    let done := fun (hit : Bool) (ws : List (Nat × Word)) =>
      retires s (setEng (issuing s e 1) e { v with sat := v.sat || hit }) e 1 ws []
    let word := fun (k : Nat) (x : Int) =>
      done (decide (clamp k x ≠ x)) [(rd.toNat, BitVec.ofInt 20 (clamp k x))]
    let pair := fun (x : Int) =>
      [(rd.toNat, BitVec.ofInt 20 x), (rd.toNat + 1, BitVec.ofInt 20 (x / 2 ^ 20))]
    exec (.adds e rd ra rb 0) s = word 20 (a.toInt + b.toInt) ∧
    exec (.subs e rd ra rb 0) s = word 20 (a.toInt - b.toInt) ∧
    (1 ≤ n.toNat ∧ n.toNat ≤ 20 → exec (.sat e rd ra n) s = word n.toNat a.toInt) ∧
    (rd.toNat % 2 = 0 →
      let acc := (greg v (rd.toNat + 1) ++ greg v rd.toNat).toInt + a.toInt * b.toInt
      exec (.mul e rd ra rb 0) s = retires s (issuing s e 1) e 1 (pair (a.toInt * b.toInt)) [] ∧
      exec (.mul e rd ra rb 1) s = retires s (issuing s e 1) e 1 (pair (a.toNat * b.toNat : Nat)) [] ∧
      exec (.mul e rd ra rb 2) s = retires s (issuing s e 1) e 1 (pair (a.toInt * b.toNat)) [] ∧
      exec (.mac e rd ra rb 0) s = done false (pair acc) ∧
      exec (.mac e rd ra rb 1) s = done (decide (clamp 40 acc ≠ acc)) (pair (clamp 40 acc)))

/-- From R131, R132, R147: fields marked zero that are not zero, odd registers of pairs, and values without a meaning
take the Unimplemented trap, class 1 with EADDR = the PC; so does, whatever the command, a word at the PC of a reserved
opcode or sub-code (log entry 10); no load stands out. -/
def Obligations.UnimplementedForms : Prop :=
  ∀ (s : State) (e : Fin 128) (rd ra rb : BitVec 4) (x : BitVec 2) (x6 n : BitVec 6) (w : Word) (z8 : BitVec 8)
    (z10 : BitVec 10) (z14 : BitVec 14), loadsOut (engOf s e) = false →
    let u := engOf s e
    let trap := fun (k : Nat) => answers (engFault (fetchWords s e u.pc k).2 e u 1 u.pc)
    (fetched s e 1 = true → spelled s e u.pc = false →
      ∀ i ∈ [Instr.add e rd ra rb x, .mul e rd ra rb x, .addi e rd ra n, .ld e rd ra n, .stt e rd ra n, .bz e ra z10,
          .jr e 0 ra 0 x, .wait e rd z8 x, .trap e z8, .rete e z8, .drop e n x, .fence e z8, .brk e z8, .mfs e rd ra,
          .mts e rd ra], exec i s = trap 1) ∧
    (fetched s e 2 = true → spelled s e u.pc = false →
      ∀ i ∈ [Instr.addl e rd ra x6 w, .ldl e rd ra x6 w, .bzl e ra z10 w, .j e z14 w, .loop e rd ra x6 w, .loopi e z14 w],
        exec i s = trap 2) ∧
    (canIssue s e 1 = true →
      (x ≠ 0 → ∀ i ∈ [Instr.add e rd ra rb x, .sub e rd ra rb x, .adds e rd ra rb x, .subs e rd ra rb x,
          .and e rd ra rb x, .or e rd ra rb x, .xor e rd ra rb x, .shl e rd ra rb x, .shr e rd ra rb x,
          .sra e rd ra rb x, .seq e rd ra rb x, .sne e rd ra rb x, .slt e rd ra rb x, .sltu e rd ra rb x,
          .jr e 0 ra 0 x, .jalr e 0 ra 0 x, .wait e rd z8 x], exec i s = trap 1) ∧
      (rd.toNat % 2 = 1 ∨ x = 3 → exec (.mul e rd ra rb x) s = trap 1) ∧
      (rd.toNat % 2 = 1 ∨ x = 2 ∨ x = 3 → exec (.mac e rd ra rb x) s = trap 1) ∧
      (n.toNat = 0 ∨ 20 < n.toNat → exec (.sat e rd ra n) s = trap 1) ∧
      (13 < rd.toNat → exec (.ldt e rd ra n) s = trap 1 ∧ exec (.stt e rd ra n) s = trap 1) ∧
      (rd ≠ 0 → exec (.ulk e rd ra n) s = trap 1 ∧ exec (.jr e rd ra rb x) s = trap 1 ∧
        exec (.jalr e rd ra rb x) s = trap 1) ∧
      (z8 ≠ 0 → exec (.rete e z8) s = trap 1 ∧ exec (.fence e z8) s = trap 1 ∧ exec (.brk e z8) s = trap 1) ∧
      (n ≠ 0 ∨ x = 3 → exec (.drop e n x) s = trap 1)) ∧
    (canIssue s e 2 = true →
      (x6 ≠ 0 → ∀ i ∈ [Instr.addl e rd ra x6 w, .andl e rd ra x6 w, .orl e rd ra x6 w, .xorl e rd ra x6 w,
          .seql e rd ra x6 w, .sltl e rd ra x6 w, .sltul e rd ra x6 w, .ldl e rd ra x6 w, .stl e rd ra x6 w,
          .loop e 0 ra x6 w], exec i s = trap 2) ∧
      (rd ≠ 0 → exec (.loop e rd ra x6 w) s = trap 2) ∧
      (z10 ≠ 0 → exec (.bzl e ra z10 w) s = trap 2 ∧ exec (.bnzl e ra z10 w) s = trap 2) ∧
      (z14 ≠ 0 → exec (.j e z14 w) s = trap 2 ∧ exec (.jal e z14 w) s = trap 2))

/-! ### Engines: memory (R113-R130) -/

/-- From R113, R116, R119, R121, R123, R143: words in RAM. A load answers the word of its slot, which the next
instruction does not see yet; a store changes its slot alone, where the slot's watch bit is 0 and the granule is not
uncorrectable. A watched slot faults with class 6, an uncorrectable granule with class 5. While an earlier access of the
engine to that RAM is still on its way, through a window, both wait (R123, R130). -/
def Obligations.RamWordAccess : Prop :=
  ∀ (s : State) (e : Fin 128) (r ra : BitVec 4) (imm : BitVec 6) (w : Word) (n k slot : Nat) (load store : Instr)
    (disp : Word),
    (n = 1 ∧ load = .ld e r ra imm ∧ store = .st e r ra imm ∧ disp = imm.signExtend 20) ∨
      (n = 2 ∧ load = .ldl e r ra 0 w ∧ store = .stl e r ra 0 w ∧ disp = w) →
    canIssue s e n = true →
    let u := engOf s e
    let v := slotView u n
    let t := issuing s e n
    let a := greg v ra.toNat + disp
    engLoc e a = .ram k slot →
    let g := granOf t k
    (olderAt t v.fab (nearTarget e a) = true →
      exec load s = answers s ∧ (bit g.watch.toNat slot = false → exec store s = answers s)) ∧
    (olderAt t v.fab (nearTarget e a) = false → g.mark ≠ .bad →
      exec load s = retires s (ramCheck t k).2 e n [] [(r, granWord g slot)]) ∧
    (olderAt t v.fab (nearTarget e a) = false → g.mark ≠ .bad → bit g.watch.toNat slot = false →
      exec store s = retires s (ramStore (ramCheck t k).2 k (granSet g slot (greg v r.toNat))) e n [] []) ∧
    (olderAt t v.fab (nearTarget e a) = false → loadsOut u = false → g.mark = .bad → bit g.watch.toNat slot = false →
      exec load s = answers (engFault (raise t (ramBay k) 4) e u 5 a) ∧
      exec store s = answers (engFault (raise t (ramBay k) 4) e u 5 a)) ∧
    (loadsOut u = false → bit g.watch.toNat slot = true → exec store s = answers (engFault t e u 6 a))

/-- From R113, R123, R124, R128-R130: windows and device registers. A window load goes out to its chip address, a load
of a device register beyond the engine's own to that register; a store to either is posted while WPEND is below 8 and
waits at 8; a listed register of the engine's own answers a load at once and takes a store, unless an earlier access to
the same target is still on its way; at Task level a store to a window base faults with class 2; a word address that
leads nowhere or is not listed takes the Bus fault. -/
def Obligations.WindowAndDeviceAccess : Prop :=
  ∀ (s : State) (e : Fin 128) (r ra : BitVec 4) (imm : BitVec 6), canIssue s e 1 = true →
    let u := engOf s e
    let v := slotView u 1
    let t := issuing s e 1
    let a := greg v ra.toNat + imm.signExtend 20
    let val := greg v r.toNat
    let far := fun (x : FabTgt) =>
      exec (.ld e r ra imm) s = answers (engFinish t e u 1 [] [] (some (r, x)) none none none) ∧
      (wpend v < 8 → exec (.st e r ra imm) s =
        retires s (setEng t e { v with fab := v.fab ++ [FabOp.store x val v.level] }) e 1 [] []) ∧
      (8 ≤ wpend v → exec (.st e r ra imm) s = answers s)
    (∀ k o, engLoc e a = .window k o → far (.chip (BitVec.ofNat 48 (winBase v k + 4 * o)))) ∧
    (∀ d, engLoc e a = .device d → devListed e d = true →
      (devFar d = true → far (.dev a)) ∧
      (devFar d = false → olderAt t v.fab (nearTarget e a) = false →
        exec (.ld e r ra imm) s =
          retires s (devRead t e d).2 e 1 [] [(r, BitVec.ofNat 20 (devRead t e d).1)] ∧
        (¬ (isWin d = true ∧ v.level = 2) →
          exec (.st e r ra imm) s = retires s (devWrite t e d val.toNat) e 1 [] [])) ∧
      (devFar d = false → olderAt t v.fab (nearTarget e a) = true →
        exec (.ld e r ra imm) s = answers s ∧
        (¬ (isWin d = true ∧ v.level = 2) → exec (.st e r ra imm) s = answers s)) ∧
      (isWin d = true → u.level = 2 → loadsOut u = false → exec (.st e r ra imm) s = answers (engFault t e u 2 u.pc))) ∧
    (engLoc e a = .unmapped ∨ (∃ d, engLoc e a = .device d ∧ devListed e d = false) →
      loadsOut u = false →
      exec (.ld e r ra imm) s = answers (engFault t e u 4 a) ∧
      exec (.st e r ra imm) s = answers (engFault t e u 4 a))

/-- From R116, R120, R121, R143: whole granules and tag bits. LDT loads the three words, STT stores them and leaves the
tag bits, LCK answers the old lock bit and sets it, ULK clears it, TAGR reads the tag bits as four, TAGW (not at Task
level) writes the three watch bits; the granule has no error, and no earlier access of the engine to that RAM is on its
way. -/
def Obligations.GranuleAndTagAccess : Prop :=
  ∀ (s : State) (e : Fin 128) (r ra : BitVec 4) (imm : BitVec 6) (k slot : Nat), canIssue s e 1 = true →
    let u := engOf s e
    let v := slotView u 1
    let t := issuing s e 1
    engLoc e (greg v ra.toNat + imm.signExtend 20) = .ram k slot →
    let g := granOf t k
    g.mark = .ok → olderAt t v.fab (nearTarget e (greg v ra.toNat + imm.signExtend 20)) = false →
    let done := fun (h : Granule) (ls : List (BitVec 4 × Word)) => retires s (ramStore t k h) e 1 [] ls
    (r.toNat ≤ 13 → exec (.ldt e r ra imm) s = retires s t e 1 [] [(r, g.w0), (r + 1, g.w1), (r + 2, g.w2)]) ∧
    (r.toNat ≤ 13 → g.watch = 0 → exec (.stt e r ra imm) s =
      done { g with w0 := greg v r.toNat, w1 := greg v (r.toNat + 1), w2 := greg v (r.toNat + 2) } []) ∧
    exec (.lck e r ra imm) s = done { g with lock := true } [(r, if g.lock then 1 else 0)] ∧
    exec (.ulk e 0 ra imm) s = done { g with lock := false } [] ∧
    exec (.tagr e r ra imm) s =
      retires s t e 1 [] [(r, BitVec.ofNat 20 (8 * (if g.lock then 1 else 0) + g.watch.toNat))] ∧
    (u.level ≠ 2 → exec (.tagw e r ra imm) s =
      done { g with watch := BitVec.ofNat 3 ((greg v r.toNat).toNat % 8) } []) ∧
    (u.level = 2 → loadsOut u = false → exec (.tagw e r ra imm) s = answers (engFault (fetchWords s e u.pc 1).2 e u 2 u.pc))

/-! ### Engines: control flow (R138-R142, R158) -/

/-- From R138, R143: branches and jumps, outside a delay slot and a DROP shadow. The branch is recorded with its target,
from the address of its slot for the conditional ones, and whether it is taken; its slot stands next. From R140, R143:
LOOP and LOOPI load LC, LS (the instruction that follows) and LE and make the loop active; with count 0 the loop does
not become active and the engine goes on after the instruction at LE. -/
def Obligations.ControlFlow : Prop :=
  (∀ (s : State) (e : Fin 128) (ra : BitVec 4) (off : BitVec 10) (w : Word), boundaryFree (engOf s e) = true →
    let u := engOf s e
    let x := greg u ra.toNat
    let go := fun (n : Nat) (target : Word) (taken link : Bool) =>
      answers (engFinish (fetchWords s e u.pc n).2 e u n [] [] none
        (some { addr := u.pc, target := target, taken := taken, link := link, pt := false }) none none)
    (canIssue s e 1 = true →
      exec (.bz e ra off) s = go 1 (u.pc + 1 + off.signExtend 20) (decide (x = 0)) false ∧
      exec (.bnz e ra off) s = go 1 (u.pc + 1 + off.signExtend 20) (decide (x ≠ 0)) false ∧
      exec (.jr e 0 ra 0 0) s = go 1 x true false ∧
      exec (.jalr e 0 ra 0 0) s = go 1 x true true) ∧
    (canIssue s e 2 = true →
      exec (.bzl e ra 0 w) s = go 2 (u.pc + 2 + w) (decide (x = 0)) false ∧
      exec (.bnzl e ra 0 w) s = go 2 (u.pc + 2 + w) (decide (x ≠ 0)) false ∧
      exec (.j e 0 w) s = go 2 w true false ∧
      exec (.jal e 0 w) s = go 2 w true true)) ∧
  (∀ (s : State) (e : Fin 128) (ra : BitVec 4) (c : BitVec 14) (le : Word), boundaryFree (engOf s e) = true →
    canIssue s e 2 = true →
    let u := engOf s e
    let t := fun (count : Word) => setEng (issuing s e 2) e
      { slotView u 2 with lc := count, ls := u.pc + 2, le := le, la := decide (count ≠ 0) }
    let go := fun (count : Word) =>
      if count = 0 then answers (engFinish (t count) e u 2 [] [] none none (some (le + sizeAt (t count) e le)) none)
      else retires s (t count) e 2 [] []
    exec (.loop e 0 ra 0 le) s = go (greg u ra.toNat) ∧ exec (.loopi e c le) s = go (c.zeroExtend 20))

/-- From R136, R138, R140, R146, R162: what every completed instruction does to the engine apart from its own effect.
The writes and the loads of the instruction win over the values that the loads before it brought; a slot goes to the
target of a taken branch; an instruction at LE of an active loop counts LC down and goes to LS, or ends the loop; a DROP
shadow ends at its level. No fault, halt or posted access is due, and the engine is no longer stepping. -/
def Obligations.InstructionCompletion : Prop :=
  ∀ (s : State) (e : Fin 128) (u : Eng) (n : Nat) (ws : List (Nat × Word)) (ls : List (BitVec 4 × Word))
    (br : Option Branch) (sh : Option (BitVec 2)),
    let v := engOf s e
    v.delayed = [] → v.impr = [] → v.stopDue = false → v.stepping = false →
    let t := engOf (engFinish s e u n ws ls none br none sh) e
    let next := u.pc + BitVec.ofNat 20 n
    (∀ r, r ≠ 0 → (∀ p ∈ ws, p.1 ≠ r) → (∀ p ∈ u.pendLd, p.1.toNat ≠ r) → greg t r = greg v r) ∧
    (∀ r x, r ≠ 0 → ws = [(r, x)] → greg t r = x) ∧
    (∀ r x, r ≠ 0 → ws = [] → u.pendLd = [(BitVec.ofNat 4 r, x)] → r < 16 → (∀ p ∈ ls, p.1.toNat ≠ r) → greg t r = x) ∧
    (∀ r, r ≠ 0 → ws = [] → (∃ p ∈ ls, p.1.toNat = r) → greg t r = greg v r) ∧
    t.pendLd = ls ∧ t.branch = br ∧ t.shadow = sh ∧ t.sleep = none ∧ t.level = u.shadow.getD v.level ∧
    (∀ b, u.branch = some b → b.taken = true → t.pc = b.target) ∧
    (u.branch = none → br ≠ none → t.pc = next) ∧
    ((u.branch = none ∧ br = none) ∨ (∃ b, u.branch = some b ∧ b.taken = false) →
      (v.la = true ∧ u.pc = v.le →
        (1 < v.lc.toNat → t.pc = v.ls ∧ t.lc = v.lc - 1 ∧ t.la = true) ∧
        (v.lc.toNat ≤ 1 → t.pc = next ∧ t.lc = 0 ∧ t.la = false)) ∧
      (¬ (v.la = true ∧ u.pc = v.le) → t.pc = next ∧ t.lc = v.lc ∧ t.la = v.la))

/-- The frame of an instruction that writes only registers: in a calm engine, with nothing left over from the step
before, nothing but that engine's destination register, PC, fetch buffer (which holds no other granule than before but
as the RAM has it) and FAULT_FIRST changes, and with ADDS and SUBS STATUS.sat, which stays set. -/
def Obligations.AluFrame : Prop :=
  ∀ (s : State) (e : Fin 128) (rd ra rb : BitVec 4) (imm : BitVec 6) (t : State), quiet s = true →
    canIssue s e 1 = true → fetchWords s e (engOf s e).pc 1 = (none, s) → calm (engOf s e) = true →
    ∀ i ∈ [Instr.add e rd ra rb 0, .sub e rd ra rb 0, .and e rd ra rb 0, .or e rd ra rb 0, .xor e rd ra rb 0,
        .shl e rd ra rb 0, .shr e rd ra rb 0, .sra e rd ra rb 0, .seq e rd ra rb 0, .sne e rd ra rb 0,
        .slt e rd ra rb 0, .sltu e rd ra rb 0, .addi e rd ra imm, .adds e rd ra rb 0, .subs e rd ra rb 0],
      exec i s = .next t →
      (∃ g sat f b, t = { setEng s e
            { engOf s e with g := g, sat := sat, pc := (engOf s e).pc + 1, fbuf := b } with faultFirst := f } ∧
        (∀ k x, (k, x) ∈ b → Sparse.find k (engOf s e).fbuf = none → x = granOf s k) ∧
        ((engOf s e).sat = true → sat = true) ∧
        (i ≠ .adds e rd ra rb 0 ∧ i ≠ .subs e rd ra rb 0 → sat = (engOf s e).sat) ∧
        ∀ r, r ≠ rd.toNat → Sparse.get 0 r g = Sparse.get 0 r (engOf s e).g) ∧
      (∀ a, memByte t a = memByte s a) ∧ (∀ o, rget t o = rget s o) ∧ (∀ k, granOf t k = granOf s k) ∧
      ∀ f : Fin 128, f ≠ e → engOf t f = engOf s f

/-! ### Engines: traps, levels, special registers, sleep (R92, R111, R143-R167) -/

/-- From R92, R111, R130, R143, R146, R162: instructions that complete without a memory access. WAIT takes the lowest
masked task input that is not zero, decrements it and answers its number; MFS reads and MTS writes a special register
(at Task level only STATUS, LC, LS and LE); DROP to a level not above the present one lowers CEIL at once and the level
after its shadow; FENCE completes when no posted store is out, and waits while one is. -/
def Obligations.SystemInstructions : Prop :=
  ∀ (s : State) (e : Fin 128) (r : BitVec 4) (mask : BitVec 8) (n : BitVec 4) (l : BitVec 2), canIssue s e 1 = true →
    let u := engOf s e
    let v := slotView u 1
    let t := issuing s e 1
    (boundaryFree u = true →
      (∀ k, tiReady t e mask.toNat = some k →
        exec (.wait e r mask 0) s = retires s (tiDec t e k) e 1 [(r.toNat, BitVec.ofNat 20 k)] []) ∧
      (tiReady t e mask.toNat = none →
        exec (.wait e r mask 0) s = answers (setEng (fetchWords s e u.pc 1).2 e { u with sleep := some (r, mask) })) ∧
      (l ≠ 3 → u.level.toNat ≤ l.toNat →
        exec (.drop e 0 l) s =
          answers (engFinish (setEng t e { v with ceil := l }) e u 1 [] [] none none none (some l)))) ∧
    (u.level ≠ 2 ∨ n.toNat < 4 →
      exec (.mfs e r n) s = retires s t e 1 [(r.toNat, sregRead v n.toNat)] [] ∧
      exec (.mts e n r) s =
        retires s (setEng t e (sregWrite v n.toNat (greg v r.toNat) (decide (u.level = 2)))) e 1 [] []) ∧
    (wpend v = 0 → exec (.fence e 0) s = retires s t e 1 [] []) ∧
    (wpend v ≠ 0 → exec (.fence e 0) s = answers s)

/-- From R129, R143, R147, R149, R151: TRAP n below 240 enters class 8 with number n, and saves the address of the next
instruction, before which a delayed fault of a load falls; 240-255 enter class 9, the Secure gate, on an engine with the
Secure grant, and fault with class 2 on another. From R144, R146, R164: nothing raises an engine above its ceiling by
RETE: a saved level below CEIL, or the reserved one, takes the Privilege Return exception (class 10) to Secure level and
sets bit 7 of the engine's FAULT_OWN, and EINST0 keeps the PC that the return named; without the Secure grant it
escalates, and inside the breakwater handler it locks the engine; DROP to a higher level, RETE and TAGW at Task level
fault with class 2. -/
def Obligations.TrapsAndPrivilege : Prop :=
  (∀ (s : State) (e : Fin 128) (n : BitVec 8), canIssue s e 1 = true → boundaryFree (engOf s e) = true →
    loadsOut (engOf s e) = false →
    let u := engOf s e
    let t := (fetchWords s e u.pc 1).2
    let enter := fun (c : Nat) =>
      engBoundary (engEnter (setEng t e (trapped (engOf t e))) e
        { cls := c, num := n.toNat, addr := none, epc := u.pc + 1, flags := 0, words := none }) e
    exec (.trap e n) s = answers
      (if n.toNat < 240 then enter 8 else if granted t e then enter 9 else engFault t e u 2 u.pc)) ∧
  (∀ (s : State) (e : Fin 128) (l : BitVec 2), canIssue s e 1 = true → boundaryFree (engOf s e) = true →
    loadsOut (engOf s e) = false →
    let u := engOf s e
    let t := (fetchWords s e u.pc 1).2
    let lvl := bits (if u.bw then u.bwst else u.estat).toNat 1 0
    (l.toNat < u.level.toNat → exec (.drop e 0 l) s = answers (engFault t e u 2 u.pc)) ∧
    (u.level = 2 → exec (.rete e 0) s = answers (engFault t e u 2 u.pc)) ∧
    (u.level ≠ 2 → lvl < u.ceil.toNat ∨ lvl = 3 → u.bw = false → granted t e = true →
      exec (.rete e 0) s = answers (engEnter (setEng (raise (thPrivReturn t e) (bayEng e) 7) e { u with einst0 := u.epc }) e
        { cls := 10, num := 0, addr := some (u.estat &&& estatMask), epc := u.pc, flags := 0, words := none })) ∧
    (u.level ≠ 2 → lvl < u.ceil.toNat ∨ lvl = 3 → u.bw = false → granted t e = false →
      exec (.rete e 0) s = answers (engEscalate (raise (thPrivReturn t e) (bayEng e) 7) e
        { cls := 10, num := 0, addr := some (u.estat &&& estatMask), epc := u.pc, flags := 0, words := none } false)) ∧
    (u.level ≠ 2 → lvl < u.ceil.toNat ∨ lvl = 3 → u.bw = true →
      exec (.rete e 0) s = answers (engLock (raise (thPrivReturn t e) (bayEng e) 7) e 10 u.pc)))

/-- From R147, R148, R151, R152: taking an exception in an engine with hold 0 whose mask is below the fault level of the
class (class 11 and 10 are not masked this way). EPC takes the saved PC, ESTAT the flags and the STATUS of before,
ECAUSE the class, the number and hold; the level becomes Secure for classes 9 and 10 and from Secure, else System, CEIL
with it; the loop is not active, the mask takes the fault level, the presented level or 15, and the PC is the vector,
from SECVEC at Secure level and from VBASE else. -/
def Obligations.ExceptionEntry : Prop :=
  ∀ (s : State) (e : Nat) (x : Exc), 1 ≤ x.cls → x.cls ≤ 11 → x.num < 256 → x.flags < 128 →
    let u := engOf s e
    u.pendLd = [] → u.bw = false → u.shadow = none →
    x.cls = 10 ∨ (holdOf u = false ∧ (x.cls = 11 ∨ u.mask.toNat < faultLevel u x.cls)) →
    let el : BitVec 2 := if x.cls = 9 ∨ x.cls = 10 ∨ u.level = 0 then 0 else 1
    let base : Word :=
      if el = 0 then BitVec.ofNat 20 (fget s (Fd.engSecvecBase (e / 4) (e % 4)) * 256) else u.vbase &&& 0xFFF00
    let pc := base + BitVec.ofNat 20 (8 * x.cls)
    (fetchCheck (setEng s e { u with fbuf := [] }) e pc).1 = none →
    let v := engOf (engEnter s e x) e
    v.epc = x.epc ∧
    v.estat.toNat = x.flags * 2 ^ 13 + statusWord { u with bw := false } ∧
    bits v.ecause.toNat 15 12 = x.cls ∧ bits v.ecause.toNat 7 0 = x.num ∧ holdOf v = true ∧
    v.eaddr = x.addr.getD u.eaddr ∧
    v.level = el ∧ v.ceil = el ∧ v.la = false ∧ v.pc = pc ∧ v.bw = false ∧ v.branch = none ∧ v.sleep = none ∧
    v.fbuf = (fetchFresh s e v).fbuf ∧
    v.mask.toNat = (if x.cls = 11 then x.num % 16 else if x.cls = 10 then 15 else faultLevel u x.cls) ∧
    v.g = u.g ∧ v.lc = u.lc ∧ v.ls = u.ls ∧ v.le = u.le ∧ v.vbase = u.vbase ∧ v.bwSp = u.bwSp

/-- From R153, R154, R155: escalation and lockup. A class that is masked, or comes while hold is 1, enters the
breakwater handler at the base of its vector table: BWPC and BWST save the PC and status, g14 and BW_SP change places,
and bit 1 of the engine's FAULT_OWN sets. Any exception inside that handler locks the engine and sets bit 0. -/
def Obligations.EscalationAndLockup : Prop :=
  ∀ (s : State) (e : Fin 128) (x : Exc), 1 ≤ x.cls → x.cls ≤ 9 → x.num < 256 → x.flags < 128 →
    let u := engOf s e
    u.pendLd = [] → u.shadow = none →
    (u.bw = true →
      let t := engEnter s e x
      (engOf t e).locked = true ∧ (engOf t e).lockCls = BitVec.ofNat 4 x.cls ∧ (engOf t e).g = u.g ∧
      faultOwn t (bayEng e) = faultOwn s (bayEng e) ||| 1) ∧
    (u.bw = false → holdOf u = true ∨ faultLevel u x.cls ≤ u.mask.toNat →
      let el : BitVec 2 := if x.cls = 9 ∨ u.level = 0 then 0 else 1
      let base : Word :=
        if el = 0 then BitVec.ofNat 20 (fget s (Fd.engSecvecBase (e.val / 4) (e.val % 4)) * 256) else u.vbase &&& 0xFFF00
      (fetchCheck (setEng s e { u with fbuf := [] }) e base).1 = none →
      let t := engEnter s e x
      let v := engOf t e
      v.bw = true ∧ v.bwpc = x.epc ∧ v.pc = base ∧ v.level = el ∧ v.ceil = el ∧ v.mask = 15 ∧ v.la = false ∧
      greg v 14 = u.bwSp ∧ v.bwSp = greg u 14 ∧ v.epc = u.epc ∧ v.estat = u.estat ∧
      bits v.ecause.toNat 11 8 = x.cls ∧ bits v.ecause.toNat 7 0 = x.num ∧ v.locked = u.locked ∧
      bit (faultOwn t (bayEng e)) 1 = true)

/-- From R164: RETE at System or Secure level, to a level not below the ceiling, with no load and no pending transfer:
the status returns from ESTAT, or from BWST inside the breakwater handler, the PC from EPC or BWPC, hold clears, or g14
and BW_SP change back. -/
def Obligations.ReturnFromException : Prop :=
  ∀ (s : State) (e : Fin 128), canIssue s e 1 = true → calm (engOf s e) = true →
    fetchWords s e (engOf s e).pc 1 = (none, s) →
    let u := engOf s e
    let spc := if u.bw then u.bwpc else u.epc
    let sst := (if u.bw then u.bwst else u.estat).toNat
    let lvl : BitVec 2 := BitVec.ofNat 2 (bits sst 1 0)
    u.level ≠ 2 → u.ceil.toNat ≤ lvl.toNat → lvl ≠ 3 → bit sst 19 = false → bit sst 15 = false →
    ∃ t, exec (.rete e 0) s = answers t ∧
      let v := engOf t e
      v.pc = spc ∧ v.level = lvl ∧ v.ceil = lvl ∧ v.mask = BitVec.ofNat 4 (bits sst 5 2) ∧ v.la = bit sst 7 ∧
      v.sat = bit sst 9 ∧ v.bw = false ∧ v.branch = none ∧ v.epc = u.epc ∧ v.estat = u.estat ∧
      (u.bw = false → holdOf v = false ∧ v.g = u.g ∧ v.bwSp = u.bwSp) ∧
      (u.bw = true → greg v 14 = u.bwSp ∧ v.bwSp = greg u 14 ∧ v.ecause = u.ecause) ∧
      t.regs = s.regs ∧ t.mem = s.mem ∧ t.ram = s.ram

/-! ### Engines: what comes from outside the program (R92, R118, R119, R129, R130, R150, R166-R169) -/

/-- From R92: an engine that sleeps in WAIT wakes when a masked task input is not zero and nothing that comes first is
due, and the WAIT completes with the lowest. From R129, R130, R136, R318: the oldest load and the oldest posted store
that left the engine are answered by what their target holds. A load that came before the next instruction is seen after
it; an error or poison, also from the transfer itself, becomes a delayed fault with EADDR from the address; a store that
fails becomes an imprecise fault. An access waits while an older one of the other kind to the same target is on its way.
-/
def Obligations.AnswersToEngines : Prop :=
  (∀ (s : State) (e : Fin 128) (rd : BitVec 4) (m : BitVec 8) (k : Nat),
    let u := engOf s e
    engAlive s e = true → u.sleep = some (rd, m) → alarmHalt s u = false → u.impr = [] → wdTakeable u = false →
    irqTakeable s e = false → haltWanted s e = false → tiReady s e m.toNat = some k →
    exec (.waitWake e) s =
      answers (engFinish (tiDec s e k) e u 1 [(rd.toNat, BitVec.ofNat 20 k)] [] none none none none) ∧
    k < 8 ∧ bit m.toNat k = true ∧ fget s (Fd.tiTiCount e k) ≠ 0 ∧
    ∀ j < k, bit m.toNat j = true → fget s (Fd.tiTiCount e j) = 0) ∧
  (∀ (s : State) (e : Fin 128) (rd : BitVec 4) (x y : FabTgt) (l l' : BitVec 2) (w : Word) (f : Fabric)
    (rest : List FabOp), mainUp s = true →
    let u := engOf s e
    (u.fab = .load rd x l 0 false :: rest →
      let r := tgtRead (fabricMark s f) e l x
      let v := { engOf r.2.2 e with fab := rest }
      let bad := fun (c : Nat) => { v with delayed := v.delayed ++ [(true, c, x.eaddr)] }
      exec (.windowLoadResponse e f) s = answers (engBoundary (setEng r.2.2 e
        (match (if f = .poison ∧ r.2.1 = .ok then .poison else r.2.1) with
          | .ok => { v with pendLd := v.pendLd ++ [(rd, BitVec.ofNat 20 r.1)] }
          | .error => bad 4
          | .poison => bad 5)) e)) ∧
    (u.fab = .store x w l :: rest →
      let r := tgtWrite (fabricMark s f) e l w (decide (f = .poison)) x
      let v := { engOf r.2 e with fab := rest }
      exec (.postedStoreAck e f) s = answers (engBoundary (setEng r.2 e
        (if r.1 = .ok then v else { v with impr := v.impr ++ [x.eaddr] })) e)) ∧
    (x.target s = y.target s → x.target s ≠ .nowhere →
      (u.fab = .store y w l' :: .load rd x l 0 false :: rest → exec (.windowLoadResponse e f) s = answers s) ∧
      (u.fab = .load rd x l 0 false :: .store y w l' :: rest → exec (.postedStoreAck e f) s = answers s)) ∧
    (∀ (t : State) (a : Addr), f ≠ .poison →
      tgtRead t e l (.chip a) = chipRead t (.engine e l) (a.toNat / 4 * 4) ∧
      tgtWrite t e l w false (.chip a) =
        chipWrite (tallyStore t e (a.toNat / 4 * 4) (leBytes 4 w.toNat)) (.engine e l) (a.toNat / 4 * 4) w.toNat))

/-- From R118, R309: an access from outside to a word of an engine's local RAM that the Secure grant does not guard: a
read answers the word zero-extended, or poison from an uncorrectable granule; a write stores bits [19:0] whatever the
watch bits say. With the grant, only a Secure master gets there; another gets an error, and bit 7 of the engine sets.
From R119: the write-back of a corrected granule ends its error mark. -/
def Obligations.RamFromOutside : Prop :=
  (∀ (s : State) (m : Master) (e : Fin 128) (w : Nat) (v : Dword), mainUp s = true → s.mem.top ≤ 2 ^ 40 → w < 24576 →
    engPresent s e = true →
    let a : Addr := BitVec.ofNat 48 (0xF00010000000 + 0x20000 * e.val + 4 * w)
    let k := localKey e (w / 3)
    let g := granOf s k
    (granted s e = false ∨ masterSecure m = true →
      (g.mark = .ok →
        exec (.outsideAccess m a none) s = answers (setResp s 0 [(granWord g (w % 3)).toNat]) ∧
        exec (.outsideAccess m a (some v)) s =
          answers (setResp (ramStore s k (granSet g (w % 3) (BitVec.ofNat 20 v.toNat))) 0 [])) ∧
      (g.mark = .bad →
        exec (.outsideAccess m a none) s =
          answers (setResp (raise s (ramBay k) 4) 2 [(granWord g (w % 3)).toNat]))) ∧
    (granted s e = true → masterSecure m = false →
      exec (.outsideAccess m a none) s = answers (setResp (raise s (bayEng e) 7) 1 [0]) ∧
      exec (.outsideAccess m a (some v)) s = answers (setResp (raise s (bayEng e) 7) 1 []))) ∧
  (∀ (s : State) (e : Fin 128) (q : Fin 32) (g : Nat) (r : RamRef) (k : Nat), mainUp s = true →
    (r = .engineLocal e ∧ engPresent s e = true ∧ g < 8192 ∧ k = 8192 * e.val + g) ∨
      (r = .quadShared q ∧ quadPresent s q = true ∧ g < 32768 ∧ k = 8192 * 128 + 32768 * q.val + g) →
    NSet.has k s.ramWb = true →
    ∃ t, exec (.ramWriteBack r g) s = answers t ∧
      granOf t k = { granOf s k with mark := .ok } ∧ NSet.has k t.ramWb = false ∧
      (∀ j, j ≠ k → granOf t j = granOf s j ∧ NSet.has j t.ramWb = NSet.has j s.ramWb) ∧
      t.regs = s.regs ∧ t.mem = s.mem ∧ t.engs = s.engs ∧ t.faultOwn = s.faultOwn)

/-- From R150, R153, R156, R166, R347: exceptions that no instruction raises, at a free boundary. An interrupt enters
class 11 with its presented level as the number; a due watchdog stage enters class 7; the first expiry sets the stage
and bit 2 of the engine's FAULT_OWN and loads the count again; the second resets the quad. -/
def Obligations.InterruptAndWatchdog : Prop :=
  ∀ (s : State) (e : Fin 128), mainUp s = true →
    let u := engOf s e
    (asyncOpen s e = true → wdTakeable u = false → irqTakeable s e = true → ∀ r, icTake s e = some r →
      exec (.interruptTake e) s = answers (engEnter r.2 e
        { cls := 11, num := r.1, addr := none, epc := boundaryPc u, flags := 0, words := none })) ∧
    (asyncOpen s e = true → wdTakeable u = true →
      exec (.watchdogEntry e) s = answers (engEnter (setEng s e { u with wdDue := false }) e
        { cls := 7, num := 0, addr := none, epc := boundaryPc u, flags := 0, words := none })) ∧
    (wdExpired s e = true → u.wdStage = false →
      ∃ t, exec (.watchdogFirstStage e) s = answers t ∧
        engOf t e = { u with wdStage := true, wdDue := true, wdNs := wdLoad s e } ∧
        bit (faultOwn t (bayEng e)) 2 = true ∧ t.regs = s.regs ∧ t.mem = s.mem ∧ t.ram = s.ram ∧
        ∀ f : Fin 128, f ≠ e → engOf t f = engOf s f) ∧
    (wdExpired s e = true → u.wdStage = true →
      exec (.watchdogSecondStage e) s = answers (quadReset s (e.val / 4) true))

/-- From R166-R169: the watchdog key and the debug control register of an engine whose debug access is open. The key
reloads the count and clears the stage; halt 1 asks a running engine to halt; step runs one instruction of a halted
engine; halt 0 and step 0 let it run on; the engine halts at a free boundary where nothing else is due, a fetch fault
among it; so does BRK after itself. -/
def Obligations.WatchdogKickAndDebug : Prop :=
  ∀ (s : State) (m : Master) (e : Fin 128) (v : Dword),
    let u := engOf s e
    let q := e.val / 4
    let i := e.val % 4
    let at' := 0x1001000 + 0x10000 * q + 0x1000 * i
    let ctl := fun (halt : Nat) =>
      fset (fset s (Fd.engDbgCtlBrkEn q i) (bits v.toNat 17 17)) (Fd.engDbgCtlHalt q i) halt
    (reaches s m (at' + 0x108) = true → v.toNat % 2 ^ 20 = 0xC3A5 →
      exec (.wdogKick m e v) s = answers (setEng s e { u with wdNs := wdLoad s e, wdStage := false })) ∧
    (reaches s m (at' + 0x110) = true → debugAllowed s e = true →
      (bit v.toNat 19 = true → u.halted = false → exec (.debugHaltRequest m e v) s =
        answers (setEng (ctl 1) e { u with haltReq := u.stepping })) ∧
      (bit v.toNat 18 = true → u.halted = true →
        exec (.step m e v) s = answers (engResume (ctl 1) e true)) ∧
      (bit v.toNat 19 = false → bit v.toNat 18 = false → u.halted = true →
        exec (.debugResume m e v) s = answers (engResume (ctl 0) e false))) ∧
    (asyncOpen s e = true → haltWanted s e = true → wdTakeable u = false → irqTakeable s e = false →
      exec (.debugHaltEntry e) s = answers (engHalt s e) ∧ (engOf (engHalt s e) e).halted = true ∧
        (engOf (engHalt s e) e).dbgPc = u.pc) ∧
    (canIssue s e 1 = true → calm u = true → debugAllowed s e = true → fbit s (Fd.engDbgCtlBrkEn q i) = true →
      fetchWords s e u.pc 1 = (none, s) → (nextFault (setEng s e { u with pc := u.pc + 1 }) e).1 = none →
      wdTakeable u = false → irqTakeable s e = false →
      ∃ t, exec (.brk e 0) s = answers t ∧ (engOf t e).halted = true ∧ (engOf t e).dbgPc = u.pc + 1)

/-! ### Registers and bays (R6, R10, R12, R15-R21, R31, R359-R361, R385-R387) -/

/-- From R6, R7, R10, R359, R361: a write of a register, field by field. A Now field takes the written bits at once; a
Stop field takes them where the write is not an ignored one; a Line, Frame or Sample field keeps its value and the
written bits wait; a written 1 clears a W1C bit, unless hardware sets it in the same cycle (R7); RO, RC and WO fields
hold. A write of differing Stop fields to a running block counts in STOP_IGN and sets bit 5 of the bay that holds the
block. From R192, R359: a latch takes every waiting field of its class to the value last written, and leaves the others;
no value last written is lost. -/
def Obligations.RegisterFieldsByClass : Prop :=
  (∀ (s : State) (off : Nat) (h : RegHit) (v : Nat) (f : Fld), RegMap.lookup off = some h → f ∈ h.reg.flds →
    let blocked := blockRuns s h && stopDiffers s off h v
    let t := plainWrite s off h v
    let was := bits (rget s off).toNat f.hi f.lo
    let is := bits (rget t off).toNat f.hi f.lo
    (f.acc = .rw → f.cls = .now → is = bits v f.hi f.lo) ∧
    (f.acc = .rw → f.cls = .stop → is = if blocked then was else bits v f.hi f.lo) ∧
    (f.acc = .rw → f.cls.waits = true → is = was ∧ wfield t { off := off, hi := f.hi, lo := f.lo } = bits v f.hi f.lo) ∧
    (f.acc = .w1c → ∀ i, bit is i =
      (bit was i && (!bit (bits v f.hi f.lo) i || bit (bits (hwSets s off) f.hi f.lo) i))) ∧
    (f.acc = .ro ∨ f.acc = .rc ∨ f.acc = .wo → f.cls.waits = false → is = was) ∧
    (blocked = true →
      fget t Fd.stopIgnCount = min (fget s Fd.stopIgnCount + 1) (2 ^ 20 - 1) ∧
      bit (faultOwn t (blockBay h)) 5 = true) ∧
    (blocked = false → t.faultOwn = s.faultOwn) ∧ t.mem = s.mem ∧ t.engs = s.engs) ∧
  (∀ (s : State) (lo hi off : Nat) (p : Cls → Bool) (h : RegHit) (f : Fld), RegMap.lookup off = some h →
    f ∈ h.reg.flds → lo ≤ off → off < hi →
    let t := latchRange s lo hi p
    let at' : FieldAt := { off := off, hi := f.hi, lo := f.lo }
    fget t at' = (if f.cls.waits && p f.cls then wfield s at' else fget s at') ∧
    (f.cls.waits = true → wfield t at' = wfield s at') ∧ t.mem = s.mem ∧ t.engs = s.engs ∧ t.faultOwn = s.faultOwn)

/-- From R7, R12, R31, R374, R385-R387: the register commands. A write that reaches a register whose block has no rule
of its own is the write of its fields; one that is not listed or belongs to an absent unit does nothing; a host write
with partial byte enables, a fenced one, and one without authority count in AUTH_REFUSED and set bit 5 of the chip bay;
a read answers the stored fields, WO fields as 0, and RC fields clear; those that hardware has set in the same cycle
answer what they held before it and keep what it set. From R387: a refused write changes nothing but its records:
AUTH_REFUSED rises and saturates, AUTH_LAST names the offset and the master, and the named bit of the named bay sets. -/
def Obligations.RegisterCommands : Prop :=
  (∀ (s : State) (m : Master) (off : Nat) (v : Dword) (be : BitVec 4) (h : RegHit),
    m ≠ .host ∨ be = 15 → dispMem off = false → mirrorView off = false →
    h.blk.id ∈ [Blk.bus, .port, .spd, .dpa, .inp, .mc, .sb, .spr, .plane, .til] →
    RegMap.lookup off = some h →
    (reaches s m off = true → (∀ n, m ≠ .barge n) → stagedIn s off = none → prodSecret s m h v.toNat = false →
      exec (.registerWrite m off v be) s = answers (plainWrite s off h v.toNat)) ∧
    (busOpen s m off = true → hitPresent s h = false → fbit s Fd.sbFenceAll = false →
      exec (.registerWrite m off v be) s = answers s) ∧
    (busOpen s m off = true → hitPresent s h = true → (m = .host ∧ fbit s Fd.sbFenceAll = true) ∨ writeRefused s m off h = true →
      exec (.registerWrite m off v be) s = answers (refuseChip s m off)) ∧
    (busOpen s .host off = true → be ≠ 15 → exec (.registerWrite .host off v be) s = answers (refuseChip s .host off)) ∧
    (busOpen s m off = true → hitPresent s h = true →
      ∃ t, exec (.rcRead m off) s = answers (setResp t 0 [storedRead s off h]) ∧
        (∀ f ∈ h.reg.flds, bits (storedRead s off h) f.hi f.lo =
          if f.acc = .wo then 0
          else if f.acc = .rc then bits ((Sparse.find off s.sets).elim (rget s off).toNat Prod.fst) f.hi f.lo
          else bits (rget s off).toNat f.hi f.lo) ∧
        (∀ f ∈ h.reg.flds, f.acc = .rc → bits (rget t off).toNat f.hi f.lo =
          match Sparse.find off s.sets with
          | none => 0
          | some p => if f.hi = f.lo then bits p.2 f.hi f.lo
              else bits (rget s off).toNat f.hi f.lo - bits p.1 f.hi f.lo) ∧
        (∀ f ∈ h.reg.flds, f.acc ≠ .rc → bits (rget t off).toNat f.hi f.lo = bits (rget s off).toNat f.hi f.lo) ∧
        (∀ o, o ≠ off → rget t o = rget s o) ∧ t.mem = s.mem ∧ t.engs = s.engs)) ∧
  (∀ (s : State) (m : Master) (off b i : Nat), off < 2 ^ 26 → i < 8 →
    let t := refuse s m off b i
    fget t Fd.sbAuthRefusedCount = min (fget s Fd.sbAuthRefusedCount + 1) (2 ^ 20 - 1) ∧
    fget t Fd.sbAuthLast0Off = off % 2 ^ 16 ∧ fget t Fd.sbAuthLast1Off = off / 2 ^ 16 ∧
    fget t Fd.sbAuthLast1Master = masterCode m ∧
    bit (faultOwn t b) i = true ∧ (∀ c j, (c ≠ b ∨ j ≠ i) → bit (faultOwn t c) j = bit (faultOwn s c) j) ∧
    (∀ o, o ≠ Adr.sbAuthRefused → o ≠ Adr.sbAuthLast0 → o ≠ Adr.sbAuthLast1 → rget t o = rget s o) ∧
    t.mem = s.mem ∧ t.engs = s.engs ∧ t.ferryDue = s.ferryDue)

/-- From R7, R17, R19, R20, R89: DOORBELL of a bay at levels 1 to 4 adds one to its task input of every engine of the
bay that is present and in no quad reset, up to 15, and sets Coalesced where the count stands at 15; a write to
FAULT_OWN clears the written classes of that bay alone, class 7 only from a Secure-level engine or the Tollhouse, and no
class that hardware sets in the same cycle. From R88, R95, R96, R98, R105: FIRE of a channel that its owner writes makes
its event due; an event carried sets the flag and counts in EVENTS, and nothing of memory changes; TAKE answers a task
input and takes one from a count that is not zero. -/
def Obligations.EventsAndFaultFlags : Prop :=
  (∀ (s : State) (m : Master) (bay : Bay) (k : BitVec 3) (v : Dword), bay ≠ .spanBay → bay ≠ .spanGroup →
    (reaches s m (faceAt bay + 0x14) = true →
      ∃ t, exec (.doorbell m bay k) s = answers t ∧
        ∀ e : Fin 128, engPresent s e = true → inQuadReset s (e.val / 4) = false →
          let c := fget s (Fd.tiTiCount e k.toNat)
          (e.val ∈ bayEngines s.variant bay → fget t (Fd.tiTiCount e k.toNat) = min 15 (c + 1) ∧
            (c = 15 → fbit t (Fd.tiTiCoalesced e k.toNat) = true)) ∧
          (e.val ∉ bayEngines s.variant bay → fget t (Fd.tiTiCount e k.toNat) = c)) ∧
    (reaches s m (faceAt bay + 0x18) = true →
      ∃ t, exec (.faultOwnClear m bay v) s = answers t ∧
        (∀ i < 8, bit (faultOwn t (bayNum bay)) i =
          (bit (faultOwn s (bayNum bay)) i &&
            (!(bit v.toNat i && (decide (i < 7) || masterSecure m)) || bit (hwSets s (faultKey (bayNum bay))) i))) ∧
        (∀ b, b ≠ bayNum bay → faultOwn t b = faultOwn s b) ∧ t.regs = s.regs ∧ t.mem = s.mem ∧ t.engs = s.engs)) ∧
  (∀ (s : State) (m : Master) (c : Fin 256) (v : Dword) (e : Fin 128) (k : Fin 8),
    (reaches s m (Adr.cFire c) = true → chanJudge s c m false = .ok → bit v.toNat 0 = true →
      ∃ t, exec (.fire m c v) s = answers t ∧ NSet.has c t.ferryDue = true ∧ t = { s with ferryDue := t.ferryDue }) ∧
    (fbit (carry s c) (Fd.cFlagFlag c) = true ∧
      fget (carry s c) (Fd.cEventsCount c) = min (fget s (Fd.cEventsCount c) + 1) (2 ^ 20 - 1) ∧
      (carry s c).mem = s.mem ∧ (carry s c).th = s.th) ∧
    (mainUp s = true → engPresent s e = true →
      let n := fget s (Fd.tiTiCount e k)
      ∃ t, exec (.takeRead m e k) s = answers (setResp t 0 [(rget s (Adr.tiTi e k)).toNat % 32]) ∧
        fget t (Fd.tiTiCount e k) = n - 1 ∧ (∀ o, o ≠ Adr.tiTi e k → rget t o = rget s o) ∧ t.mem = s.mem ∧ t.engs = s.engs))

/-- From R20, R21: the end of a step in a quiet state changes nothing but FAULT_FIRST: of every bay with a class in
FAULT_SUM it keeps what it recorded, or records the cause, and it is empty where FAULT_SUM is zero. -/
def Obligations.QuietStepEnd : Prop :=
  ∀ s : State, quiet s = true →
    (∃ f, wind s = { s with faultFirst := f }) ∧
    ∀ b, b ∈ (s.faultOwn.map Prod.fst).flatMap (fun c => c :: bayAbove (joined s) c) ++ s.faultFirst.map Prod.fst →
      let old := Sparse.get 0 b s.faultFirst
      Sparse.get 0 b (wind s).faultFirst =
        if faultSum s b = 0 then 0 else if old = 0 then faultCause s b + 1 else old

/-! ### Timelines (R34-R61) -/

/-- From R40: a cycle of the reference advances T0 by 1, and one trimmed advance, where it is due, by 2 where TRIM is
positive or by 0 where it is negative (due once in 10^9 / |TRIM| ns; the first one at any time, log entry 59); past 2^40
- 1 comes 0, and LAP counts the wrap. From R44-R46: an Encoder timeline that runs, with ×4 decoding, no swap, and both
posts set to the encoder function. An edge of one input that the filter passes moves it by one, forward when A changes
to a level other than B's or B to that of A; a change of both is illegal, sets enc_err and moves nothing; a change that
the filter does not pass changes nothing. A checked index, where it was not true before, slips the timeline to idx_val,
sets idx_err and, in mode 1, ends the check; where the position agrees nothing moves. From R48, R49: a Mains timeline
that runs with its post set. While locked, an edge within 1/64 cycle of its expected phase is accepted and moves
nothing; a third miss in a row clears locked and sets unlock, an earlier one counts; without an accepted edge for 1.5
periods holdover and unlock set and locked clears; the phase advances at the rate in effect, which an accepted edge sets
so that its error is made up for by the next expected edge. -/
def Obligations.TimelineAdvances : Prop :=
  (∀ s : State, mainUp s = true → tlKind s 0 = 1 → (tlOf s 0).pos < 2 ^ 40 → (tlOf s 0).lap < 2 ^ 20 →
    let u := tlOf s 0
    let moved := fun (t : State) (d : Nat) =>
      t.clock = s.clock + 1 ∧ (tlOf t 0).pos = (u.pos + d) % 2 ^ 40 ∧
      (tlOf t 0).lap = (if 2 ^ 40 ≤ u.pos + d then (u.lap + 1) % 2 ^ 20 else u.lap) ∧ t.mem = s.mem
    let trim := signedN 20 (fget s (Fd.tlTrimPpb 0))
    (∃ t, exec .referenceAdvance s = answers t ∧ moved t 1) ∧
    let due := s.trimAt = none ∨ ∃ c, s.trimAt = some c ∧ 10 ^ 9 ≤ (s.clock + 1 - c) * trim.natAbs
    (0 < trim → due → ∃ t, exec .trimmedAdvance s = answers t ∧ moved t 2 ∧ t.trimAt = some (s.clock + 1)) ∧
    (trim < 0 → due → ∃ t, exec .trimmedAdvance s = answers t ∧ moved t 0 ∧ t.trimAt = some (s.clock + 1)) ∧
    (trim = 0 ∨ ¬ due → exec .trimmedAdvance s = answers s)) ∧
  (∀ (s : State) (k : Fin 32) (a b : Bool), mainUp s = true → tlKind s k = 4 → fbit s (Fd.tlCfgRun k) = true →
    fget s (Fd.tlEncDecode k) = 0 → fbit s (Fd.tlEncSwap k) = false →
    postLive s (fget s (Fd.tlSrc0PostA k)) 8 = true → postLive s (fget s (Fd.tlSrc1PostB k)) 8 = true →
    let u := tlOf s k
    let gate := fun (a b : Bool) => decide (fget s (Fd.tlEncIdxGate k) = 2 * boolNat a + boolNat b)
    let t := setTl s k { u with
      encA := a, encAAt := if a = u.encA then u.encAAt else some s.clock
      encB := b, encBAt := if b = u.encB then u.encBAt else some s.clock, idxOn := u.idxOn && gate a b }
    (a ≠ u.encA → encResolved s k u.encAAt = false → b = u.encB →
      exec (.encoderEdge k a b) s = answers (setTl s k { u with idxOn := u.idxOn && gate u.encA u.encB })) ∧
    (encResolved s k u.encAAt = true → encResolved s k u.encBAt = true → a ≠ u.encA → b ≠ u.encB → exec (.encoderEdge k a b) s = answers (fon t (Fd.tlStatEncErr k))) ∧
    (encResolved s k u.encAAt = true → a ≠ u.encA → b = u.encB →
      exec (.encoderEdge k a b) s = answers (tlMove t k (if a ≠ b then .fwd 1 else .rev 1))) ∧
    (encResolved s k u.encBAt = true → a = u.encA → b ≠ u.encB →
      exec (.encoderEdge k a b) s = answers (tlMove t k (if b = a then .fwd 1 else .rev 1))) ∧
    (∀ mode, fget s (Fd.tlEncIdxMode k) = mode → 1 ≤ mode → mode ≤ 2 →
      postLive s (fget s (Fd.tlSrc1PostIdx k)) 8 = true →
      fget s (Fd.tlEncIdxGate k) = 2 * boolNat u.encA + boolNat u.encB →
      let v := fget s (Fd.tlIdxIdxVal k)
      let on := setTl s k { u with idxOn := true }
      let done := fun (t : State) => if mode = 1 then fset t (Fd.tlEncIdxMode k) 0 else t
      (u.idxOn = true → exec (.indexQualify k none) s = answers on) ∧
      (u.idxOn = false → exec (.indexQualify k none) s =
        answers (done (if tlPos s k = v then on
          else hwSlipBy (fon on (Fd.tlStatIdxErr k)) k (slipDist (tlLap s k) (tlPos s k) v)))))) ∧
  (∀ (s : State) (k : Fin 32) (rising : Bool) (phase t0 : Nat), mainUp s = true → mainsRuns s k = true →
    let u := tlOf s k
    (u.mSpan ≠ 0 → (u.mDone + 1) * u.mSpan ≤ (s.clock - u.mFrom) * u.mUnits →
      exec (.mainsPhaseAdvance k) s = answers (tlMove (setTl s k { u with mDone := u.mDone + 1 }) k (.fwd 1))) ∧
    (fbit s (Fd.tlMainsStatLocked k) = true → 3 * u.mPeriod ≤ 2 * (s.clock - u.mLast.getD 0) →
      ∃ t, exec (.mainsHoldover k) s = answers t ∧ fbit t (Fd.tlMainsStatHoldover k) = true ∧
        fbit t (Fd.tlMainsStatLocked k) = false ∧ fbit t (Fd.tlStatUnlock k) = true ∧
        (tlOf t k).pos = u.pos ∧ (tlOf t k).mPeriod = u.mPeriod ∧ t.mem = s.mem ∧ t.engs = s.engs) ∧
    (postLive s (fget s (Fd.tlSrc0PostA k)) 9 = true → mainsPhase s k rising = some phase →
      fbit s (Fd.tlMainsStatLocked k) = true → u.mLast = some t0 → u.mPeriod ≤ 8 * (s.clock - t0) →
      let e := mainsError s k phase
      let done := fun (p : State → Prop) => ∃ t, exec (.mainsEdge k rising) s = answers t ∧ (tlOf t k).pos = u.pos ∧
        (tlOf t k).lap = u.lap ∧ t.mem = s.mem ∧ t.engs = s.engs ∧ p t
      (-1024 ≤ e → e ≤ 1024 → done fun t => fbit t (Fd.tlMainsStatLocked k) = true ∧ (tlOf t k).mLast = some s.clock ∧
        (tlOf t k).mMiss = 0 ∧ (tlOf t k).mFrom = s.clock ∧ (tlOf t k).mDone = 0 ∧
        (tlOf t k).mUnits = ((if mainsEdgeSel s k = 2 then 32768 else 65536) + e).toNat) ∧
      (e < -1024 ∨ 1024 < e → u.mMiss < 2 → done fun t => fbit t (Fd.tlMainsStatLocked k) = true ∧
        (tlOf t k).mLast = u.mLast ∧ (tlOf t k).mMiss = u.mMiss + 1) ∧
      (e < -1024 ∨ 1024 < e → u.mMiss = 2 → done fun t => fbit t (Fd.tlMainsStatLocked k) = false ∧
        fbit t (Fd.tlStatUnlock k) = true)))

/-- From R53-R55: SET0, with the held SET1, and SLEW of a general timeline that is not Span-kind name a target modulo
the lap length. A stopped timeline takes it; a running one slips to it, counts the slip, records its signed distance,
and sets back, near or far by direction and window; a target equal to the position is no slip. From R60, R61: SNAP
latches the words and LAP of every named timeline for its requester and holds them; a POS0 read of a held timeline
answers the held word and releases it, another answers the live word and latches; no other requester's latch changes. -/
def Obligations.TimelineCommands : Prop :=
  (∀ (s : State) (m : Master) (k : Fin 32) (v : Dword), 8 ≤ k.val → tlKind s k ≠ 6 → tlKind s k ≠ 2 →
    (tlOf s k).pos < tlLap s k → (tlOf s k).hwSlipAt ≠ some s.clock →
    let u := tlOf s k
    let l := tlLap s k
    let effect := fun (c : Instr) (target : Nat) => ∃ t, exec c s = answers t ∧ t.mem = s.mem ∧ t.engs = s.engs ∧
      (tlOf t k).pos = target ∧
      (fbit s (Fd.tlCfgRun k) = false ∨ u.pos = target →
        fget t (Fd.tlSlipsCount k) = fget s (Fd.tlSlipsCount k) ∧ (tlOf t k).lap = u.lap) ∧
      (fbit s (Fd.tlCfgRun k) = true → u.pos ≠ target →
        let x := slipDist l u.pos target
        fget t (Fd.tlSlipsCount k) = min (fget s (Fd.tlSlipsCount k) + 1) (2 ^ 20 - 1) ∧
        fget t (Fd.tlLastSlipS k) = wrapN 20 (clampN 20 x) ∧
        (x < 0 → fbit t (Fd.tlStatBack k) = true) ∧
        (0 < x → slipNear s k x = true → fbit t (Fd.tlStatNear k) = true) ∧
        (0 < x → slipNear s k x = false → fbit t (Fd.tlStatFar k) = true))
    (reaches s m (Adr.tlSet0 k) = true → effect (.set0 m k v) ((u.setHi * 2 ^ 20 + v.toNat % 2 ^ 20) % l)) ∧
    (reaches s m (Adr.tlSlew k) = true →
      effect (.slew m k v) (((u.pos : Int) + signedN 20 (v.toNat % 2 ^ 20)) % (l : Int)).toNat)) ∧
  (∀ (s : State) (m : Master) (k : Fin 32) (mask : Dword),
    let w := tlWords s k (tlPos s k)
    let others := fun (t : State) => ∀ n, requesterOf n ≠ requesterOf m → ∀ j < 32, latchOf t n j = latchOf s n j
    (mainUp s = true → ¬ (m = .host ∧ fbit s Fd.sbFenceAll = true) →
      ∃ t, exec (.snap m mask) s = answers t ∧ t.regs = s.regs ∧ t.tls = s.tls ∧
        latchOf t m k = (if bit mask.toNat k then { held := true, lo := w.1, hi := w.2, lap := tlLapCount s k }
          else latchOf s m k)) ∧
    (mainUp s = true →
      ((latchOf s m k).held = true → ∃ t, exec (.pos0Read m k) s = answers (setResp t 0 [(latchOf s m k).lo]) ∧
        latchOf t m k = { latchOf s m k with held := false } ∧ others t ∧ t.regs = s.regs ∧ t.tls = s.tls) ∧
      ((latchOf s m k).held = false → ∃ t, exec (.pos0Read m k) s = answers (setResp t 0 [w.1]) ∧
        latchOf t m k = { held := false, lo := w.1, hi := w.2, lap := tlLapCount s k } ∧ others t ∧ t.regs = s.regs ∧
        t.tls = s.tls)))

/-! ### Landing units and edge queues (R63-R86) -/

/-- From R70, R72, R73: CMP0 and INT0 take the held high word with them, and a CMP0 write in the cycle of an auto-add
undoes it and sets add_lost; CTRL takes every field while the unit is disarmed, and while it is armed keeps mode, dir
and tl, counting a write that differs in them as an ignored Stop-class write. From R37, R65, R66, R69: an armed one-shot
unit that is not frozen fires on an ordinary advance in its direction that crosses its compare value: fired sets, arm
clears, and its channel carries an event where ferry_en is set; an advance that does not cross it, or a disarmed unit,
changes nothing. -/
def Obligations.LandingUnits : Prop :=
  (∀ (s : State) (m : Master) (n : Fin 512) (v : Dword), (∀ b, m ≠ .barge b) →
    let u := landOf s n
    let bay := bayEng (n.val / 4)
    (reaches s m (Adr.lCmp0 n) = true → stagedIn s (Adr.lCmp0 n) = none →
      ∃ t, exec (.cmp0Write m n v) s = answers t ∧ fget t (Fd.lCmp0CmpLo n) = v.toNat % 2 ^ 20 ∧
        (∀ h, u.heldCmp = some h → fget t (Fd.lCmp1CmpHi n) = h % 2 ^ 20) ∧
        (autoAddNow s n = none → t.faultOwn = s.faultOwn ∧
          (u.heldCmp = none → fget t (Fd.lCmp1CmpHi n) = fget s (Fd.lCmp1CmpHi n))) ∧
        (∀ a, autoAddNow s n = some a → (u.heldCmp = none → fget t (Fd.lCmp1CmpHi n) = a.cmpHi % 2 ^ 20) ∧
          fget t (Fd.lPassedCount n) = min a.passed (fget s (Fd.lPassedCount n)) ∧ fbit t (Fd.lStatAddLost n) = true) ∧
        (landOf t n).heldCmp = none ∧ t.mem = s.mem ∧ t.engs = s.engs) ∧
    (reaches s m (Adr.lInt0 n) = true → stagedIn s (Adr.lInt0 n) = none →
      ∃ t, exec (.int0Write m n v) s = answers t ∧ fget t (Fd.lInt0IntLo n) = v.toNat % 2 ^ 20 ∧
        (∀ h, u.heldInt = some h → fget t (Fd.lInt1IntHi n) = h % 2 ^ 20) ∧
        (u.heldInt = none → fget t (Fd.lInt1IntHi n) = fget s (Fd.lInt1IntHi n)) ∧
        (landOf t n).heldInt = none ∧ t.mem = s.mem ∧ t.engs = s.engs ∧ t.faultOwn = s.faultOwn) ∧
    (reaches s m (Adr.lCtrl n) = true → (masterSecure m = true ∨ chanSecure s (v.toNat % 256) = false) →
      (engOf s (n.val / 4)).halted = false → u.frozen = false →
      ∃ t, exec (.landingCtrlWrite m n v) s = answers t ∧ t.mem = s.mem ∧ t.engs = s.engs ∧
        (landArmed s n = false → (rget t (Adr.lCtrl n)).toNat = v.toNat % 2 ^ 20 ∧ t.faultOwn = s.faultOwn) ∧
        (landArmed s n = true →
          let old := (rget s (Adr.lCtrl n)).toNat
          let now := (rget t (Adr.lCtrl n)).toNat
          let differs := bits v.toNat 19 16 ≠ bits old 19 16 ∨ bits v.toNat 12 8 ≠ bits old 12 8
          bits now 19 16 = bits old 19 16 ∧ bits now 12 8 = bits old 12 8 ∧
          bits now 15 13 = bits v.toNat 15 13 ∧ bits now 7 0 = bits v.toNat 7 0 ∧
          (differs → fget t Fd.stopIgnCount = min (fget s Fd.stopIgnCount + 1) (2 ^ 20 - 1) ∧
            bit (faultOwn t bay) 5 = true) ∧
          (¬ differs → t.faultOwn = s.faultOwn)))) ∧
  (∀ (s : State) (n : Fin 512) (p d v : Nat), landOf s n = LandUnit.reset → landMode s n = 0 → landCmp s n = some v →
    let l := tlLap s (fget s (Fd.lCtrlTl n))
    let t := landTest s n p (.fwd d)
    (landArmed s n = true → landDir s n = 0 → 0 < d → d < l → (∃ j, 1 ≤ j ∧ j ≤ d ∧ (p + j) % l = v % l) →
      fbit t (Fd.lStatFired n) = true ∧ landArmed t n = false ∧ t.landDue = NSet.ins n s.landDue ∧
      t.ferryDue = (if fbit s (Fd.lCtrlFerryEn n) then NSet.ins (fget s (Fd.lCtrlChan n)) s.ferryDue else s.ferryDue) ∧
      t.faultOwn = s.faultOwn ∧ t.mem = s.mem ∧ t.engs = s.engs) ∧
    (landArmed s n = true → 0 < l → ¬ (∃ j, 1 ≤ j ∧ j ≤ d ∧ (p + j) % l = v % l) → t = s) ∧
    (landArmed s n = false → t = s))

/-- From R79, R80, R84, R85: post edge queues. A push appends its level at the pushed position, and with four entries is
dropped, sets ovf and bit 6 of the hall; FLUSH empties the queue; a captured edge enters the FIFO of two with the bound
timeline's position, which on a timeline other than T0 and the Span-kind ones is that of four cycles later, and is lost
when it is full; a CAP0 read answers the oldest and removes it. The queue's post is written by its owner, and pegging
does not freeze it. -/
def Obligations.EdgeQueueCommands : Prop :=
  ∀ (s : State) (m : Master) (n : Fin 1024) (v : Dword) (lv : Bool), (∀ b, m ≠ .barge b) →
    postGuard s n m false false = none →
    let u := eqOf s n
    let pushes := fun (c : Instr) (lvl : Lvl) =>
      (u.entries.length < 4 → ∃ t, exec c s = answers t ∧
        (eqOf t n).entries = u.entries ++ [(u.push1 * 2 ^ 20 + v.toNat % 2 ^ 20, lvl)] ∧ (eqOf t n).level = u.level ∧
        (eqOf t n).stamps = u.stamps ∧ t.regs = s.regs ∧ t.faultOwn = s.faultOwn ∧ t.mem = s.mem) ∧
      (4 ≤ u.entries.length → ∃ t, exec c s = answers t ∧ eqOf t n = u ∧ fbit t (Fd.eqStatOvf n) = true ∧
        bit (faultOwn t (bayHall (n.val / 128))) 6 = true ∧ t.mem = s.mem)
    (reaches s m (Adr.eqEdge0 n) = true → pushes (.edge0 m n v) .low) ∧
    (reaches s m (Adr.eqEdge1 n) = true → pushes (.edge1 m n v) .high) ∧
    (reaches s m (Adr.eqEdgez n) = true → pushes (.edgeZ m n v) .z) ∧
    (reaches s m (Adr.eqFlush n) = true → bit v.toNat 0 = true →
      ∃ t, exec (.flush m n v) s = answers t ∧ eqOf t n = { u with entries := [], slipTo := none } ∧
        t.regs = s.regs ∧ t.mem = s.mem) ∧
    (mainUp s = true → n.val < s.variant.posts → lv = true → bankLive s (n.val / 32) = false →
      exec (.captureEdge n lv) s = answers s) ∧
    (mainUp s = true → n.val < s.variant.posts → eqRunning s n = true → lv = false ∨ bankLive s (n.val / 32) = true →
      bit (fget s (Fd.eqCfgCapEdge n)) (if lv then 0 else 1) = true →
      let k := fget s (Fd.eqCfgTl n)
      let w := tlWords s k (tlPos s k)
      let now := k = 0 ∨ tlKind s k = 6
      (¬ now → ∃ t, exec (.captureEdge n lv) s = answers t ∧
        eqOf t n = { u with capDue := u.capDue ++ [(s.clock, lv)] } ∧ t.regs = s.regs ∧ t.mem = s.mem) ∧
      (now → u.stamps.length < 2 → ∃ t, exec (.captureEdge n lv) s = answers t ∧
        (eqOf t n).stamps = u.stamps ++ [(w.2 * 2 ^ 20 + w.1, lv)] ∧ (eqOf t n).entries = u.entries ∧ t.regs = s.regs) ∧
      (now → 2 ≤ u.stamps.length → ∃ t, exec (.captureEdge n lv) s = answers t ∧ eqOf t n = u ∧
        fbit t (Fd.eqStatCapLost n) = true)) ∧
    (∀ c lvl, u.capDue = [(c, lvl)] → c + 4 ≤ s.clock → eqRunning s n = true → u.stamps.length < 2 →
      let w := tlWords s (fget s (Fd.eqCfgTl n)) (tlPos s (fget s (Fd.eqCfgTl n)))
      (eqOf (eqCaptureDue s n) n).stamps = u.stamps ++ [(w.2 * 2 ^ 20 + w.1, lvl)] ∧
      (eqOf (eqCaptureDue s n) n).capDue = []) ∧
    (mainUp s = true → n.val < s.variant.posts → ∀ x rest, u.stamps = x :: rest →
      ∃ t, exec (.cap0Read m n) s = answers (setResp t 0 [x.1 % 2 ^ 20]) ∧ (eqOf t n).stamps = rest ∧
        (eqOf t n).entries = u.entries ∧ ∀ o, o ≠ Adr.eqCap0 n → rget t o = rget s o)

/-! ### Composition and display memory (R125, R126, R181, R184-R200, R205, R359) -/

/-- From R181, R190, R192, R193, R196, R210: a compose start at which no record of the line table is due, the
composition of a span in its cycle (log entry 41), and the finish of a line all of whose reads are answered. The start
shows the line in JSTAT, fires the head's line event, and for line 0 its frame event; a line after a slip restart has no
sprites. A span adds its pixels, or stalls a cycle for a read. The finish composes the spans that are left and hands the
pixels to the line buffer or to scan-out. -/
def Obligations.LineComposition : Prop :=
  ∀ (s : State) (h : Fin 6), mainUp s = true →
    let u := headOf s h
    (lineDue s h = true → ltDueAt (ltPrepare s h) h = none →
      ∃ t, exec (.composeStart h) s = answers t ∧ t.mem = s.mem ∧ t.engs = s.engs ∧
        fget t (Fd.joinJstatLine h) = u.next % 2 ^ 13 ∧
        (fbit s (Fd.headEvEn h 0) = true → NSet.has (fget s (Fd.headEvChan h 0)) t.ferryDue = true) ∧
        (fbit s (Fd.headEvEn h 2) = true → u.next = 0 → NSet.has (fget s (Fd.headEvChan h 2)) t.ferryDue = true) ∧
        (headOf t h).next = lineAfter t h u.next ∧ (headOf t h).restarted = false ∧ (headOf t h).ltLine = 0 ∧
        ∃ k, (headOf t h).comp = some k ∧ k.line = u.next ∧ k.at' = s.clock ∧ k.fills = [] ∧
          (u.restarted = true → k.sprites = [] ∧ fbit t (Fd.sprStatNoeval h) = true)) ∧
    (∀ k p, u.comp = some k → (lineSpans s h k)[k.spans]? = some p → sramBad s (spanReads s h k p) = [] →
      k.at' + 1 + 16 * k.spans + k.stall ≤ s.clock →
      (spanReady s h k p = true → (headOf (composeCycle s h) h).comp = some
        { k with
          spans := k.spans + 1, done := k.done ++ spanPixels s h k (hactive s h) k.spans
          fills := k.fills.filter fun l => !NSet.has l (spanReads s h k p) }) ∧
      (spanReady s h k p = false → composeCycle s h = setHead s h { u with comp := some { k with stall := k.stall + 1 } })) ∧
    (∀ k, u.comp = some k →
      let rest := (lineSpans s h k).drop k.spans
      let r := composeRest h rest s
      sramBad s (rest.flatMap (spanReads s h k)) = [] →
      (rest.all (spanReady s h k) = true →
        ∃ k' t, (headOf r h).comp = some k' ∧ k'.line = k.line ∧ k'.spans = k.spans + rest.length ∧ (rest = [] → k' = k) ∧
          exec (.composeFinish h) s = answers (composeTry t h) ∧ (headOf t h).comp = none ∧ t.mem = s.mem ∧
          let b : LineBuf := { pix := k'.done, bg := bgOf r h, deep := fbit r (Fd.joinJcfgOutBpc h) }
          (u.scan = .live → (headOf t h).scan = .buf b ∧ (headOf t h).lines = u.lines) ∧
          (u.scan ≠ .live → (headOf t h).scan = u.scan ∧ Sparse.find k.line (headOf t h).lines = some b)) ∧
      (rest.all (spanReady s h k) = false → exec (.composeFinish h) s = answers s))

/-- From R197, R198: a good record that is due at the start of a line. A WRITE goes to the head's registers unless it is
refused, which sets LT_STAT.refused and bit 5 of the chip; a PAL entry to the palette; a WAIT that has come is passed;
END and the undefined operations end the frame's records; the next record follows at once. -/
def Obligations.LineTableRecords : Prop :=
  ∀ (s : State) (h : Fin 6) (a : Nat), mainUp s = true → lineDue s h = true →
    let p := ltPrepare s h
    let w := ltRecord p a
    let op := bits w 63 60
    let idx := BitVec.ofNat 14 (bits w 59 46)
    let v := BitVec.ofNat 32 w
    let q := (dramRead p a 8).2.2
    let off := 0x80000 + 0x4000 * h.val + 4 * idx.toNat
    let done := fun (t : State) => answers (composeTry t h)
    ltDueAt p h = some a → a % 8 = 0 → ltBroken p a = false → (headOf p h).ltLine < 64 →
    (op = 0 → exec (.lineTableWrite h idx v) s =
      done (ltPass (if ltRefused q off idx.toNat then raise (fon q (Fd.joinLtStatRefused h)) bayChip 5
        else busWrite q (.lineTable h) off v.toNat) h a)) ∧
    (op = 1 → exec (.lineTableWait h idx) s = done (ltPass q h a)) ∧
    (op = 2 → exec (.lineTablePal h idx v) s = done (ltPass (dispWrite q (0x2500000 + 4 * idx.toNat) v.toNat) h a)) ∧
    (op = 3 → exec (.lineTableEnd h 3) s = done (ltHalt (fon q (Fd.joinLtStatEnded h)) h)) ∧
    (4 ≤ op → exec (.lineTableEnd h (BitVec.ofNat 4 op)) s =
      done (ltHalt (fon (fon q (Fd.joinLtStatEnded h)) (Fd.joinLtStatBad h)) h))

/-- From R184-R187, R200: what a line reads. A miss that the line in composition waits for brings the pattern line into
the cache and counts; a video row that it waits for is held with its bytes, an error or poison marking every byte, the
layer's STAT and the chip's FAULT_OWN; a coefficient is written while the layer is off, and the index moves on. -/
def Obligations.ComposeReads : Prop :=
  ∀ (s : State) (m : Master) (h : Fin 6) (l : Fin 4) (a : Addr) (row : Nat) (d : List Byte) (v : Dword),
    let u := headOf s h
    let done := fun (c : Instr) (p : State → Prop) => ∃ t, exec c s = answers t ∧ p t
    (∀ k, mainUp s = true → u.comp = some k → cached s (a.toNat / 256) = false →
      (fillWanted s h (a.toNat / 256)).1 = true →
      done (.patternCacheFill h a) fun t => cached t (a.toNat / 256) = true ∧
        fget t Fd.pcMissesCount = min (fget s Fd.pcMissesCount + 1) (2 ^ 20 - 1) ∧
        (headOf t h).comp = some { k with fills := NSet.ins (a.toNat / 256) k.fills } ∧
        ∀ b, memByte t b = memByte s b) ∧
    (∀ k, mainUp s = true → u.comp = some k →
      let key := l.val * 65536 + row
      (((lineSpans s h k).drop k.spans).any fun p => NSet.has key (spanRows s h k p)) = true → Sparse.find key u.rows = none →
      let n := videoLen s h l
      let src := videoAt s h l row % 2 ^ 48
      let pad := List.replicate (fget s (Fd.vidSrcXX h l) * (fmtBits (fget s (Fd.vidCtrlFmt h l)) / 8)) ((0 : Byte), false)
      let holds := fun (t : State) (bs : List (Byte × Bool)) => Sparse.find key (headOf t h).rows = some (pad ++ bs)
      (fbit s (Fd.vidCtrlHost h l) = true → hostUp s = true →
        (d.length = n → done (.videoSourceRead h l row d .ok) fun t => holds t (d.map fun b => (b, false)) ∧
          t.faultOwn = s.faultOwn ∧ t.mem = s.mem) ∧
        (done (.videoSourceRead h l row d .poison) fun t => fbit t (Fd.vidStatPoison h l) = true ∧
          bit (faultOwn t bayChip) 4 = true ∧ ∃ bs, holds t bs ∧ bs.length = n ∧ ∀ b ∈ bs, b.2 = true) ∧
        (done (.videoSourceRead h l row d .error) fun t => fbit t (Fd.vidStatErr h l) = true ∧
          bit (faultOwn t bayChip) 5 = true ∧ ∃ bs, holds t bs ∧ bs.length = n ∧ ∀ b ∈ bs, b.2 = true)) ∧
      (fbit s (Fd.vidCtrlHost h l) = false → src + n ≤ s.mem.top →
        (∀ g, src / 8 ≤ g → g ≤ (src + n) / 8 → NSet.has g (s.mem.poison ++ s.mem.bad ++ s.mem.single) = false) →
        done (.videoSourceRead h l row d .ok) fun t => holds t ((memBytes s src n).map fun b => (b, false)) ∧
          t.faultOwn = s.faultOwn ∧ t.mem = s.mem)) ∧
    (reaches s m (Adr.vidCoefData h l) = true → s.variant.scaler = true → fbit s (Fd.vidCtrlEn h l) = false →
      let dir := fget s (Fd.vidCoefIdxV h l)
      let ph := fget s (Fd.vidCoefIdxPhase h l)
      let tap := fget s (Fd.vidCoefIdxTap h l)
      let last := (if dir = 1 then 6 else 8) ≤ tap + 1
      done (.coefDataWrite m h l v) fun t =>
        (¬ (dir = 1 ∧ 6 ≤ tap) → coefRaw t h l dir ph tap = v.toNat % 1024) ∧
        fget t (Fd.vidCoefIdxTap h l) = (if last then 0 else tap + 1) ∧
        (¬ last → fget t (Fd.vidCoefIdxPhase h l) = ph) ∧ t.mem = s.mem ∧ t.engs = s.engs)

/-- From R125, R126: the display-table port and the paired words of an engine. A write through the port stores its word
with the held high bits at TP_IDX and moves TP_IDX on; a read answers the low 20 bits, holds the high 12 and moves on.
An odd word is held; the even word of the same register then writes all 32 bits, without a held one the bits last
written stay; an even-word read answers the low bits and holds the others for the register. -/
def Obligations.DisplayPortAndPairs : Prop :=
  ∀ (s : State) (e : Fin 128) (a v : Word), mainUp s = true → engPresent s e = true → inQuadReset s (e.val / 4) = false →
    let u := engOf s e
    let at' := tpOff s u
    (u.tpSel = 0 → at' = 0x2000000 + 4 * (u.tpIdx.toNat % 2 ^ 19)) ∧
    (u.tpSel = 1 → at' = 0x2400000 + 4 * (u.tpIdx.toNat % 2 ^ 16)) ∧
    (u.tpSel = 2 → at' = 0x2500000 + 4 * (u.tpIdx.toNat % 2 ^ 14)) ∧
    (∃ t, exec (.tpLoWrite e v) s = answers t ∧ rget t at' = u.tpHi ++ v ∧ NSet.has at' t.dispBad = false ∧
      engOf t e = { u with tpIdx := u.tpIdx + 1 } ∧ (∀ o, o ≠ at' → rget t o = rget s o) ∧ t.mem = s.mem) ∧
    (∃ t, exec (.tpLoRead e) s = answers (setResp t 0 [(rget s at').toNat % 2 ^ 20]) ∧
      engOf t e = { u with tpIdx := u.tpIdx + 1, tpHi := BitVec.ofNat 12 ((rget s at').toNat / 2 ^ 20) } ∧
      t.regs = s.regs ∧ t.mem = s.mem) ∧
    (∀ off, pairOf a.toNat = some (off, true) →
      exec (.oddWordWrite e a v) s = answers (setEng s e { u with oddHeld := some (off, v.toNat % 4096) })) ∧
    (∀ off, pairOf a.toNat = some (off, false) →
      (∀ x, u.oddHeld = some (off, x) → exec (.evenWordWrite e a v) s =
        answers (busWrite (setEng s e { u with oddHeld := none }) (.engine e u.level) off (x * 2 ^ 20 + v.toNat))) ∧
      ((∀ x, u.oddHeld ≠ some (off, x)) → exec (.evenWordWrite e a v) s =
        answers (busWrite (setEng s e { u with oddHeld := none }) (.engine e u.level) off
          (lastWritten s off / 2 ^ 20 * 2 ^ 20 + v.toNat))) ∧
      (dispMem off = true → exec (.evenWordRead e a) s =
        answers (setResp (setEng (dispCheck s off) e
          { u with evenLatch := Sparse.ins off ((rget s off).toNat / 2 ^ 20) u.evenLatch }) 0 [(rget s off).toNat % 2 ^ 20])))

/-! ### Heads (R223-R231, R238-R240) -/

/-- From R223, R225, R227, R228: writes of HCTRL by a master that is not the Barge. Let `w` be the state after its
fields are written; a write that changes run alone leaves the mode as it is. A 1 to run cancels a stop under way,
changes nothing more of a running head, starts a stopped head whose mode obeys the table, and of another reads back as 0
and sets bad_mode; a 0 to run stops a placed head at the end of its frame, and one not yet placed at once. A 1 to
interlace is refused on H0-H3, and on H5 where it drives the bus, and the rest of the write goes on. -/
def Obligations.HeadRunWrites : Prop :=
  ∀ (s : State) (m : Master) (h : Fin 6) (v : Dword) (hit : RegHit), (∀ b, m ≠ .barge b) →
    reaches s m (Adr.headHctrl h) = true → RegMap.lookup (Adr.headHctrl h) = some hit →
    let u := headOf s h
    let w := plainWrite s (Adr.headHctrl h) hit v.toNat
    let running := fbit s (Fd.headHstatRunning h)
    let stopping := fbit s (Fd.headHstatStopping h)
    let start := fun (p : State → Prop) => ∃ t, exec (.headStart m h v) s = answers t ∧ p t
    let stop := fun (p : State → Prop) => ∃ t, exec (.headStop m h v) s = answers t ∧ p t
    let out := if running || stopping then fget s (Fd.headHctrlOut h) else bits v.toNat 2 1
    let accepted := bit v.toNat 3 = true → h = 4 ∨ (h = 5 ∧ out = 0)
    (bit v.toNat 0 = true → accepted →
      (stopping = true → start fun t => fbit t (Fd.headHstatStopping h) = false ∧
        fbit t (Fd.headHstatRunning h) = running ∧ headOf t h = u) ∧
      (stopping = false → running = true → start fun t => t = w) ∧
      (stopping = false → running = false → modeOk w h = true → start fun t => fbit t (Fd.headHstatRunning h) = true ∧
        fbit t (Fd.headPclkStatLocked h) = false ∧
        fbit t (Fd.headSyncStatAcquiring h) = decide (fget w (Fd.headSyncCfgSrc h) ≠ 0) ∧
        ∃ e, headOf t h = { HeadUnit.reset with runAt := s.clock, eval := e }) ∧
      (stopping = false → running = false → modeOk w h = false → start fun t => fbit t (Fd.headHctrlRun h) = false ∧
        fbit t (Fd.headHstatBadMode h) = true ∧ fbit t (Fd.headHstatRunning h) = false ∧ headOf t h = u) ∧
      (stopping = false → running = false → bits v.toNat 4 1 = bits (rget s (Adr.headHctrl h)).toNat 4 1 →
        modeOk w h = modeOk s h)) ∧
    (bit v.toNat 0 = false → accepted →
      (running = false → stop fun t => t = w) ∧
      (running = true → u.placed = true → stop fun t => t = fon w (Fd.headHstatStopping h)) ∧
      (running = true → u.placed = false → stop fun t => fbit t (Fd.headHstatRunning h) = false ∧
        fbit t (Fd.headHstatStopping h) = false ∧ fbit t (Fd.tlCfgRun (h.val + 1)) = false ∧ headOf t h = HeadUnit.reset ∧
        (tlOf t (h.val + 1)).pos = 0 ∧ (tlOf t (h.val + 1)).lap = (tlOf s (h.val + 1)).lap)) ∧
    (bit v.toNat 3 = true → ¬ (h = 4 ∨ (h = 5 ∧ out = 0)) →
      let q := fun (t : State) => fbit t (Fd.headHstatRejected h) = true ∧ bit (faultOwn t bayChip) 5 = true ∧
        fget t (Fd.headHctrlInterlace h) = fget s (Fd.headHctrlInterlace h)
      (bit v.toNat 0 = true → start q) ∧ (bit v.toNat 0 = false → stop q))

/-- From R42, R227, R228: the pixel clock locks; the beam is placed at 0:0 with LAP as it was, once line lead - 1 is
composed and the clock is locked; it advances by the pixels of the cycle, wraps with LAP, and at the end of the frame of
a stopping head stops at 0:0 with LAP as it was. From R230: a reference mark on a running, placed head. The error is
recorded; the first mark locks the head and slips to SYNC_POS; an error within tol steers the rate within the pull
limit, or on the command-mode bus the write slots of vertical blanking (R242); a larger one is a miss, and the last
allowed miss slips. Without a mark for 1.5 source periods the head goes into holdover. -/
def Obligations.BeamAndSync : Prop :=
  (∀ (s : State) (h : Fin 6) (px : Fin 3), mainUp s = true → fbit s (Fd.headHstatRunning h) = true →
    tlKind s (h.val + 1) = 2 →
    let k := h.val + 1
    let u := headOf s h
    let l := tlLap s k
    let p := (tlOf s k).pos
    let lap := (tlOf s k).lap
    let go := fun (c : Instr) (q : State → Prop) => ∃ t, exec c s = answers (composeTry t h) ∧ q t
    (∃ t, exec (.pclkLock h) s = answers t ∧ fbit t (Fd.headPclkStatLocked h) = true ∧
      ∀ o, o ≠ Adr.headPclkStat h → rget t o = rget s o) ∧
    (u.placed = false → fbit s (Fd.headPclkStatLocked h) = true → u.comp = none → leadOf s h ≤ u.next →
      go (.beamPlacement h) fun t => (headOf t h).placed = true ∧ (tlOf t k).pos = 0 ∧ (tlOf t k).lap = lap ∧
        fbit t (Fd.tlCfgRun k) = true ∧ t.landDue = s.landDue ∧
        (fbit s (Fd.headEvEn h 1) = true → NSet.has (fget s (Fd.headEvChan h 1)) t.ferryDue = true) ∧
        (∀ b, Sparse.find 0 u.lines = some b → (headOf t h).scan = .buf b)) ∧
    (u.placed = true → 0 < px.val → p < l → lap < 2 ^ 20 →
      (p + px.val < l →
        go (.beamAdvance h px) fun t => (tlOf t k).pos = p + px.val ∧ (tlOf t k).lap = lap) ∧
      (l ≤ p + px.val → 1 < l → fbit s (Fd.headHstatStopping h) = false →
        go (.beamAdvance h px) fun t => (tlOf t k).pos = p + px.val - l ∧ (tlOf t k).lap = (lap + 1) % 2 ^ 20) ∧
      (l ≤ p + px.val → fbit s (Fd.headHstatStopping h) = true →
        ∃ t, exec (.beamAdvance h px) s = answers t ∧ fbit t (Fd.headHstatRunning h) = false ∧
          fbit t (Fd.headHstatStopping h) = false ∧ headOf t h = HeadUnit.reset ∧ (tlOf t k).pos = 0 ∧
          (tlOf t k).lap = lap))) ∧
  (∀ (s : State) (h : Fin 6), mainUp s = true → fbit s (Fd.headHstatRunning h) = true →
    let u := headOf s h
    let tt := beamTotalsOf s h
    let l := tt.1 * tt.2
    let e := slipDist l (tlPos s (h.val + 1)) ((fget s (Fd.headSyncPosLine h) * tt.1 + fget s (Fd.headSyncPosColumn h)) % l)
    let locked := fbit s (Fd.headSyncStatLocked h)
    let miss := fget s (Fd.headSyncStatMiss h)
    let pull : Int := min 1000 (fget s (Fd.headSyncTolPull h))
    let err := fun (t : State) => fget t (Fd.headSyncErrE h) = wrapN 20 (clampN 20 e) ∧ t.tls = s.tls
    (u.placed = true → markComes s h = true →
      (locked = false → ∃ t, exec (.syncMark h) s = answers (beamSlip t h e) ∧ err t ∧
        fbit t (Fd.headSyncStatLocked h) = true ∧ fbit t (Fd.headSyncStatAcquiring h) = false ∧
        fbit t (Fd.headSyncStatHoldover h) = false ∧ fget t (Fd.headSyncStatMiss h) = 0) ∧
      (locked = true → e.natAbs ≤ fget s (Fd.headSyncTolTol h) →
        ∃ t, exec (.syncMark h) s = answers t ∧ err t ∧ fget t (Fd.headSyncStatMiss h) = 0 ∧
          fbit t (Fd.headSyncStatLocked h) = true ∧
          (headOut s h ≠ 1 → -pull ≤ signedN 16 (fget t (Fd.headPclkStatPpm h)) ∧
            signedN 16 (fget t (Fd.headPclkStatPpm h)) ≤ pull) ∧
          (headOut s h = 1 → fget t (Fd.headPclkStatPpm h) = fget s (Fd.headPclkStatPpm h) ∧
            (headOf t h).teFix = -e * (fget s (Fd.headParCfgTwLo h) + fget s (Fd.headParCfgTwHi h) : Nat))) ∧
      (locked = true → fget s (Fd.headSyncTolTol h) < e.natAbs → miss + 1 < max 1 (fget s (Fd.headSyncCfgMisses h)) →
        ∃ t, exec (.syncMark h) s = answers t ∧ err t ∧ fget t (Fd.headSyncStatMiss h) = miss + 1 ∧
          fbit t (Fd.headSyncStatLocked h) = true ∧ fget t (Fd.headPclkStatPpm h) = fget s (Fd.headPclkStatPpm h)) ∧
      (locked = true → fget s (Fd.headSyncTolTol h) < e.natAbs → max 1 (fget s (Fd.headSyncCfgMisses h)) ≤ miss + 1 →
        ∃ t, exec (.syncMark h) s = answers (beamSlip t h e) ∧ err t ∧ fget t (Fd.headSyncStatMiss h) = 0 ∧
          fget t (Fd.headRelocksCount h) = min (fget s (Fd.headRelocksCount h) + 1) (2 ^ 20 - 1) ∧
          bit (fget t (Fd.headHevtBits h)) 4 = true)) ∧
    (syncSrc s h ≠ 0 → fbit s (Fd.headSyncStatHoldover h) = false →
      3 * sourcePs s h ≤ 2 * 1000 * (s.clock - u.markAt.getD u.runAt) →
      ∃ t, exec (.syncHoldover h) s = answers t ∧ fbit t (Fd.headSyncStatHoldover h) = true ∧
        fbit t (Fd.headSyncStatLocked h) = false ∧ bit (fget t (Fd.headHevtBits h)) 5 = true ∧
        fget t (Fd.headPclkStatPpm h) = fget s (Fd.headPclkStatPpm h) ∧ t.tls = s.tls ∧ t.heads = s.heads))

/-- From R238, R239: link training and hot plug on a DisplayPort head. Training ends with the rate and lanes reached or
with trained clear; a plug sets hpd, an unplug clears hpd and trained, an IRQ_HPD that tells of a lost link clears
trained; each sets its HEVT bit. On a head that the idle program manages, its own steps follow a plug and the end of the
training that it started, and the head stops at an unplug (R454). From R240: AUX transactions. A write to AUX_CMD starts
one, with the request's code, address and length; while one is busy it is ignored and counted. An ACK ends it with its
count, and of a read with its bytes in AUX_DATA; a NAK, an eighth DEFER, those of the I2C device and a timeout end it
with their reply codes; an earlier DEFER is retried. The end sets HEVT.aux_done. -/
def Obligations.DisplayLinks : Prop :=
  (∀ (s : State) (m : Master) (h : Fin 6) (v : Dword) (rate : BitVec 4) (lanes : BitVec 2) (lost : Bool),
    mainUp s = true → s.variant.head h = true → h.val < 4 →
    let keeps := fun (t : State) => t.mem = s.mem ∧ t.engs = s.engs ∧ t.tls = s.tls ∧ t.faultOwn = s.faultOwn
    let sets := fun (t : State) (i : Nat) => fget t (Fd.headHevtBits h) = fget s (Fd.headHevtBits h) ||| 2 ^ i
    (reaches s m (Adr.headDpTrain h) = true → bit v.toNat 0 = true →
      ∃ t, exec (.dpTrain m h v) s = answers t ∧ fbit t (Fd.headDpStatTraining h) = true ∧ keeps t) ∧
    (fbit s (Fd.headDpStatTraining h) = true →
      (rate.toNat ≤ dpRate s h → lanes.toNat ≤ dpLanesAsked s h →
        ∃ t, exec (.trainingEnd h true rate lanes) s = answers (idleTrained t h) ∧ fbit t (Fd.headDpStatTraining h) = false ∧
          fbit t (Fd.headDpStatTrained h) = true ∧ fget t (Fd.headDpStatRate h) = rate.toNat ∧
          fget t (Fd.headDpStatLanes h) = lanes.toNat ∧ keeps t) ∧
      (∃ t, exec (.trainingEnd h false rate lanes) s = answers (idleTrained t h) ∧ fbit t (Fd.headDpStatTraining h) = false ∧
          fbit t (Fd.headDpStatTrained h) = false ∧ keeps t)) ∧
    (∃ t, exec (.plug h) s = answers (idleProbe t h) ∧ fbit t (Fd.headDpStatHpd h) = true ∧ sets t 0 ∧ keeps t) ∧
    (∃ t, exec (.unplug h) s = answers (if idleManages s h then
          busWrite (idleForget t h) .tollhouse (Adr.headHctrl h) ((rget t (Adr.headHctrl h)).toNat / 2 * 2) else t) ∧
      fbit t (Fd.headDpStatHpd h) = false ∧ fbit t (Fd.headDpStatTrained h) = false ∧ sets t 1 ∧ keeps t) ∧
    (∃ t, exec (.irqHpd h lost) s = answers t ∧ sets t 2 ∧ keeps t ∧
      fbit t (Fd.headDpStatTrained h) = (fbit s (Fd.headDpStatTrained h) && !lost))) ∧
  (∀ (s : State) (m : Master) (h : Fin 6) (addr : Word) (len : BitVec 4) (d : List Byte), (∀ b, m ≠ .barge b) →
    (reaches s m (Adr.headAuxCmd h) = true →
      ∀ c code, (c, code) ∈ [(Instr.auxNativeRead m h addr len, 9), (.auxNativeWrite m h addr len, 8),
          (.auxI2cRead m h addr len, 1), (.auxI2cWrite m h addr len, 0), (.auxI2cReadMot m h addr len, 5),
          (.auxI2cWriteMot m h addr len, 4)] →
        (fbit s (Fd.headAuxStatBusy h) = false → ∃ t, exec c s = answers t ∧ fbit t (Fd.headAuxStatBusy h) = true ∧
          fget t (Fd.headAuxCmdCmd h) = code ∧ fget t (Fd.headAuxCmdAddr h) = addr.toNat ∧
          fget t (Fd.headAuxCmdLen h) = len.toNat ∧ headOf t h = { headOf s h with auxTries := 0 }) ∧
        (fbit s (Fd.headAuxStatBusy h) = true → exec c s = answers (refuseChip s m (Adr.headAuxCmd h)))) ∧
    (mainUp s = true → s.variant.head h = true → h.val < 4 → fbit s (Fd.headAuxStatBusy h) = true →
      let n := fget s (Fd.headAuxCmdLen h) + 1
      let ends := fun (c : Instr) (reply count : Nat) (p : State → Prop) => ∃ t, exec c s = answers t ∧
        fbit t (Fd.headAuxStatBusy h) = false ∧ fget t (Fd.headAuxStatReply h) = reply ∧
        fget t (Fd.headAuxStatCount h) = count ∧ bit (fget t (Fd.headHevtBits h)) 3 = true ∧ t.mem = s.mem ∧ p t
      (fget s (Fd.headAuxCmdCmd h) ∈ [1, 5, 9] → d.length ≤ n → ends (.auxReply h (.ack d)) 0 d.length fun t =>
        ∀ k, k < d.length →
          bits (rget t (Adr.headAuxData h (k / 4))).toNat (8 * (k % 4) + 7) (8 * (k % 4)) = (d.getD k 0).toNat) ∧
      (fget s (Fd.headAuxCmdCmd h) ∈ [0, 4, 8] → ends (.auxReply h (.ack d)) 0 n fun t => t.heads = s.heads) ∧
      (fget s (Fd.headAuxCmdCmd h) ∈ [0, 1, 4, 5] → (ends (.auxReply h .i2cNak) 4 0 fun t => t.heads = s.heads) ∧
        (7 ≤ (headOf s h).auxTries → ends (.auxReply h .i2cDefer) 5 0 fun t => t.heads = s.heads)) ∧
      (ends (.auxReply h .nak) 1 0 fun t => t.heads = s.heads) ∧ (ends (.auxTimeout h) 3 0 fun t => t.heads = s.heads) ∧
      ((headOf s h).auxTries < 7 → exec (.auxReply h .defer) s =
        answers (setHead s h { headOf s h with auxTries := (headOf s h).auxTries + 1 })) ∧
      (7 ≤ (headOf s h).auxTries → ends (.auxReply h .defer) 2 0 fun t => t.heads = s.heads)))

/-! ### Audio (R248, R249, R254, R256-R258) -/

/-- From R249, R257: V_KEY writes wait for the boundary; there key-on sets the position to 0.0 and the phase to attack
and keeps the level, key-off sets release from any phase but idle, cut sets level and phase to 0 and fires the end
event. At a boundary of a running system T7 advances by one and no ferry key stays due; a stopped system makes none.
From R254, R256, R258: the arithmetic of a voice. The envelope moves by the rates of its phase towards the sustain
target and changes phase where it arrives; the position advances by PITCH in 5.16 steps; a send splits the level by pan.
-/
def Obligations.Voices : Prop :=
  (∀ (s : State) (m : Master) (v : Fin 512) (inputs : AudioInputs)
    (late : List (Fin 512)),
    (reaches s m (Adr.vKey v) = true → stagedIn s (Adr.vKey v) = none →
      ∀ c n, (c, n) ∈ [(Instr.keyOn m v, 1), (.keyOff m v, 2), (.cut m v, 3)] →
        ∃ t, exec c s = answers t ∧ wfield t (Fd.vKeyKey v) = n ∧ t.aud = s.aud ∧ (∀ o, rget t o = rget s o) ∧
          t.mem = s.mem) ∧
    (let on := voiceKey s v 1
     fget on (Fd.vStatPhase v) = 1 ∧ fget on (Fd.vEnvE v) = fget s (Fd.vEnvE v) ∧
      (voiceOf on v).i = 0 ∧ (voiceOf on v).f = 0) ∧
    (fget s (Fd.vStatPhase v) ≠ 0 → fget (voiceKey s v 2) (Fd.vStatPhase v) = 4 ∧ (voiceKey s v 2).aud = s.aud) ∧
    (fget s (Fd.vStatPhase v) = 0 → voiceKey s v 2 = s) ∧
    (let off := voiceKey s v 3
     fget off (Fd.vStatPhase v) = 0 ∧ fget off (Fd.vEnvE v) = 0 ∧ fbit off (Fd.vStatEnded v) = true ∧
      (fbit s (Fd.vEvtEndEn v) = true → NSet.has (fget s (Fd.vEvtChan v)) off.ferryDue = true)) ∧
    (mainUp s = true → fbit s Fd.audCfgRun = false → exec (.sampleBoundary inputs late) s = answers s) ∧
    (mainUp s = true → fbit s Fd.audCfgRun = true → tlKind s 7 = 3 → (tlOf s 7).pos < 2 ^ 20 →
      ∃ t, exec (.sampleBoundary inputs late) s = answers t ∧ (tlOf t 7).pos = ((tlOf s 7).pos + 1) % 2 ^ 20 ∧
        t.keyDue = [])) ∧
  (∀ (s : State) (v bus level pan : Nat) (y : Int), v < 512 →
    let e := fget s (Fd.vEnvE v)
    let sus := fget s (Fd.vSusSus v)
    let target := sus * 2 ^ 12 + sus * 2 ^ 4 + sus / 2 ^ 4
    let rate := fun (f : Nat → FieldAt) => fget s (f v)
    let moved := fun (x p : Nat) => fget (envelope s v) (Fd.vEnvE v) = x ∧ fget (envelope s v) (Fd.vStatPhase v) = p
    (fget s (Fd.vStatPhase v) = 1 →
      let x := if rate Fd.vAtkAtk = 0 then 0xFFFFF else min 0xFFFFF (e + rate Fd.vAtkAtk)
      moved x (if x = 0xFFFFF then 2 else 1)) ∧
    (fget s (Fd.vStatPhase v) = 2 →
      let x := if rate Fd.vDecDec = 0 then target else max target (e - rate Fd.vDecDec)
      moved x (if x = target then 3 else 2)) ∧
    (fget s (Fd.vStatPhase v) = 3 → moved target 3) ∧
    (fget s (Fd.vStatPhase v) = 4 →
      let x := if rate Fd.vRelRel = 0 then 0 else e - rate Fd.vRelRel
      moved x (if x = 0 then 0 else 4)) ∧
    (let u := voiceOf s v
     let w := voiceOf (voiceAdvance s v) v
     u.f < 2 ^ 16 → w.f < 2 ^ 16 ∧
      w.i * 2 ^ 16 + w.f = (u.i * 2 ^ 16 + u.f + fget s (Fd.vPitchStep v)) % 2 ^ 37) ∧
    (pan ≤ 256 → sendTo bus level pan y =
      (bus, y * ((level + 1) * (256 - pan) : Nat) / 2 ^ 16, y * ((level + 1) * pan : Nat) / 2 ^ 16)) ∧
    (256 < pan → sendTo bus level pan y = sendTo bus level 256 y))

/-! ### Posts (R279, R285-R292) -/

/-- From R279, R285, R286, R289-R292: writes to posts that their owner makes and pegging does not freeze. A new function
or a waking post begins a switch, in whose first cycle the old driver holds the pad; the per-port writes set or clear
one field of every named post that accepts them; PEG takes its three values in order from one requester; a supply that
disagrees with vsel is a mismatch. -/
def Obligations.PostWrites : Prop :=
  ∀ (s : State) (m : Master) (n : Fin 1024) (p : Fin 32) (v : Dword) (present v33 : Bool),
    (reaches s m (Adr.postPcfg n) = true → postGuard s n m (postPegged s n) false = none →
      ∃ t, exec (.pcfgWrite m n v) s = answers t ∧ (rget t (Adr.postPcfg n)).toNat = v.toNat % 2 ^ 20 / 64 * 64 ∧
        (∀ o, o ≠ Adr.postPcfg n → rget t o = rget s o) ∧ t.faultOwn = s.faultOwn ∧ t.mem = s.mem ∧
        let switches := bits v.toNat 19 16 ≠ fget s (Fd.postPcfgFunc n) ∨ bits v.toNat 6 6 ≠ fget s (Fd.postPcfgAwake n)
        (¬ switches → t.posts = s.posts) ∧ (switches → padDrv t n = padDrv s n ∧ (padSwitching t n).isSome = true)) ∧
    (∀ c f k off, (c, f, k, off) ∈ [(Instr.outSet m p v, Fd.postGpioOut, 1, Adr.prtOutSet p),
        (.outClr m p v, Fd.postGpioOut, 0, Adr.prtOutClr p), (.oeSet m p v, Fd.postGpioOe, 1, Adr.prtOeSet p),
        (.oeClr m p v, Fd.postGpioOe, 0, Adr.prtOeClr p)] →
      reaches s m off = true →
      ∃ t, exec c s = answers t ∧ t.mem = s.mem ∧ t.engs = s.engs ∧ ∀ i < 32,
        let j := 32 * p.val + i
        (bit v.toNat i = true ∧ postGuard s j m false false = none → fget t (f j) = k) ∧
        (¬ (bit v.toNat i = true ∧ postGuard s j m false false = none) → fget t (f j) = fget s (f j)) ∧
        (bit v.toNat i = true → postGuard s j m false false ≠ none → fbit t (Fd.postPstatForeign j) = true)) ∧
    (reaches s m (Adr.postPeg n) = true → postGuard s n m (postPegged s n) false = none →
      let stage := fget s (Fd.postPstatStage n)
      let same := (postOf s n).pegBy = requesterOf m
      let w := v.toNat % 2 ^ 20
      ∃ t, exec (.peg m n v) s = answers t ∧
        (stage = 0 → w = 0x0A11C → fget t (Fd.postPstatStage n) = 1 ∧ (postOf t n).pegBy = requesterOf m) ∧
        (stage = 1 → same → w = 0x05EE3 → fget t (Fd.postPstatStage n) = 2) ∧
        (stage = 2 → same → w = 0x00F0D → fget t (Fd.postPstatStage n) = 0 ∧ fbit t (Fd.postPstatPegged n) = true) ∧
        (stage ≠ 0 → ¬ (same ∧ (stage = 1 ∧ w = 0x05EE3 ∨ stage = 2 ∧ w = 0x00F0D)) →
          fget t (Fd.postPstatStage n) = 0 ∧ fbit t (Fd.postPstatPegged n) = fbit s (Fd.postPstatPegged n))) ∧
    (mainUp s = true → p.val < s.variant.ports →
      let bad := present && decide (boolNat v33 ≠ fget s (Fd.prtBankCfgVsel p))
      ∃ t, exec (.bankSupplyChange p present v33) s = answers t ∧ fbit t (Fd.prtBankStatPresent p) = present ∧
        fbit t (Fd.prtBankStatV33 p) = (present && v33) ∧ fbit t (Fd.prtBankStatMismatch p) = bad ∧
        (bad = true → fbit s (Fd.prtBankStatMismatch p) = false → bit (faultOwn t (bayHall (p / 4))) 5 = true) ∧
        (bad = false → t.faultOwn = s.faultOwn) ∧ t.mem = s.mem)

/-- From R281, R283, R288, R289: serial units and pin lines. TX and RX hold 16 entries and drop what comes after, with
their flags; a change of mode empties both; a UART byte sent leaves TX, where it had begun or CTS lets it begin; so does
an SPI or I2C byte, the received byte enters RX, and a lost arbitration empties TX; a UART byte received enters RX with
its error flags. An input post that is not set to the unit reads level 0. A pin line fires on the edge or level of its
mode. -/
def Obligations.SerialAndPinLines : Prop :=
  ∀ (s : State) (m : Master) (p k : Fin 32) (v : Dword) (b : Byte) (e1 e2 : Bool), mainUp s = true →
    p.val < s.variant.ports →
    let u := serOf s p
    let mode := fget s (Fd.prtSerCfgMode p)
    let go := fun (c : Instr) (q : State → Prop) => ∃ t, exec c s = answers t ∧ t.mem = s.mem ∧ t.engs = s.engs ∧ q t
    let held := mode = 1 ∧ fbit s (Fd.prtSerCfgCtsEn p) = true ∧ serCts s p = true
    let live := fun (i f : Nat) => postLive s (32 * p.val + i) f = true
    (reaches s m (Adr.prtSerTx p) = true → postGuard s (32 * p.val) m (postPegged s (32 * p.val)) false = none →
      go (.serTxPush m p v) fun t =>
      (u.tx.length < 16 →
        serOf t p = { u with tx := u.tx ++ [v.toNat % 2 ^ 12], begun := (serOf t p).begun } ∧
        ((serOf t p).begun = true ↔ u.begun = true ∨ ¬ held)) ∧
      (16 ≤ u.tx.length → serOf t p = u ∧ fbit t (Fd.prtSerStatTxOvf p) = true)) ∧
    (∀ x rest, u.rx = x :: rest → ∃ t, exec (.serRxRead m p) s = answers (setResp t 0 [256 + x.toNat]) ∧
      serOf t p = { u with rx := rest }) ∧
    (u.rx = [] → ∃ t, exec (.serRxRead m p) s = answers (setResp t 0 [0]) ∧ serOf t p = u) ∧
    (reaches s m (Adr.prtSerCfg p) = true → (∀ n, m ≠ .barge n) →
      postGuard s (32 * p.val) m (serFrozen s p 0x40) false = none → bits v.toNat 19 18 ≠ mode → go (.serModeWrite m p v) fun t =>
        fget t (Fd.prtSerCfgMode p) = bits v.toNat 19 18 ∧ serOf t p = { SerUnit.reset with cts := u.cts }) ∧
    (∀ x rest, u.tx = x :: rest →
      (mode = 1 → u.begun = true ∨ ¬ held → go (.byteSent p b e1 e2) fun t =>
        (serOf t p).tx = rest ∧ (serOf t p).rx = u.rx ∧ ((serOf t p).begun = true ↔ rest ≠ [] ∧ ¬ held)) ∧
      (mode = 1 → u.begun = false → held → exec (.byteSent p b e1 e2) s = answers s) ∧
      (mode = 2 → u.rx.length < 16 → go (.byteSent p b e1 e2) fun t =>
        (serOf t p).tx = rest ∧ (serOf t p).inTransfer = !bit x 10 ∧
        (live 2 3 → (serOf t p).rx = u.rx ++ [b]) ∧ (¬ live 2 3 → (serOf t p).rx = u.rx ++ [0])) ∧
      (mode = 3 → ¬ live 0 4 → exec (.byteSent p b e1 e2) s = answers s) ∧
      (mode = 3 → live 0 4 →
        (bit x 9 = true → u.rx.length < 16 → go (.byteSent p b e1 e2) fun t => (serOf t p).tx = rest ∧
          (live 1 4 → (serOf t p).rx = u.rx ++ [b]) ∧ (¬ live 1 4 → (serOf t p).rx = u.rx ++ [0])) ∧
        (bit x 9 = false → (live 1 4 ∧ e2 = true) ∨ (¬ live 1 4 ∧ x % 256 ≠ 0) → go (.byteSent p b e1 e2) fun t =>
          (serOf t p).tx = [] ∧ (serOf t p).rx = u.rx ∧ fbit t (Fd.prtSerStatArbLost p) = true) ∧
        (bit x 9 = false → (live 1 4 ∧ e2 = false) ∨ (¬ live 1 4 ∧ x % 256 = 0) → go (.byteSent p b e1 e2) fun t =>
          (serOf t p).tx = rest ∧ (serOf t p).rx = u.rx ∧
          (live 1 4 → e1 = true → fbit t (Fd.prtSerStatNack p) = true)))) ∧
    (mode = 1 → ¬ live 1 2 → exec (.byteReceived p b e1 e2) s = answers s) ∧
    (mode = 1 → live 1 2 → go (.byteReceived p b e1 e2) fun t =>
      (serOf t p).receiving = false ∧ (serOf t p).tx = u.tx ∧
      (u.rx.length < 16 → (serOf t p).rx = u.rx ++ [b]) ∧
      (16 ≤ u.rx.length → (serOf t p).rx = u.rx ∧ fbit t (Fd.prtSerStatRxOvr p) = true) ∧
      (e1 = true → fbit s (Fd.prtSerCfgParity p) = true → fbit t (Fd.prtSerStatPerr p) = true) ∧
      (e2 = true → fbit t (Fd.prtSerStatFerr p) = true)) ∧
    (go (.ctsChange p e1) fun t => (serOf t p).cts = e1 ∧ (serOf t p).tx = u.tx ∧ (serOf t p).rx = u.rx ∧
      (u.begun = true → (serOf t p).begun = true) ∧ t.regs = s.regs) ∧
    (e1 = true → bankLive s (postPort (pilPost s k)) = false → exec (.pinLineCondition k e1) s = answers s) ∧
    (fbit s (Fd.pilCfgEn k) = true → pilPost s k < s.variant.posts → fbit s (Fd.pilStatLevel k) ≠ e1 →
      pilResolved s k = true → e1 = false ∨ bankLive s (postPort (pilPost s k)) = true →
      let mode := pilMode s k
      let fires := mode = 2 ∨ (mode = 0 ∨ mode = 3) ∧ e1 = true ∨ (mode = 1 ∨ mode = 4) ∧ e1 = false
      go (.pinLineCondition k e1) fun t => fbit t (Fd.pilStatLevel k) = e1 ∧
        (fires → fbit t (Fd.pilStatSeen k) = true ∧ (mode < 3 → NSet.has (288 + k.val) t.ic.latch = true) ∧
          (fbit s (Fd.pilEvtFerryEn k) = true → NSet.has (fget s (Fd.pilEvtChan k)) t.ferryDue = true)) ∧
        (¬ fires → t.ferryDue = s.ferryDue ∧ t.ic = s.ic ∧ fget t (Fd.pilStatSeen k) = fget s (Fd.pilStatSeen k)))

/-! ### Tally units (R299, R302-R305) -/

/-- From R299, R302, R304, R305: a gap closes the frame of a unit in gap mode, with its result in RESULT, one more
frame, and a mismatch counted; the response of a ring record's write moves RWR on, with the record in DRAM, or reports
the error; a RESULT0 read latches the other words and the sequence number for its requester. -/
def Obligations.TallyUnits : Prop :=
  ∀ (s : State) (m : Master) (k : Fin 32), mainUp s = true → s.variant.tallies k = true →
    let u := tallyOf s k
    (fbit s (Fd.kCfgEn k) = true → fget s (Fd.kSrcKind k) = 3 → tallyFmode s k = 1 →
      (u.inFrame = false → exec (.tallyGapExpiry k) s = answers (setTally s k { u with synced := true })) ∧
      (u.inFrame = true →
        let c := tallyCheck s k u.bytes false
        ∃ t, exec (.tallyGapExpiry k) s = answers t ∧ (tallyOf t k).inFrame = false ∧ (tallyOf t k).bytes = [] ∧
          (tallyOf t k).records = u.records + 1 ∧
          (∀ j < 4, fget t (Fd.kResultR k j) = c.1 / 2 ^ (16 * j) % 2 ^ 16) ∧
          fget t (Fd.kFramesCount k) = min (fget s (Fd.kFramesCount k) + 1) (2 ^ 20 - 1) ∧
          fget t (Fd.kMismatchesCount k) =
            (if c.2.1 then min (fget s (Fd.kMismatchesCount k) + 1) (2 ^ 20 - 1) else fget s (Fd.kMismatchesCount k)) ∧
          (c.2.1 = true → fbit t (Fd.kStatMismatch k) = true) ∧ t.mem = s.mem ∧ t.engs = s.engs)) ∧
    (∀ x rest, u.ring = x :: rest →
      let next := (fget s (Fd.kRwrWr k) + 1) % tallyRlen s k
      (x.1 % 8 = 0 → x.2.length = 16 → x.1 + 16 ≤ s.mem.top →
        ∃ t, exec (.tallyRingWriteDone k .ok) s = answers t ∧ (tallyOf t k).ring = rest ∧
          fget t (Fd.kRwrWr k) = next ∧ memBytes t x.1 16 = x.2 ∧
          ∀ a, a < x.1 ∨ x.1 + 16 ≤ a → memByte t a = memByte s a) ∧
      (∃ t, exec (.tallyRingWriteDone k .error) s = answers t ∧ (tallyOf t k).ring = rest ∧
        fget t (Fd.kRwrWr k) = next ∧ fbit t (Fd.kStatRingErr k) = true ∧ bit (faultOwn t bayChip) 5 = true ∧
        ∀ a, memByte t a = memByte s a)) ∧
    (∃ t, exec (.result0Read m k) s = answers (setResp t 0 [fget s (Fd.kResultR k 0)]) ∧
      Sparse.get [] (64 * requesterOf m + k.val) t.readLatch =
        [fget s (Fd.kResultR k 1), fget s (Fd.kResultR k 2), fget s (Fd.kResultR k 3), u.records % 2 ^ 20] ∧
      t.regs = s.regs ∧ t.tallies = s.tallies)

/-! ### Memory and the movers (R310-R316, R320-R341) -/

/-- From R310, R312, R314-R316: a channel ends its training with a capacity it accepts (1, 2, 4 or 8 GiB) or its
failure, and with the last one MEM_TOP is seven eighths of the trained channels at the smallest capacity; the patrol
reads its line, corrects or poisons every granule with an error there, counts a poisoned one as any read does, and moves
on to the next line of the channel's whole capacity; a write-back ends a single-bit error; an aged request rises by one
class, never above Normal. None of them changes a byte. -/
def Obligations.MemoryUpkeep : Prop :=
  ∀ (s : State) (ch : Fin 4) (cap : BitVec 8) (a : Addr) (r : Requester), mainUp s = true →
    let go := fun (c : Instr) (p : State → Prop) => ∃ t, exec c s = answers t ∧ (∀ b, memByte t b = memByte s b) ∧
      t.engs = s.engs ∧ t.ram = s.ram ∧ p t
    (ch.val < s.variant.channels → fbit s (Fd.mcStatTrained ch) = false → fbit s (Fd.mcStatFail ch) = false →
      (capListed cap.toNat = false → exec (.dramTrainingDone ch true cap) s = answers s) ∧
      (capListed cap.toNat = true → go (.dramTrainingDone ch true cap) fun t => fbit t (Fd.mcStatTrained ch) = true ∧
        fget t (Fd.mcStatCap ch) = cap.toNat ∧ (trainingOver t = false → t.mem.top = s.mem.top) ∧
        ∀ c, trainingOver t = true → (∀ m ∈ trainedChannels t, c ≤ fget t (Fd.mcStatCap m)) →
          (∃ m ∈ trainedChannels t, c = fget t (Fd.mcStatCap m)) →
          t.mem.top = 7 * ((trainedChannels t).length * (c * 2 ^ 28)) / 8) ∧
      (go (.dramTrainingDone ch false cap) fun t => fbit t (Fd.mcStatFail ch) = true ∧
        fbit t (Fd.mcStatTrained ch) = false)) ∧
    (fbit s (Fd.mcStatTrained ch) = true → fbit s (Fd.mcScrubEn ch) = true → go (.patrolScrub ch) fun t =>
      let at' := Sparse.get 0 ch s.mem.scrubAt
      let line := 256 * (at' * (trainedChannels s).length + trainedIndex s ch)
      Sparse.get 0 ch t.mem.scrubAt = (if scrubLines s ch ≤ at' + 1 then 0 else at' + 1) ∧
      (at' < dataLines s → ∀ g, line ≤ 8 * g → 8 * g < line + 256 →
        (NSet.has g s.mem.poison = true → fbit t (Fd.mcEstatPoisonRd (channelOf s (8 * g))) = true) ∧
        (NSet.has g s.mem.poison = false → NSet.has g s.mem.bad = true →
          NSet.has g t.mem.bad = false ∧ NSet.has g t.mem.poison = true) ∧
        (NSet.has g s.mem.poison = false → NSet.has g s.mem.bad = false → NSet.has g s.mem.single = true →
          NSet.has g t.mem.writeBack = true))) ∧
    (NSet.has (a.toNat / 8) s.mem.writeBack = true → go (.dramWriteBack a) fun t =>
      NSet.has (a.toNat / 8) t.mem.writeBack = false ∧ NSet.has (a.toNat / 8) t.mem.single = false ∧ t.regs = s.regs) ∧
    ((ageBase s r).2 = true → fget s Fd.memAgeLimit ≠ 0 →
      (1 < ageClass s r → go (.requestAgeing r) fun t => ageClass t r = ageClass s r - 1 ∧ t.regs = s.regs) ∧
      (ageClass s r ≤ 1 → exec (.requestAgeing r) s = answers s))

/-- From R320-R326: a bay DMA channel. A go write whose run the rules allow starts it, or arms it where triggers are
enabled; one that they refuse sets bad; one to a channel that runs or is armed counts as an ignored Stop-class write. An
abort ends an armed or a running channel, with aborted unless poison or an error ended the run before. A trigger starts
an armed one. The end of a run of mode 0 from good words to good bytes of DRAM has written every word as four bytes, and
nothing else of DRAM. -/
def Obligations.BayDmaRuns : Prop :=
  ∀ (s : State) (m : Master) (c : Fin 64) (v : Dword) (hit : RegHit), (∀ b, m ≠ .barge b) →
    let q := c.val / 2
    let d := c.val % 2
    let w := plainWrite s (Adr.dCtrl q d) hit v.toNat
    let runs := dmaBusy s q d || dmaArmed s q d
    let n := fget s (Fd.dCountN q d)
    (reaches s m (Adr.dCtrl q d) = true → RegMap.lookup (Adr.dCtrl q d) = some hit →
      (bit v.toNat 19 = true → bit v.toNat 18 = false →
        (runs = false → dmaRefused w m q d = none → bit v.toNat 9 = true →
          exec (.bayDmaGo m c v) s = answers (fon w (Fd.dStatArmed q d))) ∧
        (runs = false → dmaRefused w m q d = none → bit v.toNat 9 = false →
          ∃ t, exec (.bayDmaGo m c v) s = answers t ∧ dmaBusy t q d = true ∧ dmaArmed t q d = false ∧
            fget t (Fd.dLeftN q d) = n ∧ t.mem.cells = s.mem.cells ∧ t.ram = s.ram) ∧
        (runs = false → dmaRefused w m q d ≠ none →
          ∃ t, exec (.bayDmaGo m c v) s = answers t ∧ dmaBusy t q d = false ∧ fbit t (Fd.dStatBad q d) = true ∧
            t.mem = s.mem ∧ t.ram = s.ram) ∧
        (runs = true → ∃ t, exec (.bayDmaGo m c v) s = answers t ∧
          fget t Fd.stopIgnCount = min (fget s Fd.stopIgnCount + 1) (2 ^ 20 - 1) ∧ bit (faultOwn t (bayQuad q)) 5 = true ∧
          dmaBusy t q d = dmaBusy s q d ∧ dmaArmed t q d = dmaArmed s q d ∧ t.mem = s.mem ∧ t.ram = s.ram)) ∧
      (bit v.toNat 18 = true → bit v.toNat 19 = false →
        (dmaArmed s q d = true → ∃ t, exec (.bayDmaAbort m c v) s = answers t ∧ dmaArmed t q d = false ∧
          t.mem = s.mem ∧ t.ram = s.ram) ∧
        (dmaArmed s q d = false → dmaBusy s q d = true → ∃ t, exec (.bayDmaAbort m c v) s = answers t ∧
          dmaBusy t q d = false ∧ (fbit t (Fd.dStatAborted q d) || fbit t (Fd.dStatPoison q d) ||
            fbit t (Fd.dStatErr q d)) = true))) ∧
    (mainUp s = true → dmaOpenQuad s q = true → dmaArmed s q d = true → fget s (Fd.dStatTrigPend q d) ≠ 0 →
      ∃ t, exec (.bayDmaRunStart c) s = answers t ∧ dmaBusy t q d = true ∧ dmaArmed t q d = false ∧
        fget t (Fd.dStatTrigPend q d) = fget s (Fd.dStatTrigPend q d) - 1 ∧ fget t (Fd.dLeftN q d) = n ∧ t.mem.cells = s.mem.cells) ∧
    (mainUp s = true → dmaOpenQuad s q = true → dmaBusy s q d = true → fget s (Fd.dCtrlMode q d) = 0 →
      fbit s (Fd.dCtrlDir q d) = false → s.mem.top ≤ 2 ^ 40 →
      let a := dmaAddr s q d
      let at' := fun (i : Nat) => dmaWordAt s q d i
      a + 4 * n ≤ s.mem.top → (∀ i < n, (granOf s (at' i).1).mark ≠ .bad) →
      (∀ g, a / 8 ≤ g → 8 * g < a + 4 * n → NSet.has g s.mem.poison = false ∧ NSet.has g s.mem.bad = false) →
      ∃ t, exec (.bayDmaComplete c) s = answers t ∧ dmaBusy t q d = false ∧ fget t (Fd.dLeftN q d) = 0 ∧
        (∀ i < n, memBytes t (a + 4 * i) 4 = leBytes 4 (granWord (granOf s (at' i).1) (at' i).2).toNat) ∧
        (∀ b, b < a ∨ a + 4 * n ≤ b → memByte t b = memByte s b) ∧ t.ram = s.ram ∧
        (fbit s (Fd.dEvtDoneEn q d) = true → NSet.has (fget s (Fd.dEvtDoneChan q d)) t.ferryDue = true))

/-- From R328-R333: a Barge channel. An arm write makes the shadow set valid, or is lost; an abort ends a waiting
channel, and a busy one with the step; a load copies the shadow set, and waits where its option asks for a trigger; a
loaded or triggered channel becomes busy. A transfer between good ranges of DRAM that do not meet has copied every byte,
and no other. -/
def Obligations.BargeTransfers : Prop :=
  ∀ (s : State) (m : Master) (n : Fin 16) (v : Dword), (∀ b, m ≠ .barge b) →
    let busy := fbit s (Fd.bgStatBusy n)
    let waiting := fbit s (Fd.bgStatWaiting n)
    let valid := fbit s (Fd.bgStatShValid n)
    (reaches s m (Adr.bgChCtrl n) = true →
      (bit v.toNat 19 = true → bit v.toNat 18 = false → ∃ t, exec (.bargeArm m n v) s = answers t ∧
        fbit t (Fd.bgStatShValid n) = true ∧ (valid = true → fbit t (Fd.bgStatArmLost n) = true) ∧ t.mem = s.mem ∧
        t.bargeAborts = s.bargeAborts) ∧
      (bit v.toNat 18 = true → bit v.toNat 19 = false → ∃ t, exec (.bargeAbort m n v) s = answers t ∧ t.mem = s.mem ∧
        (busy = true → NSet.has n t.bargeAborts = true) ∧
        (busy = false → waiting = true → fbit t (Fd.bgStatWaiting n) = false ∧ fbit t (Fd.bgStatAborted n) = true))) ∧
    (mainUp s = true → busy = false → waiting = false → NSet.has n s.bargeLoaded = false → valid = true →
      fbit s (Fd.bgChCtrlEn n) = true → fbit s (Fd.bgStatErr n) = false → fbit s (Fd.bgStatPoison n) = false →
      fbit s (Fd.bgStatAborted n) = false →
      ∃ t, exec (.shadowLoad n) s = answers t ∧ fbit t (Fd.bgStatShValid n) = false ∧
        (∀ j < 4, fget t (Fd.bgASrcA n j) = fget s (Fd.bgSrcA n j) ∧ fget t (Fd.bgADstA n j) = fget s (Fd.bgDstA n j)) ∧
        (∀ j < 2, fget t (Fd.bgALenN n j) = fget s (Fd.bgLenN n j)) ∧
        (fbit s (Fd.bgOptTrig n) = true → fbit t (Fd.bgStatWaiting n) = true ∧ t.bargeLoaded = s.bargeLoaded) ∧
        (fbit s (Fd.bgOptTrig n) = false → fbit t (Fd.bgStatWaiting n) = false ∧ NSet.has n t.bargeLoaded = true)) ∧
    (mainUp s = true → NSet.has n s.bargeLoaded = true ∨ (waiting = true ∧ fget s (Fd.bgStatTrigPend n) ≠ 0) →
      ∃ t, exec (.bargeTransferStart n) s = answers t ∧ fbit t (Fd.bgStatBusy n) = true ∧
        fget t (Fd.bgDoneN n 0) = 0 ∧ fget t (Fd.bgDoneN n 1) = 0 ∧ NSet.has n t.bargeLoaded = false ∧
        (NSet.has n s.bargeLoaded = false → fbit t (Fd.bgStatWaiting n) = false ∧
          fget t (Fd.bgStatTrigPend n) = fget s (Fd.bgStatTrigPend n) - 1)) ∧
    (mainUp s = true → busy = true → bargeSrcHost s n = false → bargeDstHost s n = false →
      let src := bargeSrc s n % 2 ^ 48
      let dst := bargeDst s n % 2 ^ 48
      let len := bargeLen s n
      src + len ≤ s.mem.top → dst + len ≤ s.mem.top → src + len ≤ dst ∨ dst + len ≤ src →
      (∀ g, (src / 8 ≤ g ∧ 8 * g < src + len) ∨ (dst / 8 ≤ g ∧ 8 * g < dst + len) →
        NSet.has g s.mem.poison = false ∧ NSet.has g s.mem.bad = false) →
      ∃ t, exec (.bargeTransferComplete n [] .ok) s = answers t ∧ fbit t (Fd.bgStatBusy n) = false ∧
        memBytes t dst len = memBytes s src len ∧ fget t (Fd.bgDoneN n 0) = len % 2 ^ 16 ∧
        fget t (Fd.bgDoneN n 1) = len / 2 ^ 16 ∧ ∀ b, b < dst ∨ dst + len ≤ b → memByte t b = memByte s b)

/-- From R335-R341: the Planer. A go write of an operation starts it, or is refused by the rules of its registers and
fires the error event; while one runs it is an ignored Stop-class write. The end of a fill has repeated the colour's
bytes at every address of its range, and changed no other byte; an abort ends an operation, with aborted unless poison
or an error ended it before. -/
def Obligations.PlanerOperations : Prop :=
  ∀ (s : State) (m : Master) (v : Dword) (hit : RegHit), (∀ b, m ≠ .barge b) →
    let busy := fbit s Fd.plStatBusy
    let w := plainWrite s Adr.plCmd hit v.toNat
    (reaches s m Adr.plCmd = true → s.variant.planer = true → RegMap.lookup Adr.plCmd = some hit → bit v.toNat 19 = true →
      bit v.toNat 18 = false →
      ∀ c op, (c, op) ∈ [(Instr.copy m v, 0), (.fill m v, 1), (.colourKeyedCopy m v, 2), (.solidRectangle m v, 3),
          (.line m v, 4)] → bits v.toNat 17 15 = op →
        (busy = false → plRefused w = false → exec c s = answers (fon (ageEnd w .planer) Fd.plStatBusy)) ∧
        (busy = false → plRefused w = true →
          exec c s = answers (fireIf (fon w Fd.plStatRefused) (fbit s Fd.plEvtErrEn) (fget s Fd.plEvtErrChan))) ∧
        (busy = true → ∃ t, exec c s = answers t ∧ fbit t Fd.plStatBusy = true ∧
          fget t Fd.stopIgnCount = min (fget s Fd.stopIgnCount + 1) (2 ^ 20 - 1) ∧ bit (faultOwn t bayChip) 5 = true ∧
          t.mem = s.mem)) ∧
    (reaches s m Adr.plCmd = true → bit v.toNat 18 = true → bit v.toNat 19 = false → busy = true →
      ∃ t, exec (.planerAbort m v) s = answers t ∧ fbit t Fd.plStatBusy = false ∧
        (fbit t Fd.plStatAborted || fbit t Fd.plStatPoison || fbit t Fd.plStatErr) = true) ∧
    (mainUp s = true → busy = true → fget s Fd.plCmdOp = 1 →
      let dst := plDst s
      let len := plLen s
      (∀ g, dst / 8 ≤ g → 8 * g < dst + len → NSet.has g s.mem.poison = false ∧ NSet.has g s.mem.bad = false) →
      ∃ t, exec .planerComplete s = answers t ∧ fbit t Fd.plStatBusy = false ∧
        (∀ i < len, memByte t (dst + i) = (leBytes 4 (plColor s)).getD ((dst + i) % 4) 0) ∧
        (∀ b, b < dst ∨ dst + len ≤ b → memByte t b = memByte s b) ∧
        (fbit s Fd.plEvtDoneEn = true → NSet.has (fget s Fd.plEvtDoneChan) t.ferryDue = true))

/-! ### Interrupts (R344-R353) -/

/-- From R346, R347: the candidate of an engine is ready, targets it, ranks above its running rank, and no other such
source comes before it by rank, sub-priority and number; a take presents at most 15, makes the source active, clears its
edge latch unless it fires again in that cycle, and stacks the rank and source before. From R348, R351-R353: ends of
service, host vectors, software sources and hold-off groups. E_EOI pops the engine's stack and ends its source; a
V_CLAIM read answers and claims the vector's candidate; V_EOI ends what the vector claimed and lets its next message go;
a due message goes while the link is up and nothing masks it; SW_SET latches sources from 512 up. -/
def Obligations.Interrupts : Prop :=
  (∀ (s : State) (e : Fin 128),
    let u := icEngOf s e
    let able := fun (n : Nat) => n < 1024 ∧ srcReady s n = true ∧ fbit s (Fd.srcSrcCfgTgt n) = false ∧
      fget s (Fd.srcSrcCfgIdx n) = e.val ∧ u.pr < (srcRank s n).1
    (icCandidate s e = none ↔ ∀ n, ¬ able n) ∧
    (∀ n, icCandidate s e = some n → able n ∧ (∀ k, able k → srcBefore s n k = false) ∧
      ∃ t, icTake s e = some (min 15 (srcRank s n).1, t) ∧
        icEngOf t e = { pr := (srcRank s n).1, cur := some n, stack := (u.pr, u.cur) :: u.stack } ∧
        NSet.has n t.ic.active = true ∧ NSet.has n t.ic.latch = (refired s n && NSet.has n s.ic.latch) ∧
        t.regs = s.regs ∧ t.engs = s.engs)) ∧
  (∀ (s : State) (m : Master) (e : Fin 128) (v : Fin 64) (w : Dword),
    let u := icEngOf s e
    (reaches s m (Adr.icEEoi e) = true →
      (eoiAdmits e m = true → ∀ p rest, u.stack = p :: rest → ∃ t, exec (.eEoi m e) s = answers t ∧
        icEngOf t e = { pr := p.1, cur := p.2, stack := rest } ∧ t.regs = s.regs ∧
        (∀ n, u.cur = some n → NSet.has n t.ic.active = false)) ∧
      (eoiAdmits e m = true → u.stack = [] → exec (.eEoi m e) s = answers (fon s Fd.icStatEoiEmpty)) ∧
      (eoiAdmits e m = false → exec (.eEoi m e) s = answers (refuse s m (Adr.icEEoi e) (bayEng e) 5))) ∧
    (mainUp s = true →
      (∀ n, vecCandidate s v = some n → ∃ t, exec (.vClaimRead m v) s = answers (setResp t 0 [2 ^ 19 + n]) ∧
        NSet.has n t.ic.active = true ∧ NSet.has n t.ic.latch = (refired s n && NSet.has n s.ic.latch) ∧
        Sparse.get 64 n t.ic.claimed = v.val) ∧
      (vecCandidate s v = none → ∃ t, exec (.vClaimRead m v) s = answers (setResp t 0 [0]) ∧ t.ic = s.ic) ∧
      (vecDue s v = true → vecOpen s v = true → exec (.msiXMessage v) s =
        answers { s with ic := { s.ic with outstanding := NSet.ins v s.ic.outstanding },
                         host := { s.host with lastMsg := some (Sparse.get (0, 0) v s.host.table) } }) ∧
      (vecDue s v = false ∨ vecOpen s v = false → exec (.msiXMessage v) s = answers s) ∧
      (Sparse.get 0 v s.ic.hold = 1 → ∃ t, exec (.holdOffExpiry v) s = answers t ∧ Sparse.get 0 v t.ic.hold = 0 ∧
        t.regs = s.regs ∧ t.ic.active = s.ic.active ∧ t.ic.latch = s.ic.latch)) ∧
    (reaches s m (Adr.icVEoi v) = true → ∃ t, exec (.vEoi m v) s = answers t ∧ t.regs = s.regs ∧
      NSet.has v t.ic.outstanding = false ∧ ∀ n, (n, v.val) ∈ s.ic.claimed → NSet.has n t.ic.active = false) ∧
    (reaches s m Adr.icSwSet = true →
      (512 ≤ w.toNat % 1024 → exec (.swSet m w) s = answers (irqEdge s (w.toNat % 1024))) ∧
      (w.toNat % 1024 < 512 → exec (.swSet m w) s = answers (fon s Fd.icStatSwBad))))

/-! ### Raise groups (R363-R368) -/

/-- From R363-R368: a write of a member's register, by either of its addresses, changes its staged copy alone. An arm of
an enabled group that is not voted makes its enabled slots pending under the next number, or is lost; an abort loads the
staged copies of the pending slots anew; an enable loads all, unless slots overlap; a disable ends the group; an apply
takes the slots that triggers named in the oldest cycle, ends those still pending, and with the last of them the raise.
-/
def Obligations.RaiseGroups : Prop :=
  ∀ (s : State) (m : Master) (g : Fin 16) (k off : Nat) (v : Dword) (slots : BitVec 8) (hit : RegHit), (∀ b, m ≠ .barge b) →
    let on := fbit s (Fd.rgCtrlEn g)
    let pend := fget s (Fd.rgStatPend g)
    let next := fget s (Fd.rgNextNo g)
    let w := plainWrite s (Adr.rgCtrl g) hit (setBits v.toNat 17 17 (boolNat on))
    let loaded := fun (t : State) (x : Nat) => stagedGet t x = wgetN s x ∧ NSet.has x t.rg.marked = false
    (reaches s m off = true → stagedIn s off = some (g.val, k) → RegMap.lookup off = some hit →
      prodSecret s m hit v.toNat = false → s.variant.scaler = true →
      exec (.stagedWrite m (0x3000000 + off) v) s = exec (.stagedWrite m off v) s ∧
      ∃ t, exec (.stagedWrite m off v) s = answers t ∧ stagedGet t off = v.toNat &&& writableMask off ∧
        NSet.has off t.rg.marked = true ∧ rget t off = rget s off ∧ t.waiting = s.waiting ∧ t.mem = s.mem ∧
        (bit pend k = true → fbit t (Fd.rgStatLateWrite g) = true)) ∧
    (reaches s m (Adr.rgCtrl g) = true → RegMap.lookup (Adr.rgCtrl g) = some hit →
      (bit v.toNat 19 = true → bit v.toNat 18 = false → bit v.toNat 17 = true → on = true → joined s = false →
        (pend = 0 → ∃ t, exec (.raiseArm m g v) s = answers t ∧ fget t (Fd.rgNextNo g) = (next + 1) % 2 ^ 20 ∧
          (∀ j < 8, bit (fget t (Fd.rgStatPend g)) j = fbit s (Fd.rgMemEn g j))) ∧
        (pend ≠ 0 → ∃ t, exec (.raiseArm m g v) s = answers t ∧ fbit t (Fd.rgStatArmLost g) = true ∧
          fget t (Fd.rgStatPend g) = pend ∧ fget t (Fd.rgNextNo g) = next)) ∧
      (bit v.toNat 18 = true → bit v.toNat 19 = false → bit v.toNat 17 = true → on = true → pend ≠ 0 →
        ∃ t, exec (.raiseAbort m g v) s = answers t ∧ fget t (Fd.rgStatPend g) = 0 ∧
          fbit t (Fd.rgStatAborted g) = true ∧
          ∀ j < 8, bit pend j = true → ∀ x ∈ slotRegs s g j, loaded t x) ∧
      (bit v.toNat 18 = false → bit v.toNat 19 = false → bit v.toNat 17 = true → on = false →
        (rgOverlap w g = false → ∃ t, exec (.raiseEnable m g v) s = answers t ∧ fbit t (Fd.rgCtrlEn g) = true ∧
          ∀ j < 8, ∀ x ∈ slotRegs s g j, loaded t x) ∧
        (rgOverlap w g = true → exec (.raiseEnable m g v) s = answers (fon w (Fd.rgStatOverlap g)))) ∧
      (bit v.toNat 18 = false → bit v.toNat 19 = false → bit v.toNat 17 = false → on = true →
        ∃ t, exec (.raiseEnable m g v) s = answers t ∧ fbit t (Fd.rgCtrlEn g) = false ∧ fget t (Fd.rgStatPend g) = 0 ∧
          ∀ j < 8, ∀ x ∈ slotRegs s g j, Sparse.find x t.rg.staged = none)) ∧
    (mainUp s = true → Sparse.get [] g.val s.rg.due = [] → exec (.apply g slots) s = answers s) ∧
    (mainUp s = true → ∀ p rest, Sparse.get [] g.val s.rg.due = p :: rest →
      let go := if on then p.2 &&& pend else 0
      (slots.toNat ≠ go → exec (.apply g slots) s = answers s) ∧
      (slots.toNat = go → go ≠ 0 → ∃ t, exec (.apply g slots) s = answers t ∧
        (∀ j < 8, bit (fget t (Fd.rgStatPend g)) j = (bit pend j && !bit go j)) ∧
        (∀ j < 8, bit go j = true → fget t (Fd.rgMnoNo g j) = next) ∧
        ((∀ j < 8, bit pend j = true → bit go j = true) → fget t (Fd.rgNoNo g) = next ∧ fbit t (Fd.rgStatTorn g) = false) ∧
        (¬ (∀ j < 8, bit pend j = true → bit go j = true) → Sparse.get 0 g s.rg.tornAt = 0 →
          fbit t (Fd.rgStatTorn g) = true)) ∧
      (slots.toNat = go → go = 0 → exec (.apply g slots) s =
        answers { s with rg := { s.rg with due := Sparse.put [] g.val rest s.rg.due } }))

/-! ### Host link and side-band management (R376, R377, R379, R380, R382-R384, R387, R415) -/

/-- From R351, R376, R377, R379, R380, R387: a BAR2 access reaches HL_WIN.base * 2^20 + offset. A read in DRAM answers
its bytes, one past MEM_TOP is an Unsupported Request; a write stores its bytes alone, as poison where the EP bit is
set, and a fenced one counts and is discarded. BAR4 shows the vectors whose messages wait, and its mask bits follow the
host's writes. The link's state, Gen1 to Gen5 by x1, x2 or x4, shows in HL_STAT; a completion timeout sets cto and is an
error for its requester. -/
def Obligations.HostAccess : Prop :=
  ∀ (s : State) (off : BitVec 30) (n : Nat) (data : List Byte) (ep : Bool) (speed width : BitVec 3), mainUp s = true →
    let base := fget s Fd.hlWinBase * 2 ^ 20
    let a := base + off.toNat / 4 * 4
    let b := base + off.toNat
    let past := fun (t : State) => raise (fon t Fd.hlStatUr) bayChip 5
    let stored := fun (p : State → Prop) => ∃ t, exec (.bar2Write off data ep) s = answers t ∧
      memBytes t b data.length = data ∧ (∀ x, x < b ∨ b + data.length ≤ x → memByte t x = memByte s x) ∧ p t
    (a + 4 * n ≤ s.mem.top →
      (∀ g, a / 8 ≤ g → 8 * g < a + 4 * n → NSet.has g (s.mem.poison ++ s.mem.bad ++ s.mem.single) = false) →
      exec (.bar2Read off n) s = answers (setResp s 0 ((memBytes s a (4 * n)).map fun x => x.toNat))) ∧
    (s.mem.top < a + 4 * n → exec (.bar2Read off n) s = answers (setResp (past s) 1 [])) ∧
    (fbit s Fd.sbFenceBar2 = true →
      exec (.bar2Write off data ep) s = answers (raise (fcount s Fd.sbAuthRefusedCount 1) bayChip 5)) ∧
    (fbit s Fd.sbFenceBar2 = false → s.mem.top < b + data.length → exec (.bar2Write off data ep) s =
      answers { past s with host := { s.host with aerUr := true } }) ∧
    (fbit s Fd.sbFenceBar2 = false → b + data.length ≤ s.mem.top → ep = false →
      (∀ g, b / 8 ≤ g → 8 * g < b + data.length → NSet.has g (s.mem.poison ++ s.mem.bad ++ s.mem.single) = false) →
      stored fun t => t.regs = s.regs ∧ t.faultOwn = s.faultOwn ∧ t.mem.poison = s.mem.poison) ∧
    (fbit s Fd.sbFenceBar2 = false → b + data.length ≤ s.mem.top → ep = true →
      stored fun t => fbit t Fd.hlStatPoisonRx = true ∧
        ∀ g, b / 8 ≤ g → 8 * g < b + data.length → NSet.has g t.mem.poison = true) ∧
    (∀ v : Fin 64, (∃ x, exec (.rcRead .host (0x4002000 + 4 * (v.val / 32))) s = answers (setResp s 0 [x]) ∧
        bit x (v.val % 32) = vecPending s v) ∧
      ∀ w : Dword, ∃ t, exec (.registerWrite .host (16 * v.val + 0x400000C) w 15) s = answers t ∧
        NSet.has v.val t.host.masked = bit w.toNat 0 ∧ t.ic = s.ic ∧ t.regs = s.regs) ∧
    (linkMode speed.toNat width.toNat = false → exec (.linkUp speed width) s = answers s) ∧
    (fbit s Fd.pwrStatPerst = false → linkMode speed.toNat width.toNat = true →
      ∃ t, exec (.linkUp speed width) s = answers t ∧ fbit t Fd.hlStatLinkUp = true ∧
      fget t Fd.hlStatSpeed = speed.toNat ∧ fget t Fd.hlStatWidth = width.toNat ∧ t.mem = s.mem ∧ t.engs = s.engs ∧
      ∀ o, o ≠ Adr.hlStat → rget t o = rget s o) ∧
    (fbit s Fd.hlStatLinkUp = true → ∃ t, exec .linkDown s = answers t ∧ fbit t Fd.hlStatLinkUp = false ∧
      fbit t Fd.hlStatDown = true ∧ t.mem = s.mem ∧ t.engs = s.engs ∧ t.tls = s.tls ∧
      ∀ o, o ≠ Adr.hlStat → rget t o = rget s o) ∧
    (∀ (h : Fin 6) (l : Fin 4) (row : Nat) (k : Compose), (headOf s h).comp = some k → row < 65536 →
      (((lineSpans s h k).drop k.spans).any fun p => NSet.has (l.val * 65536 + row) (spanRows s h k p)) = true →
      Sparse.find (l.val * 65536 + row) (headOf s h).rows = none → fbit s (Fd.vidCtrlHost h l) = true →
      ∃ t, exec (.completionTimeout (.video h l)) s = answers t ∧ fbit t Fd.hlStatCto = true ∧
        fbit t (Fd.vidStatErr h l) = true ∧ bit (faultOwn t bayChip) 5 = true ∧ t.mem = s.mem) ∧
    (∀ m : Fin 16, fbit s (Fd.bgStatBusy m) = true → bargeLen s m ≠ 0 →
      bargeSrcHost s m = true ∨ bargeDstHost s m = true →
      (bargeSrcHost s m = false → bargeSrc s m % 2 ^ 48 + bargeLen s m ≤ s.mem.top) →
      (bargeDstHost s m = false → bargeDst s m % 2 ^ 48 + bargeLen s m ≤ s.mem.top) →
      ∃ t, exec (.completionTimeout (.barge m)) s = answers t ∧ fbit t Fd.hlStatCto = true ∧
        fbit t (Fd.bgStatBusy m) = false ∧ (fbit t (Fd.bgStatErr m) = true ∨ fbit t (Fd.bgStatPoison m) = true))

/-- From R382-R387: the side-band's requests while the always-on domain is up. Set Endpoint ID sets what Get Endpoint ID
answers; the message types are 0x00, 0x05 and 0x7E. READ and WRITE are DWORD accesses in ascending order, with code 3
outside control space and 4 where the main domain's registers are away; a refused DWORD counts in the answer. LOG
answers entries, IDENT the part, stepping B0 and presence entry 0, and FENCE writes SB_FENCE. -/
def Obligations.SidebandRequests : Prop :=
  ∀ (s : State) (q : BitVec 7) (off : Nat) (n : Byte) (v : Dword) (first : BitVec 16) (h : RegHit), s.th.aonUp = true →
    let answer := fun (c : Instr) (t : State) (code : Nat) (d : List Nat) => exec c s = answers (setResp t code d)
    let inSpace := fun (k : Nat) => off % 4 = 0 ∧ 1 ≤ k ∧ k ≤ 64 ∧ off + 4 * k ≤ 2 ^ 26
    let reads := (List.range n.toNat).foldl (fun (p : List Nat × State) i =>
      let r := busRead p.2 .sideband (off + 4 * i)
      (p.1 ++ [r.1], r.2)) ([], s)
    (∃ t, exec (.setEndpointId n) s = answers t ∧ fget t Fd.sbStatEid = n.toNat ∧ ∀ o, o ≠ Adr.sbStat → rget t o = rget s o) ∧
    answer .getEndpointId s 0 [fget s Fd.sbStatEid] ∧
    (∃ x, answer .getMctpVersionSupport (drew s) 0 [x]) ∧
    answer .getMessageTypeSupport s 0 [0x00, 0x05, 0x7E] ∧
    answer .getVendorMessageSupport s 0 [Config.vendorId.toNat] ∧
    (mainUp s = true → inSpace n.toNat → answer (.read q off n) reads.2 0 (q.toNat :: reads.1)) ∧
    (¬ inSpace n.toNat → answer (.read q off n) s 3 [q.toNat]) ∧
    (mainUp s = false → inSpace n.toNat → off < 0x210000 → answer (.read q off n) s 4 [q.toNat] ∧
      answer (.write q off [v]) s 4 [q.toNat]) ∧
    (inSpace 1 → RegMap.lookup off = some h → dispMem off = false → mirrorView off = false → mainUp s = true →
      (h.blk.id ∈ [Blk.bus, .port, .spd, .dpa, .inp, .mc, .sb, .spr, .plane, .til] → reaches s .sideband off = true →
        stagedIn s off = none → prodSecret s .sideband h v.toNat = false →
        ∃ t, exec (.write q off [v]) s = answers (setResp (nextCycle (settle t)) 0 [q.toNat, 0]) ∧
          (∀ o, rget t o = rget (plainWrite s off h v.toNat) o) ∧ t.faultOwn = (plainWrite s off h v.toNat).faultOwn ∧
          t.mem = s.mem) ∧
      (flagsView off = false → off ≠ 0x22000 → hitPresent s h = true → writeRefused s .sideband off h = true →
        ∃ t, exec (.write q off [v]) s = answers (setResp (nextCycle (settle t)) 0 [q.toNat, 1]) ∧
          fget t Fd.sbAuthRefusedCount = min (fget s Fd.sbAuthRefusedCount + 1) (2 ^ 20 - 1) ∧
          fget t Fd.sbAuthLast1Master = 1 ∧ bit (faultOwn t bayChip) 5 = true ∧ t.mem = s.mem)) ∧
    (first.toNat < 1024 → 1 ≤ n.toNat → n.toNat ≤ 16 → answer (.log q first n) s 0
      (q.toNat :: (List.range n.toNat).flatMap fun i => (logAt s (first.toNat + i)).map fun x => x.toNat)) ∧
    (n.toNat = 0 ∨ 16 < n.toNat → answer (.log q first n) s 3 [q.toNat]) ∧
    (∃ t, exec (.fenceCommand q n) s = answers t ∧ fget t Fd.sbFenceMgmt = bits n.toNat 0 0 ∧
      fget t Fd.sbFenceAll = bits n.toNat 1 1 ∧ fget t Fd.sbFenceBar2 = bits n.toNat 2 2 ∧
      t.resp = some { code := 0, data := [q.toNat, (rget t Adr.sbFence).toNat] } ∧
      ∀ o, o ≠ Adr.sbFence → rget t o = rget s o) ∧
    answer (.ident q) s 0 (q.toNat :: (match s.variant with | .xm128 => 0 | .xm64 => 1 | .xm32l => 2) :: 1 ::
      (leBytes 8 (descBits (descAt s 0))).map fun x => x.toNat)

/-- From R415: the SPDM responder while the Tollhouse's firmware runs. It answers version 1.2 and its capabilities; it
serves digests, the chain of slot 0 and measurements after its four algorithms are negotiated, and errors else; an
unsigned measurement block n from 1 to 8 is MR(n - 1), block 9 the lifecycle state; what it signs ends with a nonce and
the identity key's signature. -/
def Obligations.SpdmResponder : Prop :=
  ∀ (s : State) (slot index : Byte) (off len : Nat) (nonce : BitVec 256) (b1 b2 b3 b4 : Bool), thUp s = true →
    let answer := fun (c : Instr) (t : State) (code : Nat) (d : List Nat) => exec c s = answers (setResp t code d)
    let nats := fun (l : List Byte) => l.map fun x => x.toNat
    let chain := fun (at' n : Nat) => (List.range (min n (Config.chainLength - at'))).map fun i =>
      Config.norByte (0x200000 + at' + i)
    let digest := leBytes 64 (Config.sha512 (chain 0 Config.chainLength)).toNat
    let block := if index.toNat = 9 then [9, 3, life s]
      else index.toNat :: min 2 (index.toNat - 1) :: nats (leBytes 64 (mrGet s (index.toNat - 1)))
    answer .getVersion s 0 [0x12] ∧
    answer .getCapabilities s 0 [1, 1, 2] ∧
    (∃ t, exec (.negotiateAlgorithms b1 b2 b3 b4) s = answers t ∧ t.th.spdm = (b1 && b2 && b3 && b4) ∧
      t.regs = s.regs ∧ t.mem = s.mem) ∧
    (s.th.spdm = false → answer .getDigests s 1 [] ∧ answer (.getCertificate slot off len) s 1 [] ∧
      answer (.challenge slot nonce) s 1 [] ∧ answer (.getMeasurements index true nonce) s 1 [] ∧
      answer (.getMeasurements index false nonce) s 1 []) ∧
    (s.th.spdm = true →
      (1 ≤ index.toNat → index.toNat ≤ 9 → answer (.getMeasurements index false nonce) s 0 block) ∧
      (9 < index.toNat → index.toNat < 255 → answer (.getMeasurements index false nonce) s 1 []) ∧
      (chainIn s 0 = true →
        answer .getDigests s 0 (1 :: nats digest) ∧
        (off < Config.chainLength → answer (.getCertificate 0 off len) s 0 (nats (chain off len))) ∧
        (spdmSigns s = true →
          let r := trngTake s 4
          let mine := leBytes 32 r.1
          let signs := fun (kind : Nat) (body : List Byte) => nats (body ++ mine ++ leBytes 64
            (Config.ed25519Sign (BitVec.ofNat 256 (s.th.priv.getD 0))
              (Config.spdmMessage kind (leBytes 32 nonce.toNat ++ body ++ mine))).toNat)
          answer (.challenge 0 nonce) r.2 0 (signs 3 digest) ∧
          (1 ≤ index.toNat → index.toNat ≤ 9 → answer (.getMeasurements index true nonce) r.2 0
            (signs 4 (block.map (BitVec.ofNat 8)))))))

/-! ### The Tollhouse (R392, R397-R417, R468) -/

/-- From R405, R406: a TH_CMD write in the mailbox that accepts its master (0: the host and Secure-level engines; 1: the
side-band) while no command runs there makes the mailbox busy and starts the command; any other is ignored and counts.
When the command completes, CMD_STAT shows its result and busy clears, the mailbox's note sets, and the log takes entry
0x09. -/
def Obligations.MailboxCommands : Prop :=
  ∀ (s : State) (m : Master) (b : Fin 2),
    let admits := (b.val = 0 ∧ (m = .host ∨ ∃ e, m = .engine e 0)) ∨ (b.val = 1 ∧ m = .sideband)
    let busy := fbit s (Fd.mbCmdStatBusy b)
    (reaches s m (Adr.mbCmd b) = true →
      ∀ c code, (c, code) ∈ [(Instr.boot m b, 1), (.extend m b, 2), (.rbCommit m b, 3), (.setRtc m b, 4), (.witness m b, 5),
          (.provision m b, 7), (.deploy m b, 8), (.retire m b, 9), (.keyAdd m b, 10), (.keyRevoke m b, 11),
          (.debugOpen m b, 12), (.zeroise m b, 13), (.rekey m b, 14)] →
        (admits → busy = false → ∃ t, exec c s = answers t ∧ fbit t (Fd.mbCmdStatBusy b) = true ∧
          Sparse.find b.val t.th.starts = some (m, code) ∧ (∀ o, o ≠ Adr.mbCmdStat b → rget t o = rget s o) ∧
          t.mem = s.mem ∧ t.engs = s.engs) ∧
        (¬ admits ∨ busy = true → exec c s = answers (refuseChip s m (Adr.mbCmd b)))) ∧
    (thUp s = true → ∀ code r, r < 16 → Sparse.find b.val s.th.results = some (code, r) →
      ∃ t, exec (.commandCompleted b) s = answers t ∧ fget t (Fd.mbCmdStatResult b) = r ∧
        fbit t (Fd.mbCmdStatBusy b) = false ∧ fbit t (if b = 0 then Fd.thNoteCmd0 else Fd.thNoteCmd1) = true ∧
        Sparse.find b.val t.th.results = none ∧
        let n := fget s Fd.thLogSeqSeq
        Sparse.get [] (n % 1024) t.th.log = logBody s 0x09 code r false false ++ leBytes 2 n ∧
        fget t Fd.thLogSeqSeq = (n + 1) % 2 ^ 20 ∧ t.mem = s.mem ∧ t.engs = s.engs)

/-- From R397-R406, R416: what a mailbox command does where nothing stands against it, and the errors of its table.
EXTEND extends MR2-MR7; RB_COMMIT raises a counter to the running version; the fuse commands set their fuses and the
lifecycle state follows; zeroisation loses the share and the private key and keeps the seed; BOOT of an accepted image
sets boot_ok. -/
def Obligations.MailboxEffects : Prop :=
  ∀ (s : State) (b : Fin 2),
    let x := argByte s b 0
    let runs := fun (code : Nat) (p : State → Prop) => cmdErrors s b code = [] →
      Sparse.find b.val (cmdStart s b code).th.results = some (code, 0) ∧ p (cmdStart s b code)
    runs 2 (fun t => mrGet t x = (Config.sha512 (leBytes 64 (mrGet s x) ++ argBytes s b 2 64)).toNat ∧ t.mem = s.mem) ∧
    (∀ c v, s.th.running = some (c, v) → counterOf s c ≤ v → runs 3 fun t => counterOf t c = v) ∧
    runs 4 (fun t => t.th.rtcSec = argNat s b 0 5 ∧ t.th.rtcFrac = argNat s b 5 2) ∧
    (witnessGood s (argByte s b 0) (argByte s b 1) (argNat s b 2 2) (argNat s b 4 6) = true →
      runs 5 fun t => ∀ a, a < argNat s b 4 6 ∨ argNat s b 4 6 + 256 ≤ a → memByte t a = memByte s a) ∧
    runs 7 (fun t => t.th.provisionFuse = true ∧ Sparse.find 0 t.th.ownerKeys = some (argNat s b 0 32) ∧
      t.th.seed.isSome = true ∧ t.th.share.isSome = true ∧ t.th.priv.isSome = true ∧ fget t Fd.thStatZeroised = 0) ∧
    runs 8 (fun t => t.th.deployFuse = true ∧ life t = 2 ∧ fget t Fd.thStatLife = 2) ∧
    runs 9 (fun t => t.th.retireFuse = true ∧ t.th.revoked = [0, 1, 2, 3] ∧ life t = 3 ∧ fget t Fd.thStatLife = 3 ∧
      t.th.share = none ∧ t.th.priv = none ∧ t.th.seed = s.th.seed) ∧
    runs 10 (fun t => Sparse.find x t.th.ownerKeys = some (argNat s b 1 32) ∧ t.th.revoked = s.th.revoked) ∧
    runs 11 (fun t => NSet.has x t.th.revoked = true ∧ t.th.ownerKeys = s.th.ownerKeys) ∧
    runs 12 (fun t => t.th.debugOpen = s.th.debugOpen ||| argNat s b 0 16) ∧
    runs 13 (fun t => t.th.share = none ∧ t.th.priv = none ∧ t.th.seed = s.th.seed ∧ fget t Fd.thStatZeroised = 1 ∧
      ∀ j < 16, fget t (Fd.thIdpubK j) = 0) ∧
    runs 14 (fun t => t.th.share.isSome = true ∧ t.th.seed = s.th.seed ∧ t.th.priv.isSome = s.th.seed.isSome) ∧
    (let a := argNat s b 0 6
     let img := dramImage s a
     imgRefused s img 1 (dramRoom s a) = none →
      runs 1 fun t => fbit t Fd.thStatBootOk = true ∧ t.th.running = some (imgNat img 12 1, imgNat img 16 4)) ∧
    (∀ code e, code ≤ 14 → cmdErrors s b code = [e] →
      let t := cmdStart s b code
      t.th = { s.th with results := Sparse.ins b.val (code, e) s.th.results } ∧ t.mem = s.mem ∧ t.engs = s.engs) ∧
    (∀ p ∈ [(2, [0, 1], [0, 1, 2, 3]), (3, [0, 1], [2]), (4, [0, 1], [0, 1, 2, 3]), (5, [0, 1], [1, 2]), (7, [1], [0]),
        (8, [1], [1]), (9, [0, 1], [2]), (10, [0, 1], [1, 2]), (11, [0, 1], [1, 2]), (12, [0, 1], [2]),
        (13, [0, 1], [0, 1, 2, 3]), (14, [0, 1], [1, 2])],
      (b.val ∉ p.2.1 ↔ 4 ∈ cmdErrors s b p.1) ∧ (life s ∉ p.2.2 ↔ 2 ∈ cmdErrors s b p.1))

/-- From R392, R398, R403, R407-R413, R417, R468: push writes, random numbers, the RTC, doors and sensors with their
policies, the alarm and its clear, and the monitors. TH_PUSH stores its DWORD at the base plus four for each push before
it; TH_RNG answers 16 bits to the masters it admits, and 0 after a health failure; a door or sensor that becomes
asserted raises the alarm by policy 1 and zeroises by policy 2; a clear is accepted only while nothing with such a
policy is asserted. -/
def Obligations.TollhouseUnits : Prop :=
  ∀ (s : State) (m : Master) (v : Dword) (n : Fin 14) (raw : Dword) (test : Byte) (tj vcore vsram vaon vbat : BitVec 12),
    let does := fun (c : Instr) (p : State → Prop) => ∃ t, exec c s = answers t ∧ p t
    let sense := fun (t : State) (k : Nat) => bit (fget t Fd.thSenseAsserted) k
    let policy := min 2 (if n.val < 8 then bits (fget s Fd.thPol0Pol) (2 * n.val + 1) (2 * n.val)
      else bits (fget s Fd.thPol1Pol) (2 * n.val - 15) (2 * n.val - 16))
    let asserts := fun (t : State) => sense t n = true ∧ (∀ k : Fin 14, k ≠ n → sense t k = sense s k) ∧
      (policy = 2 → t.th.share = none ∧ t.th.priv = none ∧ fbit t Fd.thStatZeroised = true) ∧
      (policy ≠ 2 → t.th.share = s.th.share ∧ t.th.priv = s.th.priv) ∧
      (policy ≠ 0 → fbit t Fd.thStatAlarm = true ∧ bit (fget t Fd.thAlarmCause) n = true) ∧
      (policy = 0 → fget t Fd.thStatAlarm = fget s Fd.thStatAlarm ∧ fget t Fd.thAlarmCause = fget s Fd.thAlarmCause) ∧
      t.mem = s.mem ∧ t.engs = s.engs
    (reaches s m Adr.thPushBase0 = true → does (.thPushBase0Write m v) fun t =>
      fget t Fd.thPushBase0A = v.toNat % 2 ^ 16 ∧ t.th.pushCount = 0 ∧ t.mem = s.mem) ∧
    (let a := fget s Fd.thPushBase0A + 2 ^ 16 * fget s Fd.thPushBase1A + 2 ^ 32 * fget s Fd.thPushBase2A + 4 * s.th.pushCount
     reaches s m Adr.thPush = true → a + 4 ≤ s.mem.top →
      (∀ g, a / 8 ≤ g → 8 * g < a + 4 → NSet.has g (s.mem.poison ++ s.mem.bad) = false) →
      does (.thPush m v) fun t => memBytes t a 4 = leBytes 4 v.toNat ∧ t.th.pushCount = s.th.pushCount + 1 ∧
        ∀ x, x < a ∨ a + 4 ≤ x → memByte t x = memByte s x) ∧
    (busOpen s m Adr.thRng = true →
      let admits := m = .host ∨ m = .sideband ∨ m = .tollhouse ∨ ∃ e, m = .engine e 0
      (admits → fbit s Fd.thRngStatFail = false → ∃ x < 2 ^ 16, does (.thRngRead m) fun t =>
        t.resp = some { code := 0, data := [x] } ∧ fbit t Fd.thRngStatValid = true ∧ t.mem = s.mem) ∧
      (admits → fbit s Fd.thRngStatFail = true → does (.thRngRead m) fun t =>
        t.resp = some { code := 0, data := [0] } ∧ fbit t Fd.thRngStatValid = false ∧ t.mem = s.mem) ∧
      (¬ admits → exec (.thRngRead m) s = answers (setResp (refuseChip s m Adr.thRng) 0 [0]))) ∧
    (busOpen s m (Adr.thRtc 0) = true → does (.thRtc0Read m) fun t =>
      t.resp = some { code := 0, data := [s.th.rtcSec % 2 ^ 16] } ∧ rtcLatched t m 0 = s.th.rtcSec / 2 ^ 16 % 2 ^ 16 ∧
      rtcLatched t m 1 = s.th.rtcSec / 2 ^ 32 % 2 ^ 8 ∧ rtcLatched t m 2 = s.th.rtcFrac ∧ t.regs = s.regs ∧ t.th = s.th) ∧
    (thUp s = true → does (.trngHealthFailure test) fun t => fbit t Fd.thRngStatFail = true ∧
      fbit t Fd.thRngStatValid = false ∧ fbit t Fd.thNoteRng = true ∧ fbit t Fd.thNoteLog = true ∧ t.mem = s.mem) ∧
    (s.th.rtcFrac < 2 ^ 16 → s.th.rtcSec < 2 ^ 40 → does .rtcAdvance fun t => t.th.rtcFrac < 2 ^ 16 ∧
      t.th.rtcSec * 2 ^ 16 + t.th.rtcFrac = (s.th.rtcSec * 2 ^ 16 + s.th.rtcFrac + 1) % 2 ^ 56 ∧ t.regs = s.regs) ∧
    (thUp s = true → ∀ (d : Fin 8) (level : Bool),
      let opened := level != bit (fget s Fd.thDoorClosed) d
      let was := bit (fget s Fd.thDoorOpen) d
      (was = opened → exec (.doorChange d level) s = answers s) ∧
      (was = false → opened = true → d.val = n.val → does (.doorChange d level) fun t =>
        bit (fget t Fd.thDoorOpen) d = true ∧ fbit t Fd.thNoteDoor = true ∧ asserts t) ∧
      (was = true → opened = false → does (.doorChange d level) fun t =>
        bit (fget t Fd.thDoorOpen) d = false ∧ fbit t Fd.thNoteDoor = true ∧ sense t d = false ∧
        (∀ k : Fin 14, k.val ≠ d.val → sense t k = sense s k) ∧ t.th.share = s.th.share ∧
        fget t Fd.thStatAlarm = fget s Fd.thStatAlarm)) ∧
    (thUp s = true → 8 ≤ n.val → (n.val = 9 → fbit s Fd.pwrStatMainOn = true) → sense s n = false →
      does (.sensorAsserted n raw) asserts) ∧
    (thUp s = true → n.val < 8 → bit (fget s Fd.thDoorOpen) n = false → does (.sensorAsserted n raw) asserts) ∧
    (s.th.aonUp = true → 8 ≤ n.val → does (.sensorDeasserted n) fun t => sense t n = false ∧
      (∀ k : Fin 14, k ≠ n → sense t k = sense s k) ∧ t.th = s.th ∧ ∀ o, o ≠ Adr.thSense → rget t o = rget s o) ∧
    (reaches s m Adr.thAlarm = true → bit v.toNat 19 = true →
      let standing := ∃ k : Fin 14, sense s k = true ∧ bits (if k.val < 8 then fget s Fd.thPol0Pol else fget s Fd.thPol1Pol)
        (2 * (k.val % 8) + 1) (2 * (k.val % 8)) ≠ 0
      let admits := m = .sideband ∨ ∃ e, m = .engine e 0
      (admits → ¬ standing → does (.alarmClear m v) fun t => fbit t Fd.thStatAlarm = false ∧ fget t Fd.thAlarmCause = 0 ∧
        t.th.share = s.th.share ∧ t.mem = s.mem ∧ t.faultOwn = s.faultOwn) ∧
      (¬ admits ∨ standing → does (.alarmClear m v) fun t => fget t Fd.thStatAlarm = fget s Fd.thStatAlarm ∧
        fget t Fd.thAlarmCause = fget s Fd.thAlarmCause ∧ bit (faultOwn t bayChip) 5 = true ∧
        fget t Fd.sbAuthRefusedCount = min (fget s Fd.sbAuthRefusedCount + 1) (2 ^ 20 - 1))) ∧
    (s.th.aonUp = true → does (.monitorRefresh tj vcore vsram vaon vbat) fun t =>
      let on := fbit s Fd.pwrStatMainOn
      fget t Fd.monTjT = tj.toNat ∧ fget t Fd.monTjMaxT = max (fget s Fd.monTjMaxT) tj.toNat ∧
      fget t Fd.monVcoreMv = (if on then vcore.toNat else 0) ∧ fget t Fd.monVsramMv = (if on then vsram.toNat else 0) ∧
      fget t Fd.monVaonMv = vaon.toNat ∧ fget t Fd.monVbatMv = vbat.toNat ∧ t.th = s.th ∧ t.mem = s.mem)

/-! ### The span (R419-R445) -/

/-- From R419-R430, R442: ports and links. A hello of the chip's own number, or with another join digest, closes the
port and shows why; another trains it. A port without sync frames for three intervals goes down. The sync interval sends
a sync frame on every trained link, with a probe each sixteenth; a frame in order is taken and its claims are kept, one
out of order, or with a CRC error, asks for a resend; a probe is echoed, and an echo gives half its round trip as the
link's delay. -/
def Obligations.SpanLinks : Prop :=
  ∀ (s : State) (p : Fin 4) (f : SyncFrame) (probe : BitVec 40) (turn : BitVec 24), spanOn s = true →
    p.val < s.variant.spanPorts →
    let st := fun (t : State) => fget t (Fd.sppStatState p)
    let u := spanPort s p
    let does := fun (c : Instr) (q : State → Prop) => ∃ t, exec c s = answers t ∧ q t
    let sends := fun (t : State) (kind arg value : Nat) => ({ kind := kind, arg := arg, value := value } : SpanOut) ∈ t.span.sent
    (st s = 1 → f.hello = true →
      (f.sender.val = s.spanId.toNat → does (.spanLinkTrained p f) fun t => st t = 0 ∧ fbit t (Fd.sppStatDupId p) = true ∧
        t.mem = s.mem ∧ t.tls = s.tls) ∧
      (f.sender.val ≠ s.spanId.toNat → f.digest ≠ joinDigest s → does (.spanLinkTrained p f) fun t => st t = 0 ∧
        fbit t (Fd.sppStatMismatch p) = true ∧ fbit t Fd.spStatRefused = true ∧ bit (faultOwn t bayChip) 7 = true ∧
        t.mem = s.mem ∧ t.tls = s.tls) ∧
      (f.sender.val ≠ s.spanId.toNat → f.digest = joinDigest s → does (.spanLinkTrained p f) fun t => 2 ≤ st t ∧
        fbit t (Fd.sppPeerValid p) = true ∧ fget t (Fd.sppPeerPeer p) = f.sender.val ∧
        (spanPort t p).rxSeq = f.seq.toNat ∧ sends t 4 p (tlPos s 0))) ∧
    (2 ≤ st s → 3 * syncNs s ≤ s.clock - u.syncAt → does (.spanLinkLoss p) fun t => st t = 1 ∧
      fbit t Fd.spStatLinkDown = true ∧ spanPort t p = { SpanPort.reset with refused := u.refused }) ∧
    does .syncInterval (fun t => ∃ l, t.span.sent = l ++ [{ kind := 0, arg := fget t Fd.spMembersMask, value := 0 }]) ∧
    (2 ≤ st s → 16 ≤ u.probes → does .probeSend fun t => (spanPort t p).probes = 0 ∧ sends t 4 p (tlPos s 0) ∧
      t.regs = s.regs) ∧
    (2 ≤ st s → f.seq.toNat = (u.rxSeq + 1) % 256 → does (.syncFrame p f) fun t => (spanPort t p).rxSeq = f.seq.toNat ∧
      (spanPort t p).root = f.root.val ∧ (spanPort t p).hops = f.hops.toNat ∧ (spanPort t p).syncAt = s.clock ∧
      fget t (Fd.sppPeerPeer p) = f.sender.val) ∧
    (2 ≤ st s → f.seq.toNat ≠ (u.rxSeq + 1) % 256 → does (.syncFrame p f) fun t => sends t 0 p 1 ∧
      (spanPort t p).rxSeq = u.rxSeq ∧ t.regs = s.regs ∧ t.tls = s.tls) ∧
    (2 ≤ st s → does (.frameCrcError p) fun t => sends t 0 p 1 ∧ fbit t (Fd.sppStatCrcErr p) = true ∧
      (spanPort t p).rxSeq = u.rxSeq ∧ t.tls = s.tls ∧ t.mem = s.mem) ∧
    (2 ≤ st s → does (.timelineProbe p probe turn) fun t => sends t 5 p probe.toNat ∧
      (spanPort t p).rxSeq = (u.rxSeq + 1) % 256 ∧ t.regs = s.regs) ∧
    (2 ≤ st s →
      let d := ahead (2 ^ 40) ((probe.toNat + turn.toNat) % 2 ^ 40) (tlPos s 0) / 2
      does (.echo p probe turn) fun t => (d < 4096 → fget t (Fd.sppDelayNs p) = d) ∧
        (spanPort t p).rxSeq = (u.rxSeq + 1) % 256 ∧ ∀ o, o ≠ Adr.sppDelay p → rget t o = rget s o)

/-- From R17, R18, R434-R436: span events and doorbells from a member's tree link. An event frame goes on to the other
tree links; each of its masks is held for its apply time, or carried at once, late, when span time has passed it; the
held mask that is furthest behind applies first. A doorbell at level 6, or of the chip's own span bay, rings every
engine of the chip. -/
def Obligations.SpanEvents : Prop :=
  ∀ (s : State) (p : Fin 4) (origin : Fin 16) (time : BitVec 40) (masks : List (BitVec 64)) (ti : BitVec 3) (level6 : Bool)
    (bay : BitVec 2), mainUp s = true → p.val < s.variant.spanPorts →
    let hears := spanOn s = true ∧ joined s = true ∧ fget s (Fd.sppStatState p) = 2 ∧
      bit (fget s Fd.spMembersMask) origin = true
    let others := spanTree s |>.filter fun n => decide (n ≠ p.val)
    let flagged := fun (t : State) (m : Nat) => ∀ i : Fin 64, bit m i = true →
      fbit t (Fd.cFlagFlag (192 + i.val)) = true
    (hears → 1 ≤ masks.length → masks.length ≤ 8 → s.span.held.length + 8 ≤ 512 →
      ∃ t, exec (.eventFrame p origin time masks) s = answers t ∧
        (spanPort t p).rxSeq = ((spanPort s p).rxSeq + 1) % 256 ∧
        (∀ n ∈ others, (spanPort t n).txSeq = ((spanPort s n).txSeq + 1) % 256) ∧
        ∀ k < masks.length,
          let at' := (time.toNat + k) % 2 ^ 40
          let m := (masks.getD k 0).toNat
          (m ≠ 0 → spanBehind s at' = true → flagged t m ∧ fbit t Fd.spStatLate = true) ∧
          (m ≠ 0 → spanBehind s at' = false → ∃ x, Sparse.find at' t.span.held = some x ∧
            ∀ i < 64, bit m i = true → bit x i = true)) ∧
    (heldDue s = none → exec .spanEventApply s = answers s) ∧
    (∀ r, heldDue s = some r → r ∈ s.span.held ∧ spanReached s r.1 = true ∧
      (∀ x ∈ s.span.held, spanReached s x.1 = true → ahead (2 ^ 40) x.1 (spanTime s) ≤ ahead (2 ^ 40) r.1 (spanTime s)) ∧
      ∃ t, exec .spanEventApply s = answers t ∧ Sparse.find r.1 t.span.held = none ∧ flagged t r.2) ∧
    (hears → ∃ t, exec (.doorbellFrame p origin ti level6 bay) s = answers t ∧
      (∀ n ∈ others, (spanPort t n).txSeq = ((spanPort s n).txSeq + 1) % 256) ∧
      ∀ e : Fin 128, engPresent s e = true → inQuadReset s (e.val / 4) = false →
        let c := fget s (Fd.tiTiCount e ti.toNat)
        fget t (Fd.tiTiCount e ti.toNat) = if level6 = true ∨ bay.toNat = s.spanId.toNat / 4 then min 15 (c + 1) else c)

/-- From R437-R439: votes of a joined chip. The root takes a REQ into PREPARE with its own ACK, refuses one while a vote
of the group runs, commits when every admitted member has sent ACK, with D added to span time and the highest number
plus one, and abandons at a NAK or the timeout. A member answers PREPARE with ACK or NAK, arms at the time of COMMIT, or
late, and is torn by ABORT or by its own wait; the root's NAK of its own REQ sets arm_lost. R425: a vote frame goes on
to the other tree links. -/
def Obligations.SpanVotes : Prop :=
  ∀ (s : State) (p : Fin 4) (who g : Fin 16) (num next : Word) (at' : BitVec 40), spanOn s = true → joined s = true →
    p.val < s.variant.spanPorts →
    let me := s.spanId.toNat
    let mask := fget s Fd.spMembersMask
    let root := spanIsRoot s
    let tree := fget s (Fd.sppStatState p) = 2
    let fromRoot := tree ∧ bit mask (fget s Fd.spRootRoot) = true
    let others := spanTree s |>.filter fun n => decide (n ≠ p.val)
    let does := fun (c : Instr) (q : State → Prop) => ∃ t, exec c s = answers t ∧ q t
    let sends := fun (t : State) (op n : Nat) =>
      ({ kind := 2, arg := op, value := g.val + 16 * n } : SpanOut) ∈ t.span.sent
    let vote := fun (t : State) => Sparse.find g.val t.span.rootVotes
    let own := fget s (Fd.rgNextNo g)
    let ready := fbit s (Fd.rgCtrlEn g) = true ∧ fbit s (Fd.rgCtrlSpan g) = true ∧ fget s (Fd.rgStatPend g) = 0
    let torn := fun (t : State) => voteOf t g = SpanVote.reset ∧ fbit t (Fd.rgStatSpanTorn g) = true
    let abandoned := fun (t : State) => torn t ∧ sends t 5 0 ∧ vote t = none
    (root = true → tree → bit mask who = true →
      (vote s = none → ready → bit mask me = true → (∃ k < 16, k ≠ me ∧ bit mask k = true) → does (.voteReq p who g) fun t =>
        sends t 1 0 ∧ vote t = some { origin := who, acks := [me], next := own, startedAt := s.clock }) ∧
      (vote s = none → ¬ ready → does (.voteReq p who g) abandoned) ∧
      (vote s ≠ none → who.val ≠ me → does (.voteReq p who g) fun t => sends t 3 0 ∧ vote t = vote s) ∧
      (vote s ≠ none → who.val = me → does (.voteReq p who g) fun t => fbit t (Fd.rgStatArmLost g) = true ∧
        vote t = vote s) ∧
      (∀ v, vote s = some v →
        let w : RootVote := { v with acks := NSet.ins who v.acks, next := max v.next next.toNat }
        ((∀ k < 16, bit mask k = true → NSet.has k w.acks = true) → does (.voteAck p who g next) fun t =>
          vote t = none ∧ sends t 4 ((w.next + 1) % 2 ^ 20) ∧ (voteOf t g).ackedAt = none ∧
          (voteOf t g).arm = some (((tlOf s 32).pos + fget s Fd.spDNs) % 2 ^ 40, (w.next + 1) % 2 ^ 20)) ∧
        (¬ (∀ k < 16, bit mask k = true → NSet.has k w.acks = true) → does (.voteAck p who g next) fun t =>
          vote t = some w ∧ t.regs = s.regs))) ∧
    (root = true → tree → bit mask who = true → vote s ≠ none → does (.voteNak p who g) abandoned) ∧
    (root = false → tree → bit mask who = true →
      (does (.voteReq p who g) fun t => (∀ n ∈ others, (spanPort t n).txSeq = ((spanPort s n).txSeq + 1) % 256) ∧
        (spanPort t p).rxSeq = ((spanPort s p).rxSeq + 1) % 256 ∧ sends t 0 0 ∧ t.regs = s.regs) ∧
      (who.val = fget s Fd.spRootRoot → NSet.has g.val s.span.asked = true → does (.voteNak p who g) fun t =>
        fbit t (Fd.rgStatArmLost g) = true ∧ NSet.has g.val t.span.asked = false) ∧
      (¬ (who.val = fget s Fd.spRootRoot ∧ NSet.has g.val s.span.asked = true) →
        does (.voteNak p who g) fun t => t.regs = s.regs ∧ t.span.asked = s.span.asked)) ∧
    (∀ v, vote s = some v → 1000 * fget s Fd.spVoteToUs ≤ s.clock - v.startedAt → does (.voteTimeout g) abandoned) ∧
    (root = false → fromRoot →
      (ready → does (.votePrepare p g) fun t => sends t 2 own ∧ voteOf t g = { ackedAt := some s.clock, arm := none } ∧
        t.regs = s.regs) ∧
      (¬ ready → does (.votePrepare p g) fun t => sends t 3 0 ∧ voteOf t g = voteOf s g ∧ t.regs = s.regs) ∧
      (does (.voteAbort p g) torn) ∧
      ((voteOf s g).ackedAt ≠ none →
        (spanBehind s at'.toNat = false → does (.voteCommit p g num at') fun t =>
          voteOf t g = { ackedAt := none, arm := some (at'.toNat, num.toNat) } ∧ t.regs = s.regs) ∧
        (spanBehind s at'.toNat = true → does (.voteCommit p g num at') fun t => voteOf t g = SpanVote.reset ∧
          fbit t Fd.spStatLate = true ∧
          (fbit s (Fd.rgCtrlEn g) = true → fget s (Fd.rgStatPend g) = 0 → fget t (Fd.rgNextNo g) = num.toNat)))) ∧
    (∀ a n, (voteOf s g).arm = some (a, n) → spanReached s a = true → n < 2 ^ 20 → does (.spanArm g) fun t =>
      voteOf t g = SpanVote.reset ∧ (fbit s (Fd.rgCtrlEn g) = true → fget s (Fd.rgStatPend g) = 0 →
        fget t (Fd.rgNextNo g) = n ∧ ∀ j < 8, bit (fget t (Fd.rgStatPend g)) j = fbit s (Fd.rgMemEn g j))) ∧
    (∀ c, (voteOf s g).ackedAt = some c → 2000 * fget s Fd.spVoteToUs ≤ s.clock - c → does (.voteAbandon g) torn)

/-- From R308, R440, R441: remote memory between admitted members. A write frame inside MEM_TOP stores its bytes and is
acknowledged, a read request is answered with data, and one past MEM_TOP with an error frame and FAULT_OWN bit 5 of the
chip bay (R308). A go starts a copy or is refused; read data lands at its place, an acknowledgement frees its frame, an
error ends the transfer, as an abort does, and when nothing is left the copy is complete. R425: a frame for another
member goes on towards it, and changes no memory here. -/
def Obligations.RemoteMemory : Prop :=
  ∀ (s : State) (m : Master) (p : Fin 4) (origin dest : Fin 16) (tag : BitVec 4) (a : Addr) (data : List Byte) (len : Byte)
    (v : Dword) (hit : RegHit), spanOn s = true → joined s = true → (∀ b, m ≠ .barge b) →
    let does := fun (c : Instr) (q : State → Prop) => ∃ t, exec c s = answers t ∧ q t
    let sends := fun (t : State) (op : Nat) =>
      ({ kind := 3, arg := op + 16 * origin.val + 256 * tag.toNat, value := a.toNat } : SpanOut) ∈ t.span.sent
    let clean := fun (t : State) (x n : Nat) => ∀ g, x / 8 ≤ g → 8 * g < x + n →
      NSet.has g t.mem.poison = false ∧ NSet.has g t.mem.bad = false
    let mask := fget s Fd.spMembersMask
    let n := 8 * (len.toNat + 1)
    let busy := fbit s Fd.rcStatBusy
    let w := plainWrite s Adr.rcCtrl hit v.toNat
    let out := fun (x : Nat) => busy = true ∧ origin.val = fget s Fd.rcCtrlChip ∧
      s.span.rcOut.find? (fun y => decide (y % 16 = tag.toNat)) = some x
    let hears := p.val < s.variant.spanPorts ∧ fget s (Fd.sppStatState p) = 2 ∧ bit mask origin = true
    (hears → dest.val = s.spanId.toNat →
      (s.mem.top < a.toNat + data.length → does (.memoryWriteFrame p origin dest tag a data) fun t => sends t 4 ∧
        bit (faultOwn t bayChip) 5 = true ∧ t.mem = s.mem) ∧
      (a.toNat + data.length ≤ s.mem.top → clean s a.toNat data.length →
        does (.memoryWriteFrame p origin dest tag a data) fun t => sends t 3 ∧ memBytes t a.toNat data.length = data ∧
          ∀ x, x < a.toNat ∨ a.toNat + data.length ≤ x → memByte t x = memByte s x) ∧
      (s.mem.top < a.toNat + n → does (.readRequestFrame p origin dest tag a len) fun t => sends t 4 ∧
        bit (faultOwn t bayChip) 5 = true ∧ t.mem = s.mem) ∧
      (a.toNat + n ≤ s.mem.top → clean s a.toNat n → does (.readRequestFrame p origin dest tag a len) fun t => sends t 2) ∧
      (∀ x, out x →
        (fbit s Fd.rcCtrlDir = true →
          let d := data.take (min 256 (rcLen s - x / 16))
          let dst := rcLocal s + x / 16
          clean s dst d.length → does (.readDataFrame p origin dest tag a data) fun t => memBytes t dst d.length = d ∧
            ∀ y, y < dst ∨ dst + d.length ≤ y → memByte t y = memByte s y) ∧
        (fbit s Fd.rcCtrlDir = false → s.span.rcLeft = 0 → does (.writeAckFrame p origin dest tag a) fun t =>
          t.span.rcOut = s.span.rcOut.filter (fun y => decide (y ≠ x)) ∧ t.regs = s.regs) ∧
        does (.errorFrame p origin dest tag a) fun t => fbit t Fd.rcStatBusy = false ∧ fbit t Fd.rcStatErr = true ∧
          t.span.rcOut = [] ∧ bit (faultOwn t bayChip) 5 = true ∧ t.mem = s.mem)) ∧
    (hears → dest.val ≠ s.spanId.toNat → bit mask dest = true →
      let on := fun (t : State) (op : Nat) => t.mem = s.mem ∧
        ({ kind := 3, arg := op + 16 * dest.val + 256 * tag.toNat, value := a.toNat } : SpanOut) ∈ t.span.sent
      (does (.memoryWriteFrame p origin dest tag a data) fun t => on t 0) ∧
      (does (.readRequestFrame p origin dest tag a len) fun t => on t 1) ∧
      (does (.readDataFrame p origin dest tag a data) fun t => on t 2) ∧
      (does (.writeAckFrame p origin dest tag a) fun t => on t 3) ∧
      does (.errorFrame p origin dest tag a) fun t => on t 4) ∧
    (reaches s m Adr.rcCtrl = true → RegMap.lookup Adr.rcCtrl = some hit →
      (bit v.toNat 19 = true → bit v.toNat 18 = false →
        let chip := fget w Fd.rcCtrlChip
        let fit := bit mask chip = true ∧ chip ≠ s.spanId.toNat ∧ rcLocal s + rcLen s ≤ s.mem.top ∧ rcLen s ≤ 2 ^ 24
        (busy = false → ¬ fit → exec (.remoteCopy m v) s = answers (fon w Fd.rcStatRefused)) ∧
        (busy = false → fit → fbit w Fd.rcCtrlDir = true ∨ clean s (rcLocal s) (rcLen s) →
          does (.remoteCopy m v) fun t => fbit t Fd.rcStatBusy = true ∧ t.engs = s.engs) ∧
        (busy = true → does (.remoteCopy m v) fun t => fbit t Fd.rcStatBusy = true ∧
          fget t Fd.stopIgnCount = min (fget s Fd.stopIgnCount + 1) (2 ^ 20 - 1) ∧ bit (faultOwn t bayChip) 5 = true ∧
          t.mem = s.mem)) ∧
      (bit v.toNat 18 = true → bit v.toNat 19 = false → busy = true → does (.remoteCopyAbort m v) fun t =>
        fbit t Fd.rcStatBusy = false ∧ fbit t Fd.rcStatAborted = true ∧ t.span.rcOut = [] ∧ t.mem = s.mem)) ∧
    (busy = true → s.span.rcLeft = 0 → s.span.rcOut = [] → does .remoteCopyComplete fun t =>
      fbit t Fd.rcStatBusy = false ∧
      (fbit s Fd.rcEvtDoneEn = true → NSet.has (fget s Fd.rcEvtDoneChan) t.ferryDue = true)) ∧
    (¬ (busy = true ∧ s.span.rcLeft = 0 ∧ s.span.rcOut = []) → exec .remoteCopyComplete s = answers s)

/-! ### Power and reset (R384, R392, R397, R417, R446-R457) -/

/-- From R384, R392, R397, R446-R448, R452: power-up and resets. A main reset empties the main domain: its registers
that do not say "keep" hold their reset values, DRAM and engine RAM are gone, and RST_CAUSE names its source. Main power
follows the side-band's POWER, the power-good input and its timeout; the release samples SPAN_ID; an always-on reset
reads its pins and turns main on where a firmware copy is accepted; PERST# takes the link down; losing VBAT and standby
loses the share. -/
def Obligations.PowerAndReset : Prop :=
  ∀ (s : State) (q : BitVec 7) (spanId : BitVec 4) (bootSel sbAddr : BitVec 2),
    let does := fun (c : Instr) (p : State → Prop) => ∃ t, exec c s = answers t ∧ p t
    let on := fbit s Fd.pwrStatMainOn
    let pg := fbit s Fd.pwrStatMainPg
    let told := fun (t : State) => ∃ x < 256, t.resp = some { code := 0, data := [q.toNat, x, life s] }
    let isReset := fun (t : State) => fbit t Fd.pwrStatMainRst = true ∧ fbit t Fd.pwrStatIdle = false ∧
      t.mem = State.reset.mem ∧ t.ram = [] ∧ t.engs = [] ∧ t.tls = [] ∧ t.lands = [] ∧ t.heads = [] ∧ t.faultOwn = [] ∧
      t.th.running = none ∧ t.th.debugOpen = 0 ∧ t.th.bootDue = true ∧
      ∀ off h, RegMap.lookup off = some h → h.blk.id ∉ [Blk.sb, .mon, .pwr, .th, .mb] →
        (∀ f ∈ h.reg.flds, f.keep = false) → rget t off = RegMap.resetVal off
    let cause := fun (t : State) (v : Nat) => (rget t Adr.pwrRstCause).toNat = v
    let keys := fun (t : State) => t.th.share = s.th.share ∧ t.th.priv = s.th.priv ∧ t.th.log = s.th.log
    (s.th.aonUp = true →
      does (.powerStatus q) (fun t => told t ∧ t.regs = s.regs ∧ t.mem = s.mem) ∧
      does (.mainOn q) (fun t => told t ∧ fbit t Fd.pwrStatMainOn = true ∧ fbit t Fd.thStatMainOn = true ∧ t.mem = s.mem ∧
        t.engs = s.engs) ∧
      (on = true → does (.mainOff q) fun t => told t ∧ fbit t Fd.pwrStatMainOn = false ∧
        fbit t Fd.thStatMainOn = false ∧ isReset t ∧ keys t) ∧
      (on = false → does (.mainOff q) fun t => told t ∧ t.regs = s.regs ∧ t.mem = s.mem) ∧
      (on = true → does (.mainReset q) fun t => told t ∧ cause t 2 ∧ isReset t ∧ keys t) ∧
      (on = false → exec (.mainReset q) s = answers (setResp s 4 [q.toNat]))) ∧
    (on = true → pg = false → does .mainPowerUp fun t => cause t 4 ∧ isReset t ∧ keys t) ∧
    (on = true → pg = true → fbit s Fd.pwrStatMainRst = true → does (.mainResetRelease spanId) fun t =>
      fbit t Fd.pwrStatMainRst = false ∧ t.spanId = spanId ∧ t.mem = s.mem ∧ t.engs = s.engs ∧ t.th = s.th ∧
      (fbit s Fd.thStatAlarm = true → fbit t Fd.audStatAlarmMute = true)) ∧
    (on = true → pg = false → does .pgTimeout fun t => fbit t Fd.pwrStatMainOn = false ∧ fbit t Fd.thStatMainOn = false ∧
      fbit t Fd.pwrStatPgTimeout = true ∧ t.mem = s.mem) ∧
    (pg = true → does .pgLoss fun t => fbit t Fd.pwrStatPgLost = true ∧ cause t 1 ∧ isReset t ∧ keys t) ∧
    (fbit s Fd.pwrStatPerst = false → mainUp s = true → does .perst fun t => fbit t Fd.pwrStatPerst = true ∧
      fbit t Fd.hlStatLinkUp = false ∧ fbit t Fd.hlStatDown = true ∧ t.ic.outstanding = [] ∧ t.mem = s.mem ∧
      t.engs = s.engs ∧ ∀ o, o ≠ Adr.hlStat → o ≠ Adr.pwrStat → rget t o = rget s o) ∧
    (fbit s Fd.pwrStatPerst = true → does .perstRelease fun t => fbit t Fd.pwrStatPerst = false ∧ t.mem = s.mem ∧
      t.engs = s.engs ∧ ∀ o, o ≠ Adr.pwrStat → rget t o = rget s o) ∧
    (let good := (imgRefused s (norImage 0) 0 (norRoom 0 0x100000)).isNone ||
        (imgRefused s (norImage 0x100000) 0 (norRoom 0x100000 0x100000)).isNone
     (does (.alwaysOnPowerOn false bootSel sbAddr) fun t => t.th.aonUp = false ∧ t.th.fw = false ∧ t.th.priv = none ∧
      t.th.share = s.th.share ∧ isReset t ∧ cause t 8) ∧
     does (.alwaysOnPowerOn true bootSel sbAddr) fun t => t.th.aonUp = true ∧ t.th.fw = good ∧ cause t 8 ∧
      fget t Fd.thStatBootSel = bootSel.toNat ∧ fget t Fd.sbStatAddr = 0x64 + sbAddr.toNat ∧
      fbit t Fd.pwrStatMainOn = good ∧ t.th.share = s.th.share ∧ t.mem = State.reset.mem) ∧
    (s.th.aonUp = true → exec .vbatLoss s = answers s) ∧
    (s.th.aonUp = false → does .vbatLoss fun t => t.th.share = none ∧ t.th.log = [] ∧ t.th.fifo = [] ∧ t.th.rtcSec = 0 ∧
      fget t Fd.thLogSeqSeq = 0 ∧ fget t Fd.thPol0Pol = 0 ∧ fget t Fd.thPol1Pol = 0 ∧ t.th.ownerKeys = s.th.ownerKeys ∧
      t.th.seed = s.th.seed ∧ t.mem = s.mem)

/-- From R32, R384, R448-R451, R456, R457: quad resets and the release of engines, and the idle program's hand-over. A
quad reset, by QRST or by the side-band, resets its four engines, raises FAULT_OWN bit 0 of its bay, and shows in QSTAT
until 64 cycles later; at its release, and by ENG_GO, each held engine whose ENG_START.run is 1 starts at its start PC,
at Secure level where it has the grant and at System level else. From R455: while the idle program runs, a refresh
rewrites the banner: 480 rows of 640 RGB565 pixels, 1,280 bytes each, from MEM_TOP - 0x10_0000; nothing else of memory
changes, and without the idle program nothing does. From R454, R455: what the idle program writes to a managed head once
its link is trained ends with the run bit; its mode is the sink's first timing where R223 and R237 allow it, else 1920
by 1080, else 640 by 480; VID0 gets the banner's settings, and none with MEM_TOP 0. -/
def Obligations.QuadsAndIdleProgram : Prop :=
  (∀ (s : State) (m : Master) (v : Dword) (q : Fin 32) (seq : BitVec 7), mainUp s = true →
    let inReset := fun (t : State) (k : Nat) => bit (fget t Fd.pwrQstatInRst) k
    let down := fun (t : State) (k : Nat) => inReset t k = true ∧ Sparse.get 0 k t.quadRst / 2 = s.clock + 64 ∧
      (∀ e : Fin 128, engOf t e = if e.val / 4 = k then Eng.reset else engOf s e) ∧
      bit (faultOwn t (bayQuad k)) 0 = true ∧ t.mem.cells = s.mem.cells ∧ t.ram = s.ram
    let held := fun (e : Fin 128) => engPresent s e = true ∧ (engOf s e).held = true ∧ fbit s (Fd.pwrEngStartRun e) = true
    let started := fun (t : State) (e : Fin 128) => let u := engOf t e
      u.held = false ∧ u.pc.toNat = fget s (Fd.pwrEngStartPc e) ∧ u.level = (if granted s e then 0 else 1) ∧
      u.ceil = u.level ∧ u.g = (engOf s e).g
    (reaches s m Adr.pwrQrst = true → bit v.toNat 19 = true → quadPresent s (v.toNat % 32) = true →
      Sparse.get 0 (v.toNat % 32) s.quadRst = 0 → ∃ t, exec (.qrst m v) s = answers t ∧ down t (v.toNat % 32)) ∧
    (reaches s m Adr.pwrQrst = true → bit v.toNat 19 = false → exec (.qrst m v) s = answers s) ∧
    (s.th.aonUp = true → quadPresent s q = true → Sparse.get 0 q.val s.quadRst = 0 →
      ∃ t, exec (.powerQuadReset seq (BitVec.ofNat 8 q)) s = answers t ∧ down t q ∧
        ∃ x < 256, t.resp = some { code := 0, data := [seq.toNat, x, life s] }) ∧
    (Sparse.get 0 q.val s.quadRst ≠ 0 → Sparse.get 0 q.val s.quadRst / 2 ≤ s.clock →
      ∃ t, exec (.quadResetRelease q) s = answers t ∧ inReset t q = false ∧ Sparse.get 0 q.val t.quadRst = 0 ∧
        t.mem = s.mem ∧ t.ram = s.ram ∧
        ∀ e : Fin 128, (e.val / 4 = q.val ∧ held e → started t e) ∧
          (¬ (e.val / 4 = q.val ∧ held e) → engOf t e = engOf s e)) ∧
    (reaches s m Adr.pwrEngGo = true → bit v.toNat 0 = true →
      ∃ t, exec (.engGo m v) s = answers t ∧ t.mem = s.mem ∧ t.ram = s.ram ∧
        ∀ e : Fin 128, (held e ∧ inQuadReset s (e.val / 4) = false → started t e) ∧
          (¬ (held e ∧ inQuadReset s (e.val / 4) = false) → engOf t e = engOf s e)) ∧
    (reaches s m Adr.pwrIdleHeads = true → ∃ t, exec (.handOver m v) s = answers t ∧
      (∀ i < 6, bit (fget t Fd.pwrIdleHeadsHeads) i = (bit (fget s Fd.pwrIdleHeadsHeads) i && !bit v.toNat i)) ∧
      (∀ o, o ≠ Adr.pwrIdleHeads → rget t o = rget s o) ∧ t.heads = s.heads ∧ t.mem = s.mem)) ∧
  (∀ s : State, mainUp s = true →
    (fbit s Fd.pwrStatIdle = false → exec .bannerRefresh s = answers s) ∧
    (fbit s Fd.pwrStatIdle = true → s.mem.top % 8 = 0 → 0x100000 ≤ s.mem.top →
      let base := s.mem.top - 0x100000
      ∃ t, exec .bannerRefresh s = answers t ∧
        (∀ x y, x < 640 → y < 480 → memBytes t (base + 1280 * y + 2 * x) 2 = leBytes 2 (bannerPixel s x y)) ∧
        (∀ a, a < base ∨ base + 614400 ≤ a → memByte t a = memByte s a) ∧ t.regs = s.regs ∧ t.engs = s.engs)) ∧
  (∀ (s : State) (h : Fin 4) (n ha va : Nat),
    let suits := modeSuits s h (sinkRate n) (sinkLanes n)
    let k := if s.variant.scaler then max 1 (min 8 (min (ha / 640) (va / 480))) else 1
    (idleManages s h = false → idleProbe s h = s ∧ (idleTrained s h).regs = s.regs) ∧
    (idleMode s h n = if suits (sinkMode h n) then sinkMode h n else if suits (mode1080 h) then mode1080 h else mode480 h) ∧
    (∃ v, (idleWrites s h n).getLast? = some (Adr.headHctrl h, v) ∧ bit v 0 = true) ∧
    (s.mem.top = 0 → bannerWrites s h ha va = []) ∧
    (s.mem.top ≠ 0 → ∀ p ∈ [(Adr.vidCtrl h 0, 0x17), (Adr.vidPitch h 0, 1280), (Adr.vidSrcW h 0, 640),
        (Adr.vidSrcH h 0, 480), (Adr.vidDstW h 0, 640 * k), (Adr.vidDstH h 0, 480 * k), (Adr.vidStepX h 0, 0x10000 / k),
        (Adr.vidStepY h 0, 0x10000 / k)], p ∈ bannerWrites s h ha va))

/-! ### The block as a whole -/

/-- A step runs the command at the front of the queue on the state with the queue's rest, and an empty queue idles (the
model's own choice, log entry 1). Every command answers a next state, whatever the state: no meaning of the model stops.
-/
def Obligations.StepRunsFront : Prop :=
  (∀ (s : State) (c : Instr), step { s with pending := c :: s.pending } = exec c s) ∧
  (∀ s : State, s.pending = [] → step s = .next s) ∧
  ∀ (s : State) (c : Instr), ∃ t, exec c s = .next t

/-- After reset every register of the map but the four that standby and main power have already set holds its reset
value, every engine is held with an empty register file, no memory is listed, no event, fault or frame stands, and the
forms that the invariants below keep hold (the standing of the rails is the model's choice, log entry 17). -/
def Obligations.ResetState : Prop :=
  let s := State.reset
  (∀ off, off ∉ [0x210004, 0x220000, 0x223004, 0x223008] → rget s off = RegMap.resetVal off) ∧
  (∀ e, engOf s e = Eng.reset ∧ (engOf s e).held = true ∧ ∀ r, greg (engOf s e) r = 0) ∧
  (∀ a, memByte s a = 0) ∧ (∀ k, granOf s k = Granule.zero) ∧ (∀ b, faultOwn s b = 0) ∧ (∀ k, (tlOf s k).pos = 0) ∧
  s.mem.top = 0 ∧ s.pending = [] ∧ s.ferryDue = [] ∧ s.span.sent = [] ∧ mainUp s = true ∧ life s = 0 ∧
  (∀ h : Fin 6, fbit s (Fd.headHstatRunning h) = false) ∧ memForm s ∧ otpForm s ∧ legalLevels s

/-- Every step keeps the canonical form of memory and a MEM_TOP that four channels can hold (R310). -/
def Obligations.MemoryFormKept : Prop :=
  ∀ s t : State, memForm s → step s = .next t → memForm t

/-- From R399, R401, R404: no step clears a fuse, lowers the lifecycle state or a rollback counter, takes back a
revocation, or changes an owner key or a seed that is programmed; nothing is programmed before provisioning. -/
def Obligations.OneTimeMemoryKept : Prop :=
  ∀ s t : State, otpForm s → step s = .next t → otpForm t ∧ otpKept s t

/-- From R144, R146, R164: no step brings an engine to the reserved level, by exception, return, DROP, start or debug.
-/
def Obligations.EngineLevelsLegal : Prop :=
  ∀ s t : State, legalLevels s → step s = .next t → legalLevels t
end

