-- ==== Sys2Proof/Laws/Sparse.lean ====
section
/-! SUPPORT. Sparse maps and sets of numbers: what a read finds after a write, and that writes keep the canonical form,
of which the form of memory is one case. -/

namespace Sys2Proof.Machine

section
variable {α : Type} {d : α} {k j : Nat} {v : α} {m : List (Nat × α)}

theorem Sparse.get_del_self : Sparse.get d k (Sparse.del k m) = d := by
  induction m with
  | nil => rfl
  | cons p t ih => by_cases h : p.1 = k <;> simp [Sparse.del, Sparse.get, h, ih]

theorem Sparse.get_del_ne (h : j ≠ k) : Sparse.get d j (Sparse.del k m) = Sparse.get d j m := by
  induction m with
  | nil => rfl
  | cons p t ih =>
    by_cases hk : p.1 = k
    · have : ¬ k = j := fun e => h e.symm
      simp [Sparse.del, Sparse.get, hk, ih, this]
    · simp [Sparse.del, Sparse.get, hk, ih]

theorem Sparse.get_ins_self : Sparse.get d k (Sparse.ins k v m) = v := by
  induction m with
  | nil => simp [Sparse.ins, Sparse.get]
  | cons p t ih =>
    simp only [Sparse.ins]
    split
    next h => simp [Sparse.get, Nat.ne_of_lt h, ih]
    next => split <;> simp [Sparse.get]

theorem Sparse.get_ins_ne (h : j ≠ k) : Sparse.get d j (Sparse.ins k v m) = Sparse.get d j m := by
  have hk : ¬ k = j := fun e => h e.symm
  induction m with
  | nil => simp [Sparse.ins, Sparse.get, hk]
  | cons p t ih =>
    simp only [Sparse.ins]
    split
    next => simp [Sparse.get, ih]
    next =>
      split
      next hp => simp [Sparse.get, hk, hp]
      next => simp [Sparse.get, hk]

variable [DecidableEq α]

@[simp] theorem Sparse.get_put_self : Sparse.get d k (Sparse.put d k v m) = v := by
  unfold Sparse.put
  split
  next h => rw [h]; exact Sparse.get_del_self
  next => exact Sparse.get_ins_self

theorem Sparse.get_put_ne {e : α} (h : j ≠ k) : Sparse.get e j (Sparse.put d k v m) = Sparse.get e j m := by
  unfold Sparse.put
  split
  next => exact Sparse.get_del_ne h
  next => exact Sparse.get_ins_ne h

theorem Sparse.get_put : Sparse.get d j (Sparse.put d k v m) = if j = k then v else Sparse.get d j m := by
  split
  next h => rw [h]; exact Sparse.get_put_self
  next h => exact Sparse.get_put_ne h

end

/-- The canonical form: keys strictly rising, no value equal to the unlisted one. -/
def Sparse.Canon {α : Type} (d : α) : List (Nat × α) → Prop
  | [] => True
  | p :: t => p.2 ≠ d ∧ (∀ q ∈ t, p.1 < q.1) ∧ Sparse.Canon d t

section
variable {α : Type} {d : α} {k : Nat} {v : α} {m : List (Nat × α)}

theorem Sparse.mem_del {q : Nat × α} (h : q ∈ Sparse.del k m) : q ∈ m := by
  induction m with
  | nil => exact h
  | cons p t ih =>
    simp only [Sparse.del] at h
    split at h
    next => exact List.mem_cons_of_mem _ (ih h)
    next =>
      rcases List.mem_cons.mp h with h | h
      · exact h ▸ List.mem_cons_self
      · exact List.mem_cons_of_mem _ (ih h)

theorem Sparse.mem_ins {q : Nat × α} (h : q ∈ Sparse.ins k v m) : q = (k, v) ∨ q ∈ m := by
  induction m with
  | nil => exact .inl (by simpa [Sparse.ins] using h)
  | cons p t ih =>
    simp only [Sparse.ins] at h
    split at h
    next =>
      rcases List.mem_cons.mp h with h | h
      · exact .inr (h ▸ List.mem_cons_self)
      · exact (ih h).imp_right (List.mem_cons_of_mem _)
    next =>
      split at h
      next =>
        rcases List.mem_cons.mp h with h | h
        · exact .inl h
        · exact .inr (List.mem_cons_of_mem _ h)
      next =>
        rcases List.mem_cons.mp h with h | h
        · exact .inl h
        · exact .inr h

theorem Sparse.canon_del (h : Sparse.Canon d m) : Sparse.Canon d (Sparse.del k m) := by
  induction m with
  | nil => trivial
  | cons p t ih =>
    simp only [Sparse.del]
    split
    next => exact ih h.2.2
    next => exact ⟨h.1, fun q hq => h.2.1 q (Sparse.mem_del hq), ih h.2.2⟩

theorem Sparse.canon_ins (hv : v ≠ d) (h : Sparse.Canon d m) : Sparse.Canon d (Sparse.ins k v m) := by
  induction m with
  | nil => exact ⟨hv, (fun q hq => nomatch hq), trivial⟩
  | cons p t ih =>
    simp only [Sparse.ins]
    split
    next hlt =>
      refine ⟨h.1, fun q hq => ?_, ih h.2.2⟩
      rcases Sparse.mem_ins hq with hq | hq
      · rw [hq]; exact hlt
      · exact h.2.1 q hq
    next hlt =>
      split
      next hk => exact ⟨hv, fun q hq => hk ▸ h.2.1 q hq, h.2.2⟩
      next hk =>
        refine ⟨hv, fun q hq => ?_, h⟩
        have hkp : k < p.1 := by omega
        rcases List.mem_cons.mp hq with hq | hq
        · rw [hq]; exact hkp
        · exact Nat.lt_trans hkp (h.2.1 q hq)

theorem Sparse.canon_put [DecidableEq α] (h : Sparse.Canon d m) : Sparse.Canon d (Sparse.put d k v m) := by
  unfold Sparse.put
  split
  next => exact Sparse.canon_del h
  next hv => exact Sparse.canon_ins hv h

/-- Two canonical maps that read the same are the same data. -/
theorem Sparse.canon_ext {m n : List (Nat × α)} (hm : Sparse.Canon d m) (hn : Sparse.Canon d n)
    (h : ∀ k, Sparse.get d k m = Sparse.get d k n) : m = n := by
  have low : ∀ {k : Nat} {l : List (Nat × α)}, (∀ q ∈ l, k < q.1) → Sparse.get d k l = d := by
    intro k l
    induction l with
    | nil => intro; rfl
    | cons q u ih =>
      intro hq
      have := hq q List.mem_cons_self
      rw [Sparse.get, if_neg (by omega)]
      exact ih fun x hx => hq x (List.mem_cons_of_mem _ hx)
  induction m generalizing n with
  | nil =>
    cases n with
    | nil => rfl
    | cons q u =>
      have := h q.1
      simp [Sparse.get] at this
      exact absurd this.symm hn.1
  | cons p t ih =>
    cases n with
    | nil =>
      have := h p.1
      simp [Sparse.get] at this
      exact absurd this hm.1
    | cons q u =>
      have hp := h p.1
      have hq := h q.1
      simp only [Sparse.get, ↓reduceIte] at hp hq
      have e : p.1 = q.1 := by
        rcases Nat.lt_trichotomy p.1 q.1 with hlt | he | hlt
        · rw [if_neg (by omega), low (fun x hx => Nat.lt_trans hlt (hn.2.1 x hx))] at hp
          exact absurd hp hm.1
        · exact he
        · rw [if_neg (by omega), low (fun x hx => Nat.lt_trans hlt (hm.2.1 x hx))] at hq
          exact absurd hq.symm hn.1
      rw [if_pos e.symm] at hp
      have hpq : p = q := Prod.ext e hp
      subst hpq
      rw [ih hm.2.2 hn.2.2 fun k => ?_]
      by_cases hk : p.1 = k
      · subst hk
        rw [low hm.2.1, low hn.2.1]
      · have := h k
        simpa [Sparse.get, hk] using this

end

/-! ### Memory -/

theorem Memory.wf_iff {m : List Host.Cell} : Memory.wf m = true ↔ Sparse.Canon Memory.unlisted m := by
  induction m with
  | nil => simp [Memory.wf, Sparse.Canon]
  | cons c t ih =>
    cases t with
    | nil => simp [Memory.wf, Sparse.Canon]
    | cons e u =>
      simp only [Memory.wf, Bool.and_eq_true, decide_eq_true_eq, ih]
      constructor
      · rintro ⟨⟨h1, h2⟩, h3⟩
        refine ⟨h2, fun q hq => ?_, h3⟩
        rcases List.mem_cons.mp hq with hq | hq
        · rw [hq]; exact h1
        · exact Nat.lt_trans h1 (h3.2.1 q hq)
      · rintro ⟨h1, h2, h3⟩
        exact ⟨⟨h2 e List.mem_cons_self, h1⟩, h3⟩

theorem setMemByte_wf {s : State} {a : Nat} {b : Byte} (h : Memory.wf s.mem.cells = true) :
    Memory.wf (setMemByte s a b).mem.cells = true := by
  rw [Memory.wf_iff] at *
  exact Sparse.canon_put h

theorem setMemBytes_wf {l : List Byte} : ∀ {s : State} {a : Nat}, Memory.wf s.mem.cells = true →
    Memory.wf (setMemBytes s a l).mem.cells = true := by
  induction l with
  | nil => intro s a h; exact h
  | cons b t ih => intro s a h; exact ih (setMemByte_wf h)

@[simp] theorem memByte_setMemByte_self {s : State} {a : Nat} {b : Byte} : memByte (setMemByte s a b) a = b := by
  simp [memByte, setMemByte]

theorem memByte_setMemByte_ne {s : State} {a c : Nat} {b : Byte} (h : c ≠ a) :
    memByte (setMemByte s a b) c = memByte s c := Sparse.get_put_ne h

/-- A write of bytes leaves every byte outside them. -/
theorem memByte_setMemBytes_out {l : List Byte} : ∀ {s : State} {a c : Nat}, c < a ∨ a + l.length ≤ c →
    memByte (setMemBytes s a l) c = memByte s c := by
  induction l with
  | nil => intros; rfl
  | cons b t ih =>
    intro s a c h
    simp only [List.length_cons] at h
    rw [setMemBytes, ih (by omega), memByte_setMemByte_ne (by omega)]

/-- A write of bytes is read back. -/
theorem memByte_setMemBytes_in {l : List Byte} : ∀ {s : State} {a i : Nat} (h : i < l.length),
    memByte (setMemBytes s a l) (a + i) = l[i] := by
  induction l with
  | nil => intro s a i h; simp at h
  | cons b t ih =>
    intro s a i h
    cases i with
    | zero => rw [setMemBytes, memByte_setMemBytes_out (by omega)]; simp
    | succ i =>
      rw [setMemBytes, show a + (i + 1) = a + 1 + i by omega, ih (by simpa using h)]
      rfl

end Sys2Proof.Machine
end

