-- ==== Sys2Proof/Laws/State.lean ====
section
/-! SUPPORT. What each named update leaves: one lemma per field that it does not touch. -/

namespace Sys2Proof.Machine

section
variable {s : State} {off : Nat} {v : Dword}
@[simp] theorem rput_pending : (rput s off v).pending = s.pending := rfl
@[simp] theorem rput_freeCtr : (rput s off v).freeCtr = s.freeCtr := rfl
@[simp] theorem rput_clock : (rput s off v).clock = s.clock := rfl
@[simp] theorem rput_resp : (rput s off v).resp = s.resp := rfl
@[simp] theorem rput_variant : (rput s off v).variant = s.variant := rfl
@[simp] theorem rput_waiting : (rput s off v).waiting = s.waiting := rfl
@[simp] theorem rput_ferryDue : (rput s off v).ferryDue = s.ferryDue := rfl
@[simp] theorem rput_landDue : (rput s off v).landDue = s.landDue := rfl
@[simp] theorem rput_tls : (rput s off v).tls = s.tls := rfl
@[simp] theorem rput_latches : (rput s off v).latches = s.latches := rfl
@[simp] theorem rput_lands : (rput s off v).lands = s.lands := rfl
@[simp] theorem rput_eqs : (rput s off v).eqs = s.eqs := rfl
@[simp] theorem rput_faultOwn : (rput s off v).faultOwn = s.faultOwn := rfl
@[simp] theorem rput_faultFirst : (rput s off v).faultFirst = s.faultFirst := rfl
@[simp] theorem rput_engs : (rput s off v).engs = s.engs := rfl
@[simp] theorem rput_ram : (rput s off v).ram = s.ram := rfl
@[simp] theorem rput_ramWb : (rput s off v).ramWb = s.ramWb := rfl
@[simp] theorem rput_quadRst : (rput s off v).quadRst = s.quadRst := rfl
@[simp] theorem rput_spanId : (rput s off v).spanId = s.spanId := rfl
@[simp] theorem rput_ic : (rput s off v).ic = s.ic := rfl
@[simp] theorem rput_rg : (rput s off v).rg = s.rg := rfl
@[simp] theorem rput_mem : (rput s off v).mem = s.mem := rfl
@[simp] theorem rput_bargeLoaded : (rput s off v).bargeLoaded = s.bargeLoaded := rfl
@[simp] theorem rput_bargeAborts : (rput s off v).bargeAborts = s.bargeAborts := rfl
@[simp] theorem rput_posts : (rput s off v).posts = s.posts := rfl
@[simp] theorem rput_sers : (rput s off v).sers = s.sers := rfl
@[simp] theorem rput_beamTotals : (rput s off v).beamTotals = s.beamTotals := rfl
@[simp] theorem rput_span : (rput s off v).span = s.span := rfl
@[simp] theorem rput_keyDue : (rput s off v).keyDue = s.keyDue := rfl
@[simp] theorem rput_tallies : (rput s off v).tallies = s.tallies := rfl
@[simp] theorem rput_readLatch : (rput s off v).readLatch = s.readLatch := rfl
@[simp] theorem rput_host : (rput s off v).host = s.host := rfl
@[simp] theorem rput_heads : (rput s off v).heads = s.heads := rfl
@[simp] theorem rput_coefs : (rput s off v).coefs = s.coefs := rfl
@[simp] theorem rput_cache : (rput s off v).cache = s.cache := rfl
@[simp] theorem rput_dispBad : (rput s off v).dispBad = s.dispBad := rfl
@[simp] theorem rput_dispOne : (rput s off v).dispOne = s.dispOne := rfl
@[simp] theorem rput_aud : (rput s off v).aud = s.aud := rfl
@[simp] theorem rput_th : (rput s off v).th = s.th := rfl
@[simp] theorem rput_trimAt : (rput s off v).trimAt = s.trimAt := rfl
@[simp] theorem rput_pilAt : (rput s off v).pilAt = s.pilAt := rfl
@[simp] theorem rput_sets : (rput s off v).sets = s.sets := rfl
end

section
variable {s : State} {f : FieldAt} {v : Nat}
@[simp] theorem fset_pending : (fset s f v).pending = s.pending := rfl
@[simp] theorem fset_freeCtr : (fset s f v).freeCtr = s.freeCtr := rfl
@[simp] theorem fset_clock : (fset s f v).clock = s.clock := rfl
@[simp] theorem fset_resp : (fset s f v).resp = s.resp := rfl
@[simp] theorem fset_variant : (fset s f v).variant = s.variant := rfl
@[simp] theorem fset_waiting : (fset s f v).waiting = s.waiting := rfl
@[simp] theorem fset_ferryDue : (fset s f v).ferryDue = s.ferryDue := rfl
@[simp] theorem fset_landDue : (fset s f v).landDue = s.landDue := rfl
@[simp] theorem fset_tls : (fset s f v).tls = s.tls := rfl
@[simp] theorem fset_latches : (fset s f v).latches = s.latches := rfl
@[simp] theorem fset_lands : (fset s f v).lands = s.lands := rfl
@[simp] theorem fset_eqs : (fset s f v).eqs = s.eqs := rfl
@[simp] theorem fset_faultOwn : (fset s f v).faultOwn = s.faultOwn := rfl
@[simp] theorem fset_faultFirst : (fset s f v).faultFirst = s.faultFirst := rfl
@[simp] theorem fset_engs : (fset s f v).engs = s.engs := rfl
@[simp] theorem fset_ram : (fset s f v).ram = s.ram := rfl
@[simp] theorem fset_ramWb : (fset s f v).ramWb = s.ramWb := rfl
@[simp] theorem fset_quadRst : (fset s f v).quadRst = s.quadRst := rfl
@[simp] theorem fset_spanId : (fset s f v).spanId = s.spanId := rfl
@[simp] theorem fset_ic : (fset s f v).ic = s.ic := rfl
@[simp] theorem fset_rg : (fset s f v).rg = s.rg := rfl
@[simp] theorem fset_mem : (fset s f v).mem = s.mem := rfl
@[simp] theorem fset_bargeLoaded : (fset s f v).bargeLoaded = s.bargeLoaded := rfl
@[simp] theorem fset_bargeAborts : (fset s f v).bargeAborts = s.bargeAborts := rfl
@[simp] theorem fset_posts : (fset s f v).posts = s.posts := rfl
@[simp] theorem fset_sers : (fset s f v).sers = s.sers := rfl
@[simp] theorem fset_beamTotals : (fset s f v).beamTotals = s.beamTotals := rfl
@[simp] theorem fset_span : (fset s f v).span = s.span := rfl
@[simp] theorem fset_keyDue : (fset s f v).keyDue = s.keyDue := rfl
@[simp] theorem fset_tallies : (fset s f v).tallies = s.tallies := rfl
@[simp] theorem fset_readLatch : (fset s f v).readLatch = s.readLatch := rfl
@[simp] theorem fset_host : (fset s f v).host = s.host := rfl
@[simp] theorem fset_heads : (fset s f v).heads = s.heads := rfl
@[simp] theorem fset_coefs : (fset s f v).coefs = s.coefs := rfl
@[simp] theorem fset_cache : (fset s f v).cache = s.cache := rfl
@[simp] theorem fset_dispBad : (fset s f v).dispBad = s.dispBad := rfl
@[simp] theorem fset_dispOne : (fset s f v).dispOne = s.dispOne := rfl
@[simp] theorem fset_aud : (fset s f v).aud = s.aud := rfl
@[simp] theorem fset_th : (fset s f v).th = s.th := rfl
@[simp] theorem fset_trimAt : (fset s f v).trimAt = s.trimAt := rfl
@[simp] theorem fset_pilAt : (fset s f v).pilAt = s.pilAt := rfl
@[simp] theorem fset_sets : (fset s f v).sets = s.sets := rfl
end

section
variable {s : State} {f : FieldAt}
@[simp] theorem fon_pending : (fon s f).pending = s.pending := rfl
@[simp] theorem fon_freeCtr : (fon s f).freeCtr = s.freeCtr := rfl
@[simp] theorem fon_clock : (fon s f).clock = s.clock := rfl
@[simp] theorem fon_resp : (fon s f).resp = s.resp := rfl
@[simp] theorem fon_variant : (fon s f).variant = s.variant := rfl
@[simp] theorem fon_waiting : (fon s f).waiting = s.waiting := rfl
@[simp] theorem fon_ferryDue : (fon s f).ferryDue = s.ferryDue := rfl
@[simp] theorem fon_landDue : (fon s f).landDue = s.landDue := rfl
@[simp] theorem fon_tls : (fon s f).tls = s.tls := rfl
@[simp] theorem fon_latches : (fon s f).latches = s.latches := rfl
@[simp] theorem fon_lands : (fon s f).lands = s.lands := rfl
@[simp] theorem fon_eqs : (fon s f).eqs = s.eqs := rfl
@[simp] theorem fon_faultOwn : (fon s f).faultOwn = s.faultOwn := rfl
@[simp] theorem fon_faultFirst : (fon s f).faultFirst = s.faultFirst := rfl
@[simp] theorem fon_engs : (fon s f).engs = s.engs := rfl
@[simp] theorem fon_ram : (fon s f).ram = s.ram := rfl
@[simp] theorem fon_ramWb : (fon s f).ramWb = s.ramWb := rfl
@[simp] theorem fon_quadRst : (fon s f).quadRst = s.quadRst := rfl
@[simp] theorem fon_spanId : (fon s f).spanId = s.spanId := rfl
@[simp] theorem fon_ic : (fon s f).ic = s.ic := rfl
@[simp] theorem fon_rg : (fon s f).rg = s.rg := rfl
@[simp] theorem fon_mem : (fon s f).mem = s.mem := rfl
@[simp] theorem fon_bargeLoaded : (fon s f).bargeLoaded = s.bargeLoaded := rfl
@[simp] theorem fon_bargeAborts : (fon s f).bargeAborts = s.bargeAborts := rfl
@[simp] theorem fon_posts : (fon s f).posts = s.posts := rfl
@[simp] theorem fon_sers : (fon s f).sers = s.sers := rfl
@[simp] theorem fon_beamTotals : (fon s f).beamTotals = s.beamTotals := rfl
@[simp] theorem fon_span : (fon s f).span = s.span := rfl
@[simp] theorem fon_keyDue : (fon s f).keyDue = s.keyDue := rfl
@[simp] theorem fon_tallies : (fon s f).tallies = s.tallies := rfl
@[simp] theorem fon_readLatch : (fon s f).readLatch = s.readLatch := rfl
@[simp] theorem fon_host : (fon s f).host = s.host := rfl
@[simp] theorem fon_heads : (fon s f).heads = s.heads := rfl
@[simp] theorem fon_coefs : (fon s f).coefs = s.coefs := rfl
@[simp] theorem fon_cache : (fon s f).cache = s.cache := rfl
@[simp] theorem fon_dispBad : (fon s f).dispBad = s.dispBad := rfl
@[simp] theorem fon_dispOne : (fon s f).dispOne = s.dispOne := rfl
@[simp] theorem fon_aud : (fon s f).aud = s.aud := rfl
@[simp] theorem fon_th : (fon s f).th = s.th := rfl
@[simp] theorem fon_trimAt : (fon s f).trimAt = s.trimAt := rfl
@[simp] theorem fon_pilAt : (fon s f).pilAt = s.pilAt := rfl
end

section
variable {s : State} {f : FieldAt} {n : Nat}
@[simp] theorem fcount_pending : (fcount s f n).pending = s.pending := rfl
@[simp] theorem fcount_freeCtr : (fcount s f n).freeCtr = s.freeCtr := rfl
@[simp] theorem fcount_clock : (fcount s f n).clock = s.clock := rfl
@[simp] theorem fcount_resp : (fcount s f n).resp = s.resp := rfl
@[simp] theorem fcount_variant : (fcount s f n).variant = s.variant := rfl
@[simp] theorem fcount_waiting : (fcount s f n).waiting = s.waiting := rfl
@[simp] theorem fcount_ferryDue : (fcount s f n).ferryDue = s.ferryDue := rfl
@[simp] theorem fcount_landDue : (fcount s f n).landDue = s.landDue := rfl
@[simp] theorem fcount_tls : (fcount s f n).tls = s.tls := rfl
@[simp] theorem fcount_latches : (fcount s f n).latches = s.latches := rfl
@[simp] theorem fcount_lands : (fcount s f n).lands = s.lands := rfl
@[simp] theorem fcount_eqs : (fcount s f n).eqs = s.eqs := rfl
@[simp] theorem fcount_faultOwn : (fcount s f n).faultOwn = s.faultOwn := rfl
@[simp] theorem fcount_faultFirst : (fcount s f n).faultFirst = s.faultFirst := rfl
@[simp] theorem fcount_engs : (fcount s f n).engs = s.engs := rfl
@[simp] theorem fcount_ram : (fcount s f n).ram = s.ram := rfl
@[simp] theorem fcount_ramWb : (fcount s f n).ramWb = s.ramWb := rfl
@[simp] theorem fcount_quadRst : (fcount s f n).quadRst = s.quadRst := rfl
@[simp] theorem fcount_spanId : (fcount s f n).spanId = s.spanId := rfl
@[simp] theorem fcount_ic : (fcount s f n).ic = s.ic := rfl
@[simp] theorem fcount_rg : (fcount s f n).rg = s.rg := rfl
@[simp] theorem fcount_mem : (fcount s f n).mem = s.mem := rfl
@[simp] theorem fcount_bargeLoaded : (fcount s f n).bargeLoaded = s.bargeLoaded := rfl
@[simp] theorem fcount_bargeAborts : (fcount s f n).bargeAborts = s.bargeAborts := rfl
@[simp] theorem fcount_posts : (fcount s f n).posts = s.posts := rfl
@[simp] theorem fcount_sers : (fcount s f n).sers = s.sers := rfl
@[simp] theorem fcount_beamTotals : (fcount s f n).beamTotals = s.beamTotals := rfl
@[simp] theorem fcount_span : (fcount s f n).span = s.span := rfl
@[simp] theorem fcount_keyDue : (fcount s f n).keyDue = s.keyDue := rfl
@[simp] theorem fcount_tallies : (fcount s f n).tallies = s.tallies := rfl
@[simp] theorem fcount_readLatch : (fcount s f n).readLatch = s.readLatch := rfl
@[simp] theorem fcount_host : (fcount s f n).host = s.host := rfl
@[simp] theorem fcount_heads : (fcount s f n).heads = s.heads := rfl
@[simp] theorem fcount_coefs : (fcount s f n).coefs = s.coefs := rfl
@[simp] theorem fcount_cache : (fcount s f n).cache = s.cache := rfl
@[simp] theorem fcount_dispBad : (fcount s f n).dispBad = s.dispBad := rfl
@[simp] theorem fcount_dispOne : (fcount s f n).dispOne = s.dispOne := rfl
@[simp] theorem fcount_aud : (fcount s f n).aud = s.aud := rfl
@[simp] theorem fcount_th : (fcount s f n).th = s.th := rfl
@[simp] theorem fcount_trimAt : (fcount s f n).trimAt = s.trimAt := rfl
@[simp] theorem fcount_pilAt : (fcount s f n).pilAt = s.pilAt := rfl
end

section
variable {s : State} {k : Nat} {u : TlUnit}
@[simp] theorem setTl_pending : (setTl s k u).pending = s.pending := rfl
@[simp] theorem setTl_freeCtr : (setTl s k u).freeCtr = s.freeCtr := rfl
@[simp] theorem setTl_clock : (setTl s k u).clock = s.clock := rfl
@[simp] theorem setTl_resp : (setTl s k u).resp = s.resp := rfl
@[simp] theorem setTl_variant : (setTl s k u).variant = s.variant := rfl
@[simp] theorem setTl_regs : (setTl s k u).regs = s.regs := rfl
@[simp] theorem setTl_waiting : (setTl s k u).waiting = s.waiting := rfl
@[simp] theorem setTl_ferryDue : (setTl s k u).ferryDue = s.ferryDue := rfl
@[simp] theorem setTl_landDue : (setTl s k u).landDue = s.landDue := rfl
@[simp] theorem setTl_latches : (setTl s k u).latches = s.latches := rfl
@[simp] theorem setTl_lands : (setTl s k u).lands = s.lands := rfl
@[simp] theorem setTl_eqs : (setTl s k u).eqs = s.eqs := rfl
@[simp] theorem setTl_faultOwn : (setTl s k u).faultOwn = s.faultOwn := rfl
@[simp] theorem setTl_faultFirst : (setTl s k u).faultFirst = s.faultFirst := rfl
@[simp] theorem setTl_engs : (setTl s k u).engs = s.engs := rfl
@[simp] theorem setTl_ram : (setTl s k u).ram = s.ram := rfl
@[simp] theorem setTl_ramWb : (setTl s k u).ramWb = s.ramWb := rfl
@[simp] theorem setTl_quadRst : (setTl s k u).quadRst = s.quadRst := rfl
@[simp] theorem setTl_spanId : (setTl s k u).spanId = s.spanId := rfl
@[simp] theorem setTl_ic : (setTl s k u).ic = s.ic := rfl
@[simp] theorem setTl_rg : (setTl s k u).rg = s.rg := rfl
@[simp] theorem setTl_mem : (setTl s k u).mem = s.mem := rfl
@[simp] theorem setTl_bargeLoaded : (setTl s k u).bargeLoaded = s.bargeLoaded := rfl
@[simp] theorem setTl_bargeAborts : (setTl s k u).bargeAborts = s.bargeAborts := rfl
@[simp] theorem setTl_posts : (setTl s k u).posts = s.posts := rfl
@[simp] theorem setTl_sers : (setTl s k u).sers = s.sers := rfl
@[simp] theorem setTl_beamTotals : (setTl s k u).beamTotals = s.beamTotals := rfl
@[simp] theorem setTl_span : (setTl s k u).span = s.span := rfl
@[simp] theorem setTl_keyDue : (setTl s k u).keyDue = s.keyDue := rfl
@[simp] theorem setTl_tallies : (setTl s k u).tallies = s.tallies := rfl
@[simp] theorem setTl_readLatch : (setTl s k u).readLatch = s.readLatch := rfl
@[simp] theorem setTl_host : (setTl s k u).host = s.host := rfl
@[simp] theorem setTl_heads : (setTl s k u).heads = s.heads := rfl
@[simp] theorem setTl_coefs : (setTl s k u).coefs = s.coefs := rfl
@[simp] theorem setTl_cache : (setTl s k u).cache = s.cache := rfl
@[simp] theorem setTl_dispBad : (setTl s k u).dispBad = s.dispBad := rfl
@[simp] theorem setTl_dispOne : (setTl s k u).dispOne = s.dispOne := rfl
@[simp] theorem setTl_aud : (setTl s k u).aud = s.aud := rfl
@[simp] theorem setTl_th : (setTl s k u).th = s.th := rfl
@[simp] theorem setTl_trimAt : (setTl s k u).trimAt = s.trimAt := rfl
@[simp] theorem setTl_pilAt : (setTl s k u).pilAt = s.pilAt := rfl
@[simp] theorem setTl_sets : (setTl s k u).sets = s.sets := rfl
end

section
variable {s : State} {n : Nat} {u : LandUnit}
@[simp] theorem setLand_pending : (setLand s n u).pending = s.pending := rfl
@[simp] theorem setLand_freeCtr : (setLand s n u).freeCtr = s.freeCtr := rfl
@[simp] theorem setLand_clock : (setLand s n u).clock = s.clock := rfl
@[simp] theorem setLand_resp : (setLand s n u).resp = s.resp := rfl
@[simp] theorem setLand_variant : (setLand s n u).variant = s.variant := rfl
@[simp] theorem setLand_regs : (setLand s n u).regs = s.regs := rfl
@[simp] theorem setLand_waiting : (setLand s n u).waiting = s.waiting := rfl
@[simp] theorem setLand_ferryDue : (setLand s n u).ferryDue = s.ferryDue := rfl
@[simp] theorem setLand_landDue : (setLand s n u).landDue = s.landDue := rfl
@[simp] theorem setLand_tls : (setLand s n u).tls = s.tls := rfl
@[simp] theorem setLand_latches : (setLand s n u).latches = s.latches := rfl
@[simp] theorem setLand_eqs : (setLand s n u).eqs = s.eqs := rfl
@[simp] theorem setLand_faultOwn : (setLand s n u).faultOwn = s.faultOwn := rfl
@[simp] theorem setLand_faultFirst : (setLand s n u).faultFirst = s.faultFirst := rfl
@[simp] theorem setLand_engs : (setLand s n u).engs = s.engs := rfl
@[simp] theorem setLand_ram : (setLand s n u).ram = s.ram := rfl
@[simp] theorem setLand_ramWb : (setLand s n u).ramWb = s.ramWb := rfl
@[simp] theorem setLand_quadRst : (setLand s n u).quadRst = s.quadRst := rfl
@[simp] theorem setLand_spanId : (setLand s n u).spanId = s.spanId := rfl
@[simp] theorem setLand_ic : (setLand s n u).ic = s.ic := rfl
@[simp] theorem setLand_rg : (setLand s n u).rg = s.rg := rfl
@[simp] theorem setLand_mem : (setLand s n u).mem = s.mem := rfl
@[simp] theorem setLand_bargeLoaded : (setLand s n u).bargeLoaded = s.bargeLoaded := rfl
@[simp] theorem setLand_bargeAborts : (setLand s n u).bargeAborts = s.bargeAborts := rfl
@[simp] theorem setLand_posts : (setLand s n u).posts = s.posts := rfl
@[simp] theorem setLand_sers : (setLand s n u).sers = s.sers := rfl
@[simp] theorem setLand_beamTotals : (setLand s n u).beamTotals = s.beamTotals := rfl
@[simp] theorem setLand_span : (setLand s n u).span = s.span := rfl
@[simp] theorem setLand_keyDue : (setLand s n u).keyDue = s.keyDue := rfl
@[simp] theorem setLand_tallies : (setLand s n u).tallies = s.tallies := rfl
@[simp] theorem setLand_readLatch : (setLand s n u).readLatch = s.readLatch := rfl
@[simp] theorem setLand_host : (setLand s n u).host = s.host := rfl
@[simp] theorem setLand_heads : (setLand s n u).heads = s.heads := rfl
@[simp] theorem setLand_coefs : (setLand s n u).coefs = s.coefs := rfl
@[simp] theorem setLand_cache : (setLand s n u).cache = s.cache := rfl
@[simp] theorem setLand_dispBad : (setLand s n u).dispBad = s.dispBad := rfl
@[simp] theorem setLand_dispOne : (setLand s n u).dispOne = s.dispOne := rfl
@[simp] theorem setLand_aud : (setLand s n u).aud = s.aud := rfl
@[simp] theorem setLand_th : (setLand s n u).th = s.th := rfl
@[simp] theorem setLand_trimAt : (setLand s n u).trimAt = s.trimAt := rfl
@[simp] theorem setLand_pilAt : (setLand s n u).pilAt = s.pilAt := rfl
@[simp] theorem setLand_sets : (setLand s n u).sets = s.sets := rfl
end

section
variable {s : State} {n : Nat} {u : EqUnit}
@[simp] theorem setEq_pending : (setEq s n u).pending = s.pending := rfl
@[simp] theorem setEq_freeCtr : (setEq s n u).freeCtr = s.freeCtr := rfl
@[simp] theorem setEq_clock : (setEq s n u).clock = s.clock := rfl
@[simp] theorem setEq_resp : (setEq s n u).resp = s.resp := rfl
@[simp] theorem setEq_variant : (setEq s n u).variant = s.variant := rfl
@[simp] theorem setEq_regs : (setEq s n u).regs = s.regs := rfl
@[simp] theorem setEq_waiting : (setEq s n u).waiting = s.waiting := rfl
@[simp] theorem setEq_ferryDue : (setEq s n u).ferryDue = s.ferryDue := rfl
@[simp] theorem setEq_landDue : (setEq s n u).landDue = s.landDue := rfl
@[simp] theorem setEq_tls : (setEq s n u).tls = s.tls := rfl
@[simp] theorem setEq_latches : (setEq s n u).latches = s.latches := rfl
@[simp] theorem setEq_lands : (setEq s n u).lands = s.lands := rfl
@[simp] theorem setEq_faultOwn : (setEq s n u).faultOwn = s.faultOwn := rfl
@[simp] theorem setEq_faultFirst : (setEq s n u).faultFirst = s.faultFirst := rfl
@[simp] theorem setEq_engs : (setEq s n u).engs = s.engs := rfl
@[simp] theorem setEq_ram : (setEq s n u).ram = s.ram := rfl
@[simp] theorem setEq_ramWb : (setEq s n u).ramWb = s.ramWb := rfl
@[simp] theorem setEq_quadRst : (setEq s n u).quadRst = s.quadRst := rfl
@[simp] theorem setEq_spanId : (setEq s n u).spanId = s.spanId := rfl
@[simp] theorem setEq_ic : (setEq s n u).ic = s.ic := rfl
@[simp] theorem setEq_rg : (setEq s n u).rg = s.rg := rfl
@[simp] theorem setEq_mem : (setEq s n u).mem = s.mem := rfl
@[simp] theorem setEq_bargeLoaded : (setEq s n u).bargeLoaded = s.bargeLoaded := rfl
@[simp] theorem setEq_bargeAborts : (setEq s n u).bargeAborts = s.bargeAborts := rfl
@[simp] theorem setEq_posts : (setEq s n u).posts = s.posts := rfl
@[simp] theorem setEq_sers : (setEq s n u).sers = s.sers := rfl
@[simp] theorem setEq_beamTotals : (setEq s n u).beamTotals = s.beamTotals := rfl
@[simp] theorem setEq_span : (setEq s n u).span = s.span := rfl
@[simp] theorem setEq_keyDue : (setEq s n u).keyDue = s.keyDue := rfl
@[simp] theorem setEq_tallies : (setEq s n u).tallies = s.tallies := rfl
@[simp] theorem setEq_readLatch : (setEq s n u).readLatch = s.readLatch := rfl
@[simp] theorem setEq_host : (setEq s n u).host = s.host := rfl
@[simp] theorem setEq_heads : (setEq s n u).heads = s.heads := rfl
@[simp] theorem setEq_coefs : (setEq s n u).coefs = s.coefs := rfl
@[simp] theorem setEq_cache : (setEq s n u).cache = s.cache := rfl
@[simp] theorem setEq_dispBad : (setEq s n u).dispBad = s.dispBad := rfl
@[simp] theorem setEq_dispOne : (setEq s n u).dispOne = s.dispOne := rfl
@[simp] theorem setEq_aud : (setEq s n u).aud = s.aud := rfl
@[simp] theorem setEq_th : (setEq s n u).th = s.th := rfl
@[simp] theorem setEq_trimAt : (setEq s n u).trimAt = s.trimAt := rfl
@[simp] theorem setEq_pilAt : (setEq s n u).pilAt = s.pilAt := rfl
@[simp] theorem setEq_sets : (setEq s n u).sets = s.sets := rfl
end

section
variable {s : State} {e : Nat} {u : Eng}
@[simp] theorem setEng_pending : (setEng s e u).pending = s.pending := rfl
@[simp] theorem setEng_freeCtr : (setEng s e u).freeCtr = s.freeCtr := rfl
@[simp] theorem setEng_clock : (setEng s e u).clock = s.clock := rfl
@[simp] theorem setEng_resp : (setEng s e u).resp = s.resp := rfl
@[simp] theorem setEng_variant : (setEng s e u).variant = s.variant := rfl
@[simp] theorem setEng_regs : (setEng s e u).regs = s.regs := rfl
@[simp] theorem setEng_waiting : (setEng s e u).waiting = s.waiting := rfl
@[simp] theorem setEng_ferryDue : (setEng s e u).ferryDue = s.ferryDue := rfl
@[simp] theorem setEng_landDue : (setEng s e u).landDue = s.landDue := rfl
@[simp] theorem setEng_tls : (setEng s e u).tls = s.tls := rfl
@[simp] theorem setEng_latches : (setEng s e u).latches = s.latches := rfl
@[simp] theorem setEng_lands : (setEng s e u).lands = s.lands := rfl
@[simp] theorem setEng_eqs : (setEng s e u).eqs = s.eqs := rfl
@[simp] theorem setEng_faultOwn : (setEng s e u).faultOwn = s.faultOwn := rfl
@[simp] theorem setEng_faultFirst : (setEng s e u).faultFirst = s.faultFirst := rfl
@[simp] theorem setEng_ram : (setEng s e u).ram = s.ram := rfl
@[simp] theorem setEng_ramWb : (setEng s e u).ramWb = s.ramWb := rfl
@[simp] theorem setEng_quadRst : (setEng s e u).quadRst = s.quadRst := rfl
@[simp] theorem setEng_spanId : (setEng s e u).spanId = s.spanId := rfl
@[simp] theorem setEng_ic : (setEng s e u).ic = s.ic := rfl
@[simp] theorem setEng_rg : (setEng s e u).rg = s.rg := rfl
@[simp] theorem setEng_mem : (setEng s e u).mem = s.mem := rfl
@[simp] theorem setEng_bargeLoaded : (setEng s e u).bargeLoaded = s.bargeLoaded := rfl
@[simp] theorem setEng_bargeAborts : (setEng s e u).bargeAborts = s.bargeAborts := rfl
@[simp] theorem setEng_posts : (setEng s e u).posts = s.posts := rfl
@[simp] theorem setEng_sers : (setEng s e u).sers = s.sers := rfl
@[simp] theorem setEng_beamTotals : (setEng s e u).beamTotals = s.beamTotals := rfl
@[simp] theorem setEng_span : (setEng s e u).span = s.span := rfl
@[simp] theorem setEng_keyDue : (setEng s e u).keyDue = s.keyDue := rfl
@[simp] theorem setEng_tallies : (setEng s e u).tallies = s.tallies := rfl
@[simp] theorem setEng_readLatch : (setEng s e u).readLatch = s.readLatch := rfl
@[simp] theorem setEng_host : (setEng s e u).host = s.host := rfl
@[simp] theorem setEng_heads : (setEng s e u).heads = s.heads := rfl
@[simp] theorem setEng_coefs : (setEng s e u).coefs = s.coefs := rfl
@[simp] theorem setEng_cache : (setEng s e u).cache = s.cache := rfl
@[simp] theorem setEng_dispBad : (setEng s e u).dispBad = s.dispBad := rfl
@[simp] theorem setEng_dispOne : (setEng s e u).dispOne = s.dispOne := rfl
@[simp] theorem setEng_aud : (setEng s e u).aud = s.aud := rfl
@[simp] theorem setEng_th : (setEng s e u).th = s.th := rfl
@[simp] theorem setEng_trimAt : (setEng s e u).trimAt = s.trimAt := rfl
@[simp] theorem setEng_pilAt : (setEng s e u).pilAt = s.pilAt := rfl
@[simp] theorem setEng_sets : (setEng s e u).sets = s.sets := rfl
end

section
variable {s : State} {n : Nat} {u : PostUnit}
@[simp] theorem setPost_pending : (setPost s n u).pending = s.pending := rfl
@[simp] theorem setPost_freeCtr : (setPost s n u).freeCtr = s.freeCtr := rfl
@[simp] theorem setPost_clock : (setPost s n u).clock = s.clock := rfl
@[simp] theorem setPost_resp : (setPost s n u).resp = s.resp := rfl
@[simp] theorem setPost_variant : (setPost s n u).variant = s.variant := rfl
@[simp] theorem setPost_regs : (setPost s n u).regs = s.regs := rfl
@[simp] theorem setPost_waiting : (setPost s n u).waiting = s.waiting := rfl
@[simp] theorem setPost_ferryDue : (setPost s n u).ferryDue = s.ferryDue := rfl
@[simp] theorem setPost_landDue : (setPost s n u).landDue = s.landDue := rfl
@[simp] theorem setPost_tls : (setPost s n u).tls = s.tls := rfl
@[simp] theorem setPost_latches : (setPost s n u).latches = s.latches := rfl
@[simp] theorem setPost_lands : (setPost s n u).lands = s.lands := rfl
@[simp] theorem setPost_eqs : (setPost s n u).eqs = s.eqs := rfl
@[simp] theorem setPost_faultOwn : (setPost s n u).faultOwn = s.faultOwn := rfl
@[simp] theorem setPost_faultFirst : (setPost s n u).faultFirst = s.faultFirst := rfl
@[simp] theorem setPost_engs : (setPost s n u).engs = s.engs := rfl
@[simp] theorem setPost_ram : (setPost s n u).ram = s.ram := rfl
@[simp] theorem setPost_ramWb : (setPost s n u).ramWb = s.ramWb := rfl
@[simp] theorem setPost_quadRst : (setPost s n u).quadRst = s.quadRst := rfl
@[simp] theorem setPost_spanId : (setPost s n u).spanId = s.spanId := rfl
@[simp] theorem setPost_ic : (setPost s n u).ic = s.ic := rfl
@[simp] theorem setPost_rg : (setPost s n u).rg = s.rg := rfl
@[simp] theorem setPost_mem : (setPost s n u).mem = s.mem := rfl
@[simp] theorem setPost_bargeLoaded : (setPost s n u).bargeLoaded = s.bargeLoaded := rfl
@[simp] theorem setPost_bargeAborts : (setPost s n u).bargeAborts = s.bargeAborts := rfl
@[simp] theorem setPost_sers : (setPost s n u).sers = s.sers := rfl
@[simp] theorem setPost_beamTotals : (setPost s n u).beamTotals = s.beamTotals := rfl
@[simp] theorem setPost_span : (setPost s n u).span = s.span := rfl
@[simp] theorem setPost_keyDue : (setPost s n u).keyDue = s.keyDue := rfl
@[simp] theorem setPost_tallies : (setPost s n u).tallies = s.tallies := rfl
@[simp] theorem setPost_readLatch : (setPost s n u).readLatch = s.readLatch := rfl
@[simp] theorem setPost_host : (setPost s n u).host = s.host := rfl
@[simp] theorem setPost_heads : (setPost s n u).heads = s.heads := rfl
@[simp] theorem setPost_coefs : (setPost s n u).coefs = s.coefs := rfl
@[simp] theorem setPost_cache : (setPost s n u).cache = s.cache := rfl
@[simp] theorem setPost_dispBad : (setPost s n u).dispBad = s.dispBad := rfl
@[simp] theorem setPost_dispOne : (setPost s n u).dispOne = s.dispOne := rfl
@[simp] theorem setPost_aud : (setPost s n u).aud = s.aud := rfl
@[simp] theorem setPost_th : (setPost s n u).th = s.th := rfl
@[simp] theorem setPost_trimAt : (setPost s n u).trimAt = s.trimAt := rfl
@[simp] theorem setPost_pilAt : (setPost s n u).pilAt = s.pilAt := rfl
@[simp] theorem setPost_sets : (setPost s n u).sets = s.sets := rfl
end

section
variable {s : State} {p : Nat} {u : SerUnit}
@[simp] theorem setSer_pending : (setSer s p u).pending = s.pending := rfl
@[simp] theorem setSer_freeCtr : (setSer s p u).freeCtr = s.freeCtr := rfl
@[simp] theorem setSer_clock : (setSer s p u).clock = s.clock := rfl
@[simp] theorem setSer_resp : (setSer s p u).resp = s.resp := rfl
@[simp] theorem setSer_variant : (setSer s p u).variant = s.variant := rfl
@[simp] theorem setSer_regs : (setSer s p u).regs = s.regs := rfl
@[simp] theorem setSer_waiting : (setSer s p u).waiting = s.waiting := rfl
@[simp] theorem setSer_ferryDue : (setSer s p u).ferryDue = s.ferryDue := rfl
@[simp] theorem setSer_landDue : (setSer s p u).landDue = s.landDue := rfl
@[simp] theorem setSer_tls : (setSer s p u).tls = s.tls := rfl
@[simp] theorem setSer_latches : (setSer s p u).latches = s.latches := rfl
@[simp] theorem setSer_lands : (setSer s p u).lands = s.lands := rfl
@[simp] theorem setSer_eqs : (setSer s p u).eqs = s.eqs := rfl
@[simp] theorem setSer_faultOwn : (setSer s p u).faultOwn = s.faultOwn := rfl
@[simp] theorem setSer_faultFirst : (setSer s p u).faultFirst = s.faultFirst := rfl
@[simp] theorem setSer_engs : (setSer s p u).engs = s.engs := rfl
@[simp] theorem setSer_ram : (setSer s p u).ram = s.ram := rfl
@[simp] theorem setSer_ramWb : (setSer s p u).ramWb = s.ramWb := rfl
@[simp] theorem setSer_quadRst : (setSer s p u).quadRst = s.quadRst := rfl
@[simp] theorem setSer_spanId : (setSer s p u).spanId = s.spanId := rfl
@[simp] theorem setSer_ic : (setSer s p u).ic = s.ic := rfl
@[simp] theorem setSer_rg : (setSer s p u).rg = s.rg := rfl
@[simp] theorem setSer_mem : (setSer s p u).mem = s.mem := rfl
@[simp] theorem setSer_bargeLoaded : (setSer s p u).bargeLoaded = s.bargeLoaded := rfl
@[simp] theorem setSer_bargeAborts : (setSer s p u).bargeAborts = s.bargeAborts := rfl
@[simp] theorem setSer_posts : (setSer s p u).posts = s.posts := rfl
@[simp] theorem setSer_beamTotals : (setSer s p u).beamTotals = s.beamTotals := rfl
@[simp] theorem setSer_span : (setSer s p u).span = s.span := rfl
@[simp] theorem setSer_keyDue : (setSer s p u).keyDue = s.keyDue := rfl
@[simp] theorem setSer_tallies : (setSer s p u).tallies = s.tallies := rfl
@[simp] theorem setSer_readLatch : (setSer s p u).readLatch = s.readLatch := rfl
@[simp] theorem setSer_host : (setSer s p u).host = s.host := rfl
@[simp] theorem setSer_heads : (setSer s p u).heads = s.heads := rfl
@[simp] theorem setSer_coefs : (setSer s p u).coefs = s.coefs := rfl
@[simp] theorem setSer_cache : (setSer s p u).cache = s.cache := rfl
@[simp] theorem setSer_dispBad : (setSer s p u).dispBad = s.dispBad := rfl
@[simp] theorem setSer_dispOne : (setSer s p u).dispOne = s.dispOne := rfl
@[simp] theorem setSer_aud : (setSer s p u).aud = s.aud := rfl
@[simp] theorem setSer_th : (setSer s p u).th = s.th := rfl
@[simp] theorem setSer_trimAt : (setSer s p u).trimAt = s.trimAt := rfl
@[simp] theorem setSer_pilAt : (setSer s p u).pilAt = s.pilAt := rfl
@[simp] theorem setSer_sets : (setSer s p u).sets = s.sets := rfl
end

section
variable {s : State} {k : Nat} {u : TallyUnit}
@[simp] theorem setTally_pending : (setTally s k u).pending = s.pending := rfl
@[simp] theorem setTally_freeCtr : (setTally s k u).freeCtr = s.freeCtr := rfl
@[simp] theorem setTally_clock : (setTally s k u).clock = s.clock := rfl
@[simp] theorem setTally_resp : (setTally s k u).resp = s.resp := rfl
@[simp] theorem setTally_variant : (setTally s k u).variant = s.variant := rfl
@[simp] theorem setTally_regs : (setTally s k u).regs = s.regs := rfl
@[simp] theorem setTally_waiting : (setTally s k u).waiting = s.waiting := rfl
@[simp] theorem setTally_ferryDue : (setTally s k u).ferryDue = s.ferryDue := rfl
@[simp] theorem setTally_landDue : (setTally s k u).landDue = s.landDue := rfl
@[simp] theorem setTally_tls : (setTally s k u).tls = s.tls := rfl
@[simp] theorem setTally_latches : (setTally s k u).latches = s.latches := rfl
@[simp] theorem setTally_lands : (setTally s k u).lands = s.lands := rfl
@[simp] theorem setTally_eqs : (setTally s k u).eqs = s.eqs := rfl
@[simp] theorem setTally_faultOwn : (setTally s k u).faultOwn = s.faultOwn := rfl
@[simp] theorem setTally_faultFirst : (setTally s k u).faultFirst = s.faultFirst := rfl
@[simp] theorem setTally_engs : (setTally s k u).engs = s.engs := rfl
@[simp] theorem setTally_ram : (setTally s k u).ram = s.ram := rfl
@[simp] theorem setTally_ramWb : (setTally s k u).ramWb = s.ramWb := rfl
@[simp] theorem setTally_quadRst : (setTally s k u).quadRst = s.quadRst := rfl
@[simp] theorem setTally_spanId : (setTally s k u).spanId = s.spanId := rfl
@[simp] theorem setTally_ic : (setTally s k u).ic = s.ic := rfl
@[simp] theorem setTally_rg : (setTally s k u).rg = s.rg := rfl
@[simp] theorem setTally_mem : (setTally s k u).mem = s.mem := rfl
@[simp] theorem setTally_bargeLoaded : (setTally s k u).bargeLoaded = s.bargeLoaded := rfl
@[simp] theorem setTally_bargeAborts : (setTally s k u).bargeAborts = s.bargeAborts := rfl
@[simp] theorem setTally_posts : (setTally s k u).posts = s.posts := rfl
@[simp] theorem setTally_sers : (setTally s k u).sers = s.sers := rfl
@[simp] theorem setTally_beamTotals : (setTally s k u).beamTotals = s.beamTotals := rfl
@[simp] theorem setTally_span : (setTally s k u).span = s.span := rfl
@[simp] theorem setTally_keyDue : (setTally s k u).keyDue = s.keyDue := rfl
@[simp] theorem setTally_readLatch : (setTally s k u).readLatch = s.readLatch := rfl
@[simp] theorem setTally_host : (setTally s k u).host = s.host := rfl
@[simp] theorem setTally_heads : (setTally s k u).heads = s.heads := rfl
@[simp] theorem setTally_coefs : (setTally s k u).coefs = s.coefs := rfl
@[simp] theorem setTally_cache : (setTally s k u).cache = s.cache := rfl
@[simp] theorem setTally_dispBad : (setTally s k u).dispBad = s.dispBad := rfl
@[simp] theorem setTally_dispOne : (setTally s k u).dispOne = s.dispOne := rfl
@[simp] theorem setTally_aud : (setTally s k u).aud = s.aud := rfl
@[simp] theorem setTally_th : (setTally s k u).th = s.th := rfl
@[simp] theorem setTally_trimAt : (setTally s k u).trimAt = s.trimAt := rfl
@[simp] theorem setTally_pilAt : (setTally s k u).pilAt = s.pilAt := rfl
@[simp] theorem setTally_sets : (setTally s k u).sets = s.sets := rfl
end

section
variable {s : State} {k : Nat} {g : Granule}
@[simp] theorem setGran_pending : (setGran s k g).pending = s.pending := rfl
@[simp] theorem setGran_freeCtr : (setGran s k g).freeCtr = s.freeCtr := rfl
@[simp] theorem setGran_clock : (setGran s k g).clock = s.clock := rfl
@[simp] theorem setGran_resp : (setGran s k g).resp = s.resp := rfl
@[simp] theorem setGran_variant : (setGran s k g).variant = s.variant := rfl
@[simp] theorem setGran_regs : (setGran s k g).regs = s.regs := rfl
@[simp] theorem setGran_waiting : (setGran s k g).waiting = s.waiting := rfl
@[simp] theorem setGran_ferryDue : (setGran s k g).ferryDue = s.ferryDue := rfl
@[simp] theorem setGran_landDue : (setGran s k g).landDue = s.landDue := rfl
@[simp] theorem setGran_tls : (setGran s k g).tls = s.tls := rfl
@[simp] theorem setGran_latches : (setGran s k g).latches = s.latches := rfl
@[simp] theorem setGran_lands : (setGran s k g).lands = s.lands := rfl
@[simp] theorem setGran_eqs : (setGran s k g).eqs = s.eqs := rfl
@[simp] theorem setGran_faultOwn : (setGran s k g).faultOwn = s.faultOwn := rfl
@[simp] theorem setGran_faultFirst : (setGran s k g).faultFirst = s.faultFirst := rfl
@[simp] theorem setGran_engs : (setGran s k g).engs = s.engs := rfl
@[simp] theorem setGran_ramWb : (setGran s k g).ramWb = s.ramWb := rfl
@[simp] theorem setGran_quadRst : (setGran s k g).quadRst = s.quadRst := rfl
@[simp] theorem setGran_spanId : (setGran s k g).spanId = s.spanId := rfl
@[simp] theorem setGran_ic : (setGran s k g).ic = s.ic := rfl
@[simp] theorem setGran_rg : (setGran s k g).rg = s.rg := rfl
@[simp] theorem setGran_mem : (setGran s k g).mem = s.mem := rfl
@[simp] theorem setGran_bargeLoaded : (setGran s k g).bargeLoaded = s.bargeLoaded := rfl
@[simp] theorem setGran_bargeAborts : (setGran s k g).bargeAborts = s.bargeAborts := rfl
@[simp] theorem setGran_posts : (setGran s k g).posts = s.posts := rfl
@[simp] theorem setGran_sers : (setGran s k g).sers = s.sers := rfl
@[simp] theorem setGran_beamTotals : (setGran s k g).beamTotals = s.beamTotals := rfl
@[simp] theorem setGran_span : (setGran s k g).span = s.span := rfl
@[simp] theorem setGran_keyDue : (setGran s k g).keyDue = s.keyDue := rfl
@[simp] theorem setGran_tallies : (setGran s k g).tallies = s.tallies := rfl
@[simp] theorem setGran_readLatch : (setGran s k g).readLatch = s.readLatch := rfl
@[simp] theorem setGran_host : (setGran s k g).host = s.host := rfl
@[simp] theorem setGran_heads : (setGran s k g).heads = s.heads := rfl
@[simp] theorem setGran_coefs : (setGran s k g).coefs = s.coefs := rfl
@[simp] theorem setGran_cache : (setGran s k g).cache = s.cache := rfl
@[simp] theorem setGran_dispBad : (setGran s k g).dispBad = s.dispBad := rfl
@[simp] theorem setGran_dispOne : (setGran s k g).dispOne = s.dispOne := rfl
@[simp] theorem setGran_aud : (setGran s k g).aud = s.aud := rfl
@[simp] theorem setGran_th : (setGran s k g).th = s.th := rfl
@[simp] theorem setGran_trimAt : (setGran s k g).trimAt = s.trimAt := rfl
@[simp] theorem setGran_pilAt : (setGran s k g).pilAt = s.pilAt := rfl
@[simp] theorem setGran_sets : (setGran s k g).sets = s.sets := rfl
end

section
variable {s : State} {h : Nat} {u : HeadUnit}
@[simp] theorem setHead_pending : (setHead s h u).pending = s.pending := rfl
@[simp] theorem setHead_freeCtr : (setHead s h u).freeCtr = s.freeCtr := rfl
@[simp] theorem setHead_clock : (setHead s h u).clock = s.clock := rfl
@[simp] theorem setHead_resp : (setHead s h u).resp = s.resp := rfl
@[simp] theorem setHead_variant : (setHead s h u).variant = s.variant := rfl
@[simp] theorem setHead_regs : (setHead s h u).regs = s.regs := rfl
@[simp] theorem setHead_waiting : (setHead s h u).waiting = s.waiting := rfl
@[simp] theorem setHead_ferryDue : (setHead s h u).ferryDue = s.ferryDue := rfl
@[simp] theorem setHead_landDue : (setHead s h u).landDue = s.landDue := rfl
@[simp] theorem setHead_tls : (setHead s h u).tls = s.tls := rfl
@[simp] theorem setHead_latches : (setHead s h u).latches = s.latches := rfl
@[simp] theorem setHead_lands : (setHead s h u).lands = s.lands := rfl
@[simp] theorem setHead_eqs : (setHead s h u).eqs = s.eqs := rfl
@[simp] theorem setHead_faultOwn : (setHead s h u).faultOwn = s.faultOwn := rfl
@[simp] theorem setHead_faultFirst : (setHead s h u).faultFirst = s.faultFirst := rfl
@[simp] theorem setHead_engs : (setHead s h u).engs = s.engs := rfl
@[simp] theorem setHead_ram : (setHead s h u).ram = s.ram := rfl
@[simp] theorem setHead_ramWb : (setHead s h u).ramWb = s.ramWb := rfl
@[simp] theorem setHead_quadRst : (setHead s h u).quadRst = s.quadRst := rfl
@[simp] theorem setHead_spanId : (setHead s h u).spanId = s.spanId := rfl
@[simp] theorem setHead_ic : (setHead s h u).ic = s.ic := rfl
@[simp] theorem setHead_rg : (setHead s h u).rg = s.rg := rfl
@[simp] theorem setHead_mem : (setHead s h u).mem = s.mem := rfl
@[simp] theorem setHead_bargeLoaded : (setHead s h u).bargeLoaded = s.bargeLoaded := rfl
@[simp] theorem setHead_bargeAborts : (setHead s h u).bargeAborts = s.bargeAborts := rfl
@[simp] theorem setHead_posts : (setHead s h u).posts = s.posts := rfl
@[simp] theorem setHead_sers : (setHead s h u).sers = s.sers := rfl
@[simp] theorem setHead_beamTotals : (setHead s h u).beamTotals = s.beamTotals := rfl
@[simp] theorem setHead_span : (setHead s h u).span = s.span := rfl
@[simp] theorem setHead_keyDue : (setHead s h u).keyDue = s.keyDue := rfl
@[simp] theorem setHead_tallies : (setHead s h u).tallies = s.tallies := rfl
@[simp] theorem setHead_readLatch : (setHead s h u).readLatch = s.readLatch := rfl
@[simp] theorem setHead_host : (setHead s h u).host = s.host := rfl
@[simp] theorem setHead_coefs : (setHead s h u).coefs = s.coefs := rfl
@[simp] theorem setHead_cache : (setHead s h u).cache = s.cache := rfl
@[simp] theorem setHead_dispBad : (setHead s h u).dispBad = s.dispBad := rfl
@[simp] theorem setHead_dispOne : (setHead s h u).dispOne = s.dispOne := rfl
@[simp] theorem setHead_aud : (setHead s h u).aud = s.aud := rfl
@[simp] theorem setHead_th : (setHead s h u).th = s.th := rfl
@[simp] theorem setHead_trimAt : (setHead s h u).trimAt = s.trimAt := rfl
@[simp] theorem setHead_pilAt : (setHead s h u).pilAt = s.pilAt := rfl
@[simp] theorem setHead_sets : (setHead s h u).sets = s.sets := rfl
end

section
variable {s : State} {e : Nat} {u : IcEng}
@[simp] theorem setIcEng_pending : (setIcEng s e u).pending = s.pending := rfl
@[simp] theorem setIcEng_freeCtr : (setIcEng s e u).freeCtr = s.freeCtr := rfl
@[simp] theorem setIcEng_clock : (setIcEng s e u).clock = s.clock := rfl
@[simp] theorem setIcEng_resp : (setIcEng s e u).resp = s.resp := rfl
@[simp] theorem setIcEng_variant : (setIcEng s e u).variant = s.variant := rfl
@[simp] theorem setIcEng_regs : (setIcEng s e u).regs = s.regs := rfl
@[simp] theorem setIcEng_waiting : (setIcEng s e u).waiting = s.waiting := rfl
@[simp] theorem setIcEng_ferryDue : (setIcEng s e u).ferryDue = s.ferryDue := rfl
@[simp] theorem setIcEng_landDue : (setIcEng s e u).landDue = s.landDue := rfl
@[simp] theorem setIcEng_tls : (setIcEng s e u).tls = s.tls := rfl
@[simp] theorem setIcEng_latches : (setIcEng s e u).latches = s.latches := rfl
@[simp] theorem setIcEng_lands : (setIcEng s e u).lands = s.lands := rfl
@[simp] theorem setIcEng_eqs : (setIcEng s e u).eqs = s.eqs := rfl
@[simp] theorem setIcEng_faultOwn : (setIcEng s e u).faultOwn = s.faultOwn := rfl
@[simp] theorem setIcEng_faultFirst : (setIcEng s e u).faultFirst = s.faultFirst := rfl
@[simp] theorem setIcEng_engs : (setIcEng s e u).engs = s.engs := rfl
@[simp] theorem setIcEng_ram : (setIcEng s e u).ram = s.ram := rfl
@[simp] theorem setIcEng_ramWb : (setIcEng s e u).ramWb = s.ramWb := rfl
@[simp] theorem setIcEng_quadRst : (setIcEng s e u).quadRst = s.quadRst := rfl
@[simp] theorem setIcEng_spanId : (setIcEng s e u).spanId = s.spanId := rfl
@[simp] theorem setIcEng_rg : (setIcEng s e u).rg = s.rg := rfl
@[simp] theorem setIcEng_mem : (setIcEng s e u).mem = s.mem := rfl
@[simp] theorem setIcEng_bargeLoaded : (setIcEng s e u).bargeLoaded = s.bargeLoaded := rfl
@[simp] theorem setIcEng_bargeAborts : (setIcEng s e u).bargeAborts = s.bargeAborts := rfl
@[simp] theorem setIcEng_posts : (setIcEng s e u).posts = s.posts := rfl
@[simp] theorem setIcEng_sers : (setIcEng s e u).sers = s.sers := rfl
@[simp] theorem setIcEng_beamTotals : (setIcEng s e u).beamTotals = s.beamTotals := rfl
@[simp] theorem setIcEng_span : (setIcEng s e u).span = s.span := rfl
@[simp] theorem setIcEng_keyDue : (setIcEng s e u).keyDue = s.keyDue := rfl
@[simp] theorem setIcEng_tallies : (setIcEng s e u).tallies = s.tallies := rfl
@[simp] theorem setIcEng_readLatch : (setIcEng s e u).readLatch = s.readLatch := rfl
@[simp] theorem setIcEng_host : (setIcEng s e u).host = s.host := rfl
@[simp] theorem setIcEng_heads : (setIcEng s e u).heads = s.heads := rfl
@[simp] theorem setIcEng_coefs : (setIcEng s e u).coefs = s.coefs := rfl
@[simp] theorem setIcEng_cache : (setIcEng s e u).cache = s.cache := rfl
@[simp] theorem setIcEng_dispBad : (setIcEng s e u).dispBad = s.dispBad := rfl
@[simp] theorem setIcEng_dispOne : (setIcEng s e u).dispOne = s.dispOne := rfl
@[simp] theorem setIcEng_aud : (setIcEng s e u).aud = s.aud := rfl
@[simp] theorem setIcEng_th : (setIcEng s e u).th = s.th := rfl
@[simp] theorem setIcEng_trimAt : (setIcEng s e u).trimAt = s.trimAt := rfl
@[simp] theorem setIcEng_pilAt : (setIcEng s e u).pilAt = s.pilAt := rfl
@[simp] theorem setIcEng_sets : (setIcEng s e u).sets = s.sets := rfl
end

section
variable {s : State} {a : Nat} {b : Byte}
@[simp] theorem setMemByte_pending : (setMemByte s a b).pending = s.pending := rfl
@[simp] theorem setMemByte_freeCtr : (setMemByte s a b).freeCtr = s.freeCtr := rfl
@[simp] theorem setMemByte_clock : (setMemByte s a b).clock = s.clock := rfl
@[simp] theorem setMemByte_resp : (setMemByte s a b).resp = s.resp := rfl
@[simp] theorem setMemByte_variant : (setMemByte s a b).variant = s.variant := rfl
@[simp] theorem setMemByte_regs : (setMemByte s a b).regs = s.regs := rfl
@[simp] theorem setMemByte_waiting : (setMemByte s a b).waiting = s.waiting := rfl
@[simp] theorem setMemByte_ferryDue : (setMemByte s a b).ferryDue = s.ferryDue := rfl
@[simp] theorem setMemByte_landDue : (setMemByte s a b).landDue = s.landDue := rfl
@[simp] theorem setMemByte_tls : (setMemByte s a b).tls = s.tls := rfl
@[simp] theorem setMemByte_latches : (setMemByte s a b).latches = s.latches := rfl
@[simp] theorem setMemByte_lands : (setMemByte s a b).lands = s.lands := rfl
@[simp] theorem setMemByte_eqs : (setMemByte s a b).eqs = s.eqs := rfl
@[simp] theorem setMemByte_faultOwn : (setMemByte s a b).faultOwn = s.faultOwn := rfl
@[simp] theorem setMemByte_faultFirst : (setMemByte s a b).faultFirst = s.faultFirst := rfl
@[simp] theorem setMemByte_engs : (setMemByte s a b).engs = s.engs := rfl
@[simp] theorem setMemByte_ram : (setMemByte s a b).ram = s.ram := rfl
@[simp] theorem setMemByte_ramWb : (setMemByte s a b).ramWb = s.ramWb := rfl
@[simp] theorem setMemByte_quadRst : (setMemByte s a b).quadRst = s.quadRst := rfl
@[simp] theorem setMemByte_spanId : (setMemByte s a b).spanId = s.spanId := rfl
@[simp] theorem setMemByte_ic : (setMemByte s a b).ic = s.ic := rfl
@[simp] theorem setMemByte_rg : (setMemByte s a b).rg = s.rg := rfl
@[simp] theorem setMemByte_bargeLoaded : (setMemByte s a b).bargeLoaded = s.bargeLoaded := rfl
@[simp] theorem setMemByte_bargeAborts : (setMemByte s a b).bargeAborts = s.bargeAborts := rfl
@[simp] theorem setMemByte_posts : (setMemByte s a b).posts = s.posts := rfl
@[simp] theorem setMemByte_sers : (setMemByte s a b).sers = s.sers := rfl
@[simp] theorem setMemByte_beamTotals : (setMemByte s a b).beamTotals = s.beamTotals := rfl
@[simp] theorem setMemByte_span : (setMemByte s a b).span = s.span := rfl
@[simp] theorem setMemByte_keyDue : (setMemByte s a b).keyDue = s.keyDue := rfl
@[simp] theorem setMemByte_tallies : (setMemByte s a b).tallies = s.tallies := rfl
@[simp] theorem setMemByte_readLatch : (setMemByte s a b).readLatch = s.readLatch := rfl
@[simp] theorem setMemByte_host : (setMemByte s a b).host = s.host := rfl
@[simp] theorem setMemByte_heads : (setMemByte s a b).heads = s.heads := rfl
@[simp] theorem setMemByte_coefs : (setMemByte s a b).coefs = s.coefs := rfl
@[simp] theorem setMemByte_cache : (setMemByte s a b).cache = s.cache := rfl
@[simp] theorem setMemByte_dispBad : (setMemByte s a b).dispBad = s.dispBad := rfl
@[simp] theorem setMemByte_dispOne : (setMemByte s a b).dispOne = s.dispOne := rfl
@[simp] theorem setMemByte_aud : (setMemByte s a b).aud = s.aud := rfl
@[simp] theorem setMemByte_th : (setMemByte s a b).th = s.th := rfl
@[simp] theorem setMemByte_trimAt : (setMemByte s a b).trimAt = s.trimAt := rfl
@[simp] theorem setMemByte_pilAt : (setMemByte s a b).pilAt = s.pilAt := rfl
@[simp] theorem setMemByte_sets : (setMemByte s a b).sets = s.sets := rfl
end

section
variable {s : State} {c : Nat}
@[simp] theorem fire_pending : (fire s c).pending = s.pending := rfl
@[simp] theorem fire_freeCtr : (fire s c).freeCtr = s.freeCtr := rfl
@[simp] theorem fire_clock : (fire s c).clock = s.clock := rfl
@[simp] theorem fire_resp : (fire s c).resp = s.resp := rfl
@[simp] theorem fire_variant : (fire s c).variant = s.variant := rfl
@[simp] theorem fire_regs : (fire s c).regs = s.regs := rfl
@[simp] theorem fire_waiting : (fire s c).waiting = s.waiting := rfl
@[simp] theorem fire_landDue : (fire s c).landDue = s.landDue := rfl
@[simp] theorem fire_tls : (fire s c).tls = s.tls := rfl
@[simp] theorem fire_latches : (fire s c).latches = s.latches := rfl
@[simp] theorem fire_lands : (fire s c).lands = s.lands := rfl
@[simp] theorem fire_eqs : (fire s c).eqs = s.eqs := rfl
@[simp] theorem fire_faultOwn : (fire s c).faultOwn = s.faultOwn := rfl
@[simp] theorem fire_faultFirst : (fire s c).faultFirst = s.faultFirst := rfl
@[simp] theorem fire_engs : (fire s c).engs = s.engs := rfl
@[simp] theorem fire_ram : (fire s c).ram = s.ram := rfl
@[simp] theorem fire_ramWb : (fire s c).ramWb = s.ramWb := rfl
@[simp] theorem fire_quadRst : (fire s c).quadRst = s.quadRst := rfl
@[simp] theorem fire_spanId : (fire s c).spanId = s.spanId := rfl
@[simp] theorem fire_ic : (fire s c).ic = s.ic := rfl
@[simp] theorem fire_rg : (fire s c).rg = s.rg := rfl
@[simp] theorem fire_mem : (fire s c).mem = s.mem := rfl
@[simp] theorem fire_bargeLoaded : (fire s c).bargeLoaded = s.bargeLoaded := rfl
@[simp] theorem fire_bargeAborts : (fire s c).bargeAborts = s.bargeAborts := rfl
@[simp] theorem fire_posts : (fire s c).posts = s.posts := rfl
@[simp] theorem fire_sers : (fire s c).sers = s.sers := rfl
@[simp] theorem fire_beamTotals : (fire s c).beamTotals = s.beamTotals := rfl
@[simp] theorem fire_span : (fire s c).span = s.span := rfl
@[simp] theorem fire_keyDue : (fire s c).keyDue = s.keyDue := rfl
@[simp] theorem fire_tallies : (fire s c).tallies = s.tallies := rfl
@[simp] theorem fire_readLatch : (fire s c).readLatch = s.readLatch := rfl
@[simp] theorem fire_host : (fire s c).host = s.host := rfl
@[simp] theorem fire_heads : (fire s c).heads = s.heads := rfl
@[simp] theorem fire_coefs : (fire s c).coefs = s.coefs := rfl
@[simp] theorem fire_cache : (fire s c).cache = s.cache := rfl
@[simp] theorem fire_dispBad : (fire s c).dispBad = s.dispBad := rfl
@[simp] theorem fire_dispOne : (fire s c).dispOne = s.dispOne := rfl
@[simp] theorem fire_aud : (fire s c).aud = s.aud := rfl
@[simp] theorem fire_th : (fire s c).th = s.th := rfl
@[simp] theorem fire_trimAt : (fire s c).trimAt = s.trimAt := rfl
@[simp] theorem fire_pilAt : (fire s c).pilAt = s.pilAt := rfl
@[simp] theorem fire_sets : (fire s c).sets = s.sets := rfl
end

section
variable {s : State} {b : Nat} {v : Nat}
@[simp] theorem setFaultOwn_pending : (setFaultOwn s b v).pending = s.pending := rfl
@[simp] theorem setFaultOwn_freeCtr : (setFaultOwn s b v).freeCtr = s.freeCtr := rfl
@[simp] theorem setFaultOwn_clock : (setFaultOwn s b v).clock = s.clock := rfl
@[simp] theorem setFaultOwn_resp : (setFaultOwn s b v).resp = s.resp := rfl
@[simp] theorem setFaultOwn_variant : (setFaultOwn s b v).variant = s.variant := rfl
@[simp] theorem setFaultOwn_regs : (setFaultOwn s b v).regs = s.regs := rfl
@[simp] theorem setFaultOwn_waiting : (setFaultOwn s b v).waiting = s.waiting := rfl
@[simp] theorem setFaultOwn_ferryDue : (setFaultOwn s b v).ferryDue = s.ferryDue := rfl
@[simp] theorem setFaultOwn_landDue : (setFaultOwn s b v).landDue = s.landDue := rfl
@[simp] theorem setFaultOwn_tls : (setFaultOwn s b v).tls = s.tls := rfl
@[simp] theorem setFaultOwn_latches : (setFaultOwn s b v).latches = s.latches := rfl
@[simp] theorem setFaultOwn_lands : (setFaultOwn s b v).lands = s.lands := rfl
@[simp] theorem setFaultOwn_eqs : (setFaultOwn s b v).eqs = s.eqs := rfl
@[simp] theorem setFaultOwn_faultFirst : (setFaultOwn s b v).faultFirst = s.faultFirst := rfl
@[simp] theorem setFaultOwn_engs : (setFaultOwn s b v).engs = s.engs := rfl
@[simp] theorem setFaultOwn_ram : (setFaultOwn s b v).ram = s.ram := rfl
@[simp] theorem setFaultOwn_ramWb : (setFaultOwn s b v).ramWb = s.ramWb := rfl
@[simp] theorem setFaultOwn_quadRst : (setFaultOwn s b v).quadRst = s.quadRst := rfl
@[simp] theorem setFaultOwn_spanId : (setFaultOwn s b v).spanId = s.spanId := rfl
@[simp] theorem setFaultOwn_ic : (setFaultOwn s b v).ic = s.ic := rfl
@[simp] theorem setFaultOwn_rg : (setFaultOwn s b v).rg = s.rg := rfl
@[simp] theorem setFaultOwn_mem : (setFaultOwn s b v).mem = s.mem := rfl
@[simp] theorem setFaultOwn_bargeLoaded : (setFaultOwn s b v).bargeLoaded = s.bargeLoaded := rfl
@[simp] theorem setFaultOwn_bargeAborts : (setFaultOwn s b v).bargeAborts = s.bargeAborts := rfl
@[simp] theorem setFaultOwn_posts : (setFaultOwn s b v).posts = s.posts := rfl
@[simp] theorem setFaultOwn_sers : (setFaultOwn s b v).sers = s.sers := rfl
@[simp] theorem setFaultOwn_beamTotals : (setFaultOwn s b v).beamTotals = s.beamTotals := rfl
@[simp] theorem setFaultOwn_span : (setFaultOwn s b v).span = s.span := rfl
@[simp] theorem setFaultOwn_keyDue : (setFaultOwn s b v).keyDue = s.keyDue := rfl
@[simp] theorem setFaultOwn_tallies : (setFaultOwn s b v).tallies = s.tallies := rfl
@[simp] theorem setFaultOwn_readLatch : (setFaultOwn s b v).readLatch = s.readLatch := rfl
@[simp] theorem setFaultOwn_host : (setFaultOwn s b v).host = s.host := rfl
@[simp] theorem setFaultOwn_heads : (setFaultOwn s b v).heads = s.heads := rfl
@[simp] theorem setFaultOwn_coefs : (setFaultOwn s b v).coefs = s.coefs := rfl
@[simp] theorem setFaultOwn_cache : (setFaultOwn s b v).cache = s.cache := rfl
@[simp] theorem setFaultOwn_dispBad : (setFaultOwn s b v).dispBad = s.dispBad := rfl
@[simp] theorem setFaultOwn_dispOne : (setFaultOwn s b v).dispOne = s.dispOne := rfl
@[simp] theorem setFaultOwn_aud : (setFaultOwn s b v).aud = s.aud := rfl
@[simp] theorem setFaultOwn_th : (setFaultOwn s b v).th = s.th := rfl
@[simp] theorem setFaultOwn_trimAt : (setFaultOwn s b v).trimAt = s.trimAt := rfl
@[simp] theorem setFaultOwn_pilAt : (setFaultOwn s b v).pilAt = s.pilAt := rfl
@[simp] theorem setFaultOwn_sets : (setFaultOwn s b v).sets = s.sets := rfl
end

section
variable {s : State} {n : Nat}
@[simp] theorem irqEdge_pending : (irqEdge s n).pending = s.pending := rfl
@[simp] theorem irqEdge_freeCtr : (irqEdge s n).freeCtr = s.freeCtr := rfl
@[simp] theorem irqEdge_clock : (irqEdge s n).clock = s.clock := rfl
@[simp] theorem irqEdge_resp : (irqEdge s n).resp = s.resp := rfl
@[simp] theorem irqEdge_variant : (irqEdge s n).variant = s.variant := rfl
@[simp] theorem irqEdge_regs : (irqEdge s n).regs = s.regs := rfl
@[simp] theorem irqEdge_waiting : (irqEdge s n).waiting = s.waiting := rfl
@[simp] theorem irqEdge_ferryDue : (irqEdge s n).ferryDue = s.ferryDue := rfl
@[simp] theorem irqEdge_landDue : (irqEdge s n).landDue = s.landDue := rfl
@[simp] theorem irqEdge_tls : (irqEdge s n).tls = s.tls := rfl
@[simp] theorem irqEdge_latches : (irqEdge s n).latches = s.latches := rfl
@[simp] theorem irqEdge_lands : (irqEdge s n).lands = s.lands := rfl
@[simp] theorem irqEdge_eqs : (irqEdge s n).eqs = s.eqs := rfl
@[simp] theorem irqEdge_faultOwn : (irqEdge s n).faultOwn = s.faultOwn := rfl
@[simp] theorem irqEdge_faultFirst : (irqEdge s n).faultFirst = s.faultFirst := rfl
@[simp] theorem irqEdge_engs : (irqEdge s n).engs = s.engs := rfl
@[simp] theorem irqEdge_ram : (irqEdge s n).ram = s.ram := rfl
@[simp] theorem irqEdge_ramWb : (irqEdge s n).ramWb = s.ramWb := rfl
@[simp] theorem irqEdge_quadRst : (irqEdge s n).quadRst = s.quadRst := rfl
@[simp] theorem irqEdge_spanId : (irqEdge s n).spanId = s.spanId := rfl
@[simp] theorem irqEdge_rg : (irqEdge s n).rg = s.rg := rfl
@[simp] theorem irqEdge_mem : (irqEdge s n).mem = s.mem := rfl
@[simp] theorem irqEdge_bargeLoaded : (irqEdge s n).bargeLoaded = s.bargeLoaded := rfl
@[simp] theorem irqEdge_bargeAborts : (irqEdge s n).bargeAborts = s.bargeAborts := rfl
@[simp] theorem irqEdge_posts : (irqEdge s n).posts = s.posts := rfl
@[simp] theorem irqEdge_sers : (irqEdge s n).sers = s.sers := rfl
@[simp] theorem irqEdge_beamTotals : (irqEdge s n).beamTotals = s.beamTotals := rfl
@[simp] theorem irqEdge_span : (irqEdge s n).span = s.span := rfl
@[simp] theorem irqEdge_keyDue : (irqEdge s n).keyDue = s.keyDue := rfl
@[simp] theorem irqEdge_tallies : (irqEdge s n).tallies = s.tallies := rfl
@[simp] theorem irqEdge_readLatch : (irqEdge s n).readLatch = s.readLatch := rfl
@[simp] theorem irqEdge_host : (irqEdge s n).host = s.host := rfl
@[simp] theorem irqEdge_heads : (irqEdge s n).heads = s.heads := rfl
@[simp] theorem irqEdge_coefs : (irqEdge s n).coefs = s.coefs := rfl
@[simp] theorem irqEdge_cache : (irqEdge s n).cache = s.cache := rfl
@[simp] theorem irqEdge_dispBad : (irqEdge s n).dispBad = s.dispBad := rfl
@[simp] theorem irqEdge_dispOne : (irqEdge s n).dispOne = s.dispOne := rfl
@[simp] theorem irqEdge_aud : (irqEdge s n).aud = s.aud := rfl
@[simp] theorem irqEdge_th : (irqEdge s n).th = s.th := rfl
@[simp] theorem irqEdge_trimAt : (irqEdge s n).trimAt = s.trimAt := rfl
@[simp] theorem irqEdge_pilAt : (irqEdge s n).pilAt = s.pilAt := rfl
end

section
variable {s : State} {m : Master} {k : Nat} {l : TlLatch}
@[simp] theorem setLatch_pending : (setLatch s m k l).pending = s.pending := rfl
@[simp] theorem setLatch_freeCtr : (setLatch s m k l).freeCtr = s.freeCtr := rfl
@[simp] theorem setLatch_clock : (setLatch s m k l).clock = s.clock := rfl
@[simp] theorem setLatch_resp : (setLatch s m k l).resp = s.resp := rfl
@[simp] theorem setLatch_variant : (setLatch s m k l).variant = s.variant := rfl
@[simp] theorem setLatch_regs : (setLatch s m k l).regs = s.regs := rfl
@[simp] theorem setLatch_waiting : (setLatch s m k l).waiting = s.waiting := rfl
@[simp] theorem setLatch_ferryDue : (setLatch s m k l).ferryDue = s.ferryDue := rfl
@[simp] theorem setLatch_landDue : (setLatch s m k l).landDue = s.landDue := rfl
@[simp] theorem setLatch_tls : (setLatch s m k l).tls = s.tls := rfl
@[simp] theorem setLatch_lands : (setLatch s m k l).lands = s.lands := rfl
@[simp] theorem setLatch_eqs : (setLatch s m k l).eqs = s.eqs := rfl
@[simp] theorem setLatch_faultOwn : (setLatch s m k l).faultOwn = s.faultOwn := rfl
@[simp] theorem setLatch_faultFirst : (setLatch s m k l).faultFirst = s.faultFirst := rfl
@[simp] theorem setLatch_engs : (setLatch s m k l).engs = s.engs := rfl
@[simp] theorem setLatch_ram : (setLatch s m k l).ram = s.ram := rfl
@[simp] theorem setLatch_ramWb : (setLatch s m k l).ramWb = s.ramWb := rfl
@[simp] theorem setLatch_quadRst : (setLatch s m k l).quadRst = s.quadRst := rfl
@[simp] theorem setLatch_spanId : (setLatch s m k l).spanId = s.spanId := rfl
@[simp] theorem setLatch_ic : (setLatch s m k l).ic = s.ic := rfl
@[simp] theorem setLatch_rg : (setLatch s m k l).rg = s.rg := rfl
@[simp] theorem setLatch_mem : (setLatch s m k l).mem = s.mem := rfl
@[simp] theorem setLatch_bargeLoaded : (setLatch s m k l).bargeLoaded = s.bargeLoaded := rfl
@[simp] theorem setLatch_bargeAborts : (setLatch s m k l).bargeAborts = s.bargeAborts := rfl
@[simp] theorem setLatch_posts : (setLatch s m k l).posts = s.posts := rfl
@[simp] theorem setLatch_sers : (setLatch s m k l).sers = s.sers := rfl
@[simp] theorem setLatch_beamTotals : (setLatch s m k l).beamTotals = s.beamTotals := rfl
@[simp] theorem setLatch_span : (setLatch s m k l).span = s.span := rfl
@[simp] theorem setLatch_keyDue : (setLatch s m k l).keyDue = s.keyDue := rfl
@[simp] theorem setLatch_tallies : (setLatch s m k l).tallies = s.tallies := rfl
@[simp] theorem setLatch_readLatch : (setLatch s m k l).readLatch = s.readLatch := rfl
@[simp] theorem setLatch_host : (setLatch s m k l).host = s.host := rfl
@[simp] theorem setLatch_heads : (setLatch s m k l).heads = s.heads := rfl
@[simp] theorem setLatch_coefs : (setLatch s m k l).coefs = s.coefs := rfl
@[simp] theorem setLatch_cache : (setLatch s m k l).cache = s.cache := rfl
@[simp] theorem setLatch_dispBad : (setLatch s m k l).dispBad = s.dispBad := rfl
@[simp] theorem setLatch_dispOne : (setLatch s m k l).dispOne = s.dispOne := rfl
@[simp] theorem setLatch_aud : (setLatch s m k l).aud = s.aud := rfl
@[simp] theorem setLatch_th : (setLatch s m k l).th = s.th := rfl
@[simp] theorem setLatch_trimAt : (setLatch s m k l).trimAt = s.trimAt := rfl
@[simp] theorem setLatch_pilAt : (setLatch s m k l).pilAt = s.pilAt := rfl
@[simp] theorem setLatch_sets : (setLatch s m k l).sets = s.sets := rfl
end

section
variable {s : State} {code : Nat} {data : List Nat}
@[simp] theorem setResp_pending : (setResp s code data).pending = s.pending := rfl
@[simp] theorem setResp_freeCtr : (setResp s code data).freeCtr = s.freeCtr := rfl
@[simp] theorem setResp_clock : (setResp s code data).clock = s.clock := rfl
@[simp] theorem setResp_variant : (setResp s code data).variant = s.variant := rfl
@[simp] theorem setResp_regs : (setResp s code data).regs = s.regs := rfl
@[simp] theorem setResp_waiting : (setResp s code data).waiting = s.waiting := rfl
@[simp] theorem setResp_ferryDue : (setResp s code data).ferryDue = s.ferryDue := rfl
@[simp] theorem setResp_landDue : (setResp s code data).landDue = s.landDue := rfl
@[simp] theorem setResp_tls : (setResp s code data).tls = s.tls := rfl
@[simp] theorem setResp_latches : (setResp s code data).latches = s.latches := rfl
@[simp] theorem setResp_lands : (setResp s code data).lands = s.lands := rfl
@[simp] theorem setResp_eqs : (setResp s code data).eqs = s.eqs := rfl
@[simp] theorem setResp_faultOwn : (setResp s code data).faultOwn = s.faultOwn := rfl
@[simp] theorem setResp_faultFirst : (setResp s code data).faultFirst = s.faultFirst := rfl
@[simp] theorem setResp_engs : (setResp s code data).engs = s.engs := rfl
@[simp] theorem setResp_ram : (setResp s code data).ram = s.ram := rfl
@[simp] theorem setResp_ramWb : (setResp s code data).ramWb = s.ramWb := rfl
@[simp] theorem setResp_quadRst : (setResp s code data).quadRst = s.quadRst := rfl
@[simp] theorem setResp_spanId : (setResp s code data).spanId = s.spanId := rfl
@[simp] theorem setResp_ic : (setResp s code data).ic = s.ic := rfl
@[simp] theorem setResp_rg : (setResp s code data).rg = s.rg := rfl
@[simp] theorem setResp_mem : (setResp s code data).mem = s.mem := rfl
@[simp] theorem setResp_bargeLoaded : (setResp s code data).bargeLoaded = s.bargeLoaded := rfl
@[simp] theorem setResp_bargeAborts : (setResp s code data).bargeAborts = s.bargeAborts := rfl
@[simp] theorem setResp_posts : (setResp s code data).posts = s.posts := rfl
@[simp] theorem setResp_sers : (setResp s code data).sers = s.sers := rfl
@[simp] theorem setResp_beamTotals : (setResp s code data).beamTotals = s.beamTotals := rfl
@[simp] theorem setResp_span : (setResp s code data).span = s.span := rfl
@[simp] theorem setResp_keyDue : (setResp s code data).keyDue = s.keyDue := rfl
@[simp] theorem setResp_tallies : (setResp s code data).tallies = s.tallies := rfl
@[simp] theorem setResp_readLatch : (setResp s code data).readLatch = s.readLatch := rfl
@[simp] theorem setResp_host : (setResp s code data).host = s.host := rfl
@[simp] theorem setResp_heads : (setResp s code data).heads = s.heads := rfl
@[simp] theorem setResp_coefs : (setResp s code data).coefs = s.coefs := rfl
@[simp] theorem setResp_cache : (setResp s code data).cache = s.cache := rfl
@[simp] theorem setResp_dispBad : (setResp s code data).dispBad = s.dispBad := rfl
@[simp] theorem setResp_dispOne : (setResp s code data).dispOne = s.dispOne := rfl
@[simp] theorem setResp_aud : (setResp s code data).aud = s.aud := rfl
@[simp] theorem setResp_th : (setResp s code data).th = s.th := rfl
@[simp] theorem setResp_trimAt : (setResp s code data).trimAt = s.trimAt := rfl
@[simp] theorem setResp_pilAt : (setResp s code data).pilAt = s.pilAt := rfl
@[simp] theorem setResp_sets : (setResp s code data).sets = s.sets := rfl
end

section
variable {s : State} 
@[simp] theorem drew_pending : (drew s).pending = s.pending := rfl
@[simp] theorem drew_clock : (drew s).clock = s.clock := rfl
@[simp] theorem drew_resp : (drew s).resp = s.resp := rfl
@[simp] theorem drew_variant : (drew s).variant = s.variant := rfl
@[simp] theorem drew_regs : (drew s).regs = s.regs := rfl
@[simp] theorem drew_waiting : (drew s).waiting = s.waiting := rfl
@[simp] theorem drew_ferryDue : (drew s).ferryDue = s.ferryDue := rfl
@[simp] theorem drew_landDue : (drew s).landDue = s.landDue := rfl
@[simp] theorem drew_tls : (drew s).tls = s.tls := rfl
@[simp] theorem drew_latches : (drew s).latches = s.latches := rfl
@[simp] theorem drew_lands : (drew s).lands = s.lands := rfl
@[simp] theorem drew_eqs : (drew s).eqs = s.eqs := rfl
@[simp] theorem drew_faultOwn : (drew s).faultOwn = s.faultOwn := rfl
@[simp] theorem drew_faultFirst : (drew s).faultFirst = s.faultFirst := rfl
@[simp] theorem drew_engs : (drew s).engs = s.engs := rfl
@[simp] theorem drew_ram : (drew s).ram = s.ram := rfl
@[simp] theorem drew_ramWb : (drew s).ramWb = s.ramWb := rfl
@[simp] theorem drew_quadRst : (drew s).quadRst = s.quadRst := rfl
@[simp] theorem drew_spanId : (drew s).spanId = s.spanId := rfl
@[simp] theorem drew_ic : (drew s).ic = s.ic := rfl
@[simp] theorem drew_rg : (drew s).rg = s.rg := rfl
@[simp] theorem drew_mem : (drew s).mem = s.mem := rfl
@[simp] theorem drew_bargeLoaded : (drew s).bargeLoaded = s.bargeLoaded := rfl
@[simp] theorem drew_bargeAborts : (drew s).bargeAborts = s.bargeAborts := rfl
@[simp] theorem drew_posts : (drew s).posts = s.posts := rfl
@[simp] theorem drew_sers : (drew s).sers = s.sers := rfl
@[simp] theorem drew_beamTotals : (drew s).beamTotals = s.beamTotals := rfl
@[simp] theorem drew_span : (drew s).span = s.span := rfl
@[simp] theorem drew_keyDue : (drew s).keyDue = s.keyDue := rfl
@[simp] theorem drew_tallies : (drew s).tallies = s.tallies := rfl
@[simp] theorem drew_readLatch : (drew s).readLatch = s.readLatch := rfl
@[simp] theorem drew_host : (drew s).host = s.host := rfl
@[simp] theorem drew_heads : (drew s).heads = s.heads := rfl
@[simp] theorem drew_coefs : (drew s).coefs = s.coefs := rfl
@[simp] theorem drew_cache : (drew s).cache = s.cache := rfl
@[simp] theorem drew_dispBad : (drew s).dispBad = s.dispBad := rfl
@[simp] theorem drew_dispOne : (drew s).dispOne = s.dispOne := rfl
@[simp] theorem drew_aud : (drew s).aud = s.aud := rfl
@[simp] theorem drew_th : (drew s).th = s.th := rfl
@[simp] theorem drew_trimAt : (drew s).trimAt = s.trimAt := rfl
@[simp] theorem drew_pilAt : (drew s).pilAt = s.pilAt := rfl
@[simp] theorem drew_sets : (drew s).sets = s.sets := rfl
end

section
variable {s : State} {en : Bool} {c : Nat}
@[simp] theorem fireIf_pending : (fireIf s en c).pending = s.pending := by unfold fireIf; split <;> rfl
@[simp] theorem fireIf_freeCtr : (fireIf s en c).freeCtr = s.freeCtr := by unfold fireIf; split <;> rfl
@[simp] theorem fireIf_clock : (fireIf s en c).clock = s.clock := by unfold fireIf; split <;> rfl
@[simp] theorem fireIf_resp : (fireIf s en c).resp = s.resp := by unfold fireIf; split <;> rfl
@[simp] theorem fireIf_variant : (fireIf s en c).variant = s.variant := by unfold fireIf; split <;> rfl
@[simp] theorem fireIf_regs : (fireIf s en c).regs = s.regs := by unfold fireIf; split <;> rfl
@[simp] theorem fireIf_waiting : (fireIf s en c).waiting = s.waiting := by unfold fireIf; split <;> rfl
@[simp] theorem fireIf_landDue : (fireIf s en c).landDue = s.landDue := by unfold fireIf; split <;> rfl
@[simp] theorem fireIf_tls : (fireIf s en c).tls = s.tls := by unfold fireIf; split <;> rfl
@[simp] theorem fireIf_latches : (fireIf s en c).latches = s.latches := by unfold fireIf; split <;> rfl
@[simp] theorem fireIf_lands : (fireIf s en c).lands = s.lands := by unfold fireIf; split <;> rfl
@[simp] theorem fireIf_eqs : (fireIf s en c).eqs = s.eqs := by unfold fireIf; split <;> rfl
@[simp] theorem fireIf_faultOwn : (fireIf s en c).faultOwn = s.faultOwn := by unfold fireIf; split <;> rfl
@[simp] theorem fireIf_faultFirst : (fireIf s en c).faultFirst = s.faultFirst := by unfold fireIf; split <;> rfl
@[simp] theorem fireIf_engs : (fireIf s en c).engs = s.engs := by unfold fireIf; split <;> rfl
@[simp] theorem fireIf_ram : (fireIf s en c).ram = s.ram := by unfold fireIf; split <;> rfl
@[simp] theorem fireIf_ramWb : (fireIf s en c).ramWb = s.ramWb := by unfold fireIf; split <;> rfl
@[simp] theorem fireIf_quadRst : (fireIf s en c).quadRst = s.quadRst := by unfold fireIf; split <;> rfl
@[simp] theorem fireIf_spanId : (fireIf s en c).spanId = s.spanId := by unfold fireIf; split <;> rfl
@[simp] theorem fireIf_ic : (fireIf s en c).ic = s.ic := by unfold fireIf; split <;> rfl
@[simp] theorem fireIf_rg : (fireIf s en c).rg = s.rg := by unfold fireIf; split <;> rfl
@[simp] theorem fireIf_mem : (fireIf s en c).mem = s.mem := by unfold fireIf; split <;> rfl
@[simp] theorem fireIf_bargeLoaded : (fireIf s en c).bargeLoaded = s.bargeLoaded := by unfold fireIf; split <;> rfl
@[simp] theorem fireIf_bargeAborts : (fireIf s en c).bargeAborts = s.bargeAborts := by unfold fireIf; split <;> rfl
@[simp] theorem fireIf_posts : (fireIf s en c).posts = s.posts := by unfold fireIf; split <;> rfl
@[simp] theorem fireIf_sers : (fireIf s en c).sers = s.sers := by unfold fireIf; split <;> rfl
@[simp] theorem fireIf_beamTotals : (fireIf s en c).beamTotals = s.beamTotals := by unfold fireIf; split <;> rfl
@[simp] theorem fireIf_span : (fireIf s en c).span = s.span := by unfold fireIf; split <;> rfl
@[simp] theorem fireIf_keyDue : (fireIf s en c).keyDue = s.keyDue := by unfold fireIf; split <;> rfl
@[simp] theorem fireIf_tallies : (fireIf s en c).tallies = s.tallies := by unfold fireIf; split <;> rfl
@[simp] theorem fireIf_readLatch : (fireIf s en c).readLatch = s.readLatch := by unfold fireIf; split <;> rfl
@[simp] theorem fireIf_host : (fireIf s en c).host = s.host := by unfold fireIf; split <;> rfl
@[simp] theorem fireIf_heads : (fireIf s en c).heads = s.heads := by unfold fireIf; split <;> rfl
@[simp] theorem fireIf_coefs : (fireIf s en c).coefs = s.coefs := by unfold fireIf; split <;> rfl
@[simp] theorem fireIf_cache : (fireIf s en c).cache = s.cache := by unfold fireIf; split <;> rfl
@[simp] theorem fireIf_dispBad : (fireIf s en c).dispBad = s.dispBad := by unfold fireIf; split <;> rfl
@[simp] theorem fireIf_dispOne : (fireIf s en c).dispOne = s.dispOne := by unfold fireIf; split <;> rfl
@[simp] theorem fireIf_aud : (fireIf s en c).aud = s.aud := by unfold fireIf; split <;> rfl
@[simp] theorem fireIf_th : (fireIf s en c).th = s.th := by unfold fireIf; split <;> rfl
@[simp] theorem fireIf_trimAt : (fireIf s en c).trimAt = s.trimAt := by unfold fireIf; split <;> rfl
@[simp] theorem fireIf_pilAt : (fireIf s en c).pilAt = s.pilAt := by unfold fireIf; split <;> rfl
@[simp] theorem fireIf_sets : (fireIf s en c).sets = s.sets := by unfold fireIf; split <;> rfl
end

section
variable {s : State} {b : Nat} {i : Nat}
@[simp] theorem raise_pending : (raise s b i).pending = s.pending := by dsimp only [raise]; split <;> rfl
@[simp] theorem raise_freeCtr : (raise s b i).freeCtr = s.freeCtr := by dsimp only [raise]; split <;> rfl
@[simp] theorem raise_clock : (raise s b i).clock = s.clock := by dsimp only [raise]; split <;> rfl
@[simp] theorem raise_resp : (raise s b i).resp = s.resp := by dsimp only [raise]; split <;> rfl
@[simp] theorem raise_variant : (raise s b i).variant = s.variant := by dsimp only [raise]; split <;> rfl
@[simp] theorem raise_regs : (raise s b i).regs = s.regs := by dsimp only [raise]; split <;> rfl
@[simp] theorem raise_waiting : (raise s b i).waiting = s.waiting := by dsimp only [raise]; split <;> rfl
@[simp] theorem raise_ferryDue : (raise s b i).ferryDue = s.ferryDue := by dsimp only [raise]; split <;> rfl
@[simp] theorem raise_landDue : (raise s b i).landDue = s.landDue := by dsimp only [raise]; split <;> rfl
@[simp] theorem raise_tls : (raise s b i).tls = s.tls := by dsimp only [raise]; split <;> rfl
@[simp] theorem raise_latches : (raise s b i).latches = s.latches := by dsimp only [raise]; split <;> rfl
@[simp] theorem raise_lands : (raise s b i).lands = s.lands := by dsimp only [raise]; split <;> rfl
@[simp] theorem raise_eqs : (raise s b i).eqs = s.eqs := by dsimp only [raise]; split <;> rfl
@[simp] theorem raise_faultFirst : (raise s b i).faultFirst = s.faultFirst := by dsimp only [raise]; split <;> rfl
@[simp] theorem raise_engs : (raise s b i).engs = s.engs := by dsimp only [raise]; split <;> rfl
@[simp] theorem raise_ram : (raise s b i).ram = s.ram := by dsimp only [raise]; split <;> rfl
@[simp] theorem raise_ramWb : (raise s b i).ramWb = s.ramWb := by dsimp only [raise]; split <;> rfl
@[simp] theorem raise_quadRst : (raise s b i).quadRst = s.quadRst := by dsimp only [raise]; split <;> rfl
@[simp] theorem raise_spanId : (raise s b i).spanId = s.spanId := by dsimp only [raise]; split <;> rfl
@[simp] theorem raise_ic : (raise s b i).ic = s.ic := by dsimp only [raise]; split <;> rfl
@[simp] theorem raise_rg : (raise s b i).rg = s.rg := by dsimp only [raise]; split <;> rfl
@[simp] theorem raise_mem : (raise s b i).mem = s.mem := by dsimp only [raise]; split <;> rfl
@[simp] theorem raise_bargeLoaded : (raise s b i).bargeLoaded = s.bargeLoaded := by dsimp only [raise]; split <;> rfl
@[simp] theorem raise_bargeAborts : (raise s b i).bargeAborts = s.bargeAborts := by dsimp only [raise]; split <;> rfl
@[simp] theorem raise_posts : (raise s b i).posts = s.posts := by dsimp only [raise]; split <;> rfl
@[simp] theorem raise_sers : (raise s b i).sers = s.sers := by dsimp only [raise]; split <;> rfl
@[simp] theorem raise_beamTotals : (raise s b i).beamTotals = s.beamTotals := by dsimp only [raise]; split <;> rfl
@[simp] theorem raise_span : (raise s b i).span = s.span := by dsimp only [raise]; split <;> rfl
@[simp] theorem raise_keyDue : (raise s b i).keyDue = s.keyDue := by dsimp only [raise]; split <;> rfl
@[simp] theorem raise_tallies : (raise s b i).tallies = s.tallies := by dsimp only [raise]; split <;> rfl
@[simp] theorem raise_readLatch : (raise s b i).readLatch = s.readLatch := by dsimp only [raise]; split <;> rfl
@[simp] theorem raise_host : (raise s b i).host = s.host := by dsimp only [raise]; split <;> rfl
@[simp] theorem raise_heads : (raise s b i).heads = s.heads := by dsimp only [raise]; split <;> rfl
@[simp] theorem raise_coefs : (raise s b i).coefs = s.coefs := by dsimp only [raise]; split <;> rfl
@[simp] theorem raise_cache : (raise s b i).cache = s.cache := by dsimp only [raise]; split <;> rfl
@[simp] theorem raise_dispBad : (raise s b i).dispBad = s.dispBad := by dsimp only [raise]; split <;> rfl
@[simp] theorem raise_dispOne : (raise s b i).dispOne = s.dispOne := by dsimp only [raise]; split <;> rfl
@[simp] theorem raise_aud : (raise s b i).aud = s.aud := by dsimp only [raise]; split <;> rfl
@[simp] theorem raise_th : (raise s b i).th = s.th := by dsimp only [raise]; split <;> rfl
@[simp] theorem raise_trimAt : (raise s b i).trimAt = s.trimAt := by dsimp only [raise]; split <;> rfl
@[simp] theorem raise_pilAt : (raise s b i).pilAt = s.pilAt := by dsimp only [raise]; split <;> rfl
end

section
variable {s : State} {c : Bool} {b : Nat} {i : Nat}
@[simp] theorem raiseIf_pending : (raiseIf s c b i).pending = s.pending := by unfold raiseIf; split <;> simp
@[simp] theorem raiseIf_freeCtr : (raiseIf s c b i).freeCtr = s.freeCtr := by unfold raiseIf; split <;> simp
@[simp] theorem raiseIf_clock : (raiseIf s c b i).clock = s.clock := by unfold raiseIf; split <;> simp
@[simp] theorem raiseIf_resp : (raiseIf s c b i).resp = s.resp := by unfold raiseIf; split <;> simp
@[simp] theorem raiseIf_variant : (raiseIf s c b i).variant = s.variant := by unfold raiseIf; split <;> simp
@[simp] theorem raiseIf_regs : (raiseIf s c b i).regs = s.regs := by unfold raiseIf; split <;> simp
@[simp] theorem raiseIf_waiting : (raiseIf s c b i).waiting = s.waiting := by unfold raiseIf; split <;> simp
@[simp] theorem raiseIf_ferryDue : (raiseIf s c b i).ferryDue = s.ferryDue := by unfold raiseIf; split <;> simp
@[simp] theorem raiseIf_landDue : (raiseIf s c b i).landDue = s.landDue := by unfold raiseIf; split <;> simp
@[simp] theorem raiseIf_tls : (raiseIf s c b i).tls = s.tls := by unfold raiseIf; split <;> simp
@[simp] theorem raiseIf_latches : (raiseIf s c b i).latches = s.latches := by unfold raiseIf; split <;> simp
@[simp] theorem raiseIf_lands : (raiseIf s c b i).lands = s.lands := by unfold raiseIf; split <;> simp
@[simp] theorem raiseIf_eqs : (raiseIf s c b i).eqs = s.eqs := by unfold raiseIf; split <;> simp
@[simp] theorem raiseIf_faultFirst : (raiseIf s c b i).faultFirst = s.faultFirst := by unfold raiseIf; split <;> simp
@[simp] theorem raiseIf_engs : (raiseIf s c b i).engs = s.engs := by unfold raiseIf; split <;> simp
@[simp] theorem raiseIf_ram : (raiseIf s c b i).ram = s.ram := by unfold raiseIf; split <;> simp
@[simp] theorem raiseIf_ramWb : (raiseIf s c b i).ramWb = s.ramWb := by unfold raiseIf; split <;> simp
@[simp] theorem raiseIf_quadRst : (raiseIf s c b i).quadRst = s.quadRst := by unfold raiseIf; split <;> simp
@[simp] theorem raiseIf_spanId : (raiseIf s c b i).spanId = s.spanId := by unfold raiseIf; split <;> simp
@[simp] theorem raiseIf_ic : (raiseIf s c b i).ic = s.ic := by unfold raiseIf; split <;> simp
@[simp] theorem raiseIf_rg : (raiseIf s c b i).rg = s.rg := by unfold raiseIf; split <;> simp
@[simp] theorem raiseIf_mem : (raiseIf s c b i).mem = s.mem := by unfold raiseIf; split <;> simp
@[simp] theorem raiseIf_bargeLoaded : (raiseIf s c b i).bargeLoaded = s.bargeLoaded := by unfold raiseIf; split <;> simp
@[simp] theorem raiseIf_bargeAborts : (raiseIf s c b i).bargeAborts = s.bargeAborts := by unfold raiseIf; split <;> simp
@[simp] theorem raiseIf_posts : (raiseIf s c b i).posts = s.posts := by unfold raiseIf; split <;> simp
@[simp] theorem raiseIf_sers : (raiseIf s c b i).sers = s.sers := by unfold raiseIf; split <;> simp
@[simp] theorem raiseIf_beamTotals : (raiseIf s c b i).beamTotals = s.beamTotals := by unfold raiseIf; split <;> simp
@[simp] theorem raiseIf_span : (raiseIf s c b i).span = s.span := by unfold raiseIf; split <;> simp
@[simp] theorem raiseIf_keyDue : (raiseIf s c b i).keyDue = s.keyDue := by unfold raiseIf; split <;> simp
@[simp] theorem raiseIf_tallies : (raiseIf s c b i).tallies = s.tallies := by unfold raiseIf; split <;> simp
@[simp] theorem raiseIf_readLatch : (raiseIf s c b i).readLatch = s.readLatch := by unfold raiseIf; split <;> simp
@[simp] theorem raiseIf_host : (raiseIf s c b i).host = s.host := by unfold raiseIf; split <;> simp
@[simp] theorem raiseIf_heads : (raiseIf s c b i).heads = s.heads := by unfold raiseIf; split <;> simp
@[simp] theorem raiseIf_coefs : (raiseIf s c b i).coefs = s.coefs := by unfold raiseIf; split <;> simp
@[simp] theorem raiseIf_cache : (raiseIf s c b i).cache = s.cache := by unfold raiseIf; split <;> simp
@[simp] theorem raiseIf_dispBad : (raiseIf s c b i).dispBad = s.dispBad := by unfold raiseIf; split <;> simp
@[simp] theorem raiseIf_dispOne : (raiseIf s c b i).dispOne = s.dispOne := by unfold raiseIf; split <;> simp
@[simp] theorem raiseIf_aud : (raiseIf s c b i).aud = s.aud := by unfold raiseIf; split <;> simp
@[simp] theorem raiseIf_th : (raiseIf s c b i).th = s.th := by unfold raiseIf; split <;> simp
@[simp] theorem raiseIf_trimAt : (raiseIf s c b i).trimAt = s.trimAt := by unfold raiseIf; split <;> simp
@[simp] theorem raiseIf_pilAt : (raiseIf s c b i).pilAt = s.pilAt := by unfold raiseIf; split <;> simp
end

end Sys2Proof.Machine
end

