-- ==== Sys2Proof/Laws/Ops.lean ====
section
/-! SUPPORT. Bit fields, registers and units: what a read finds after a write. -/

namespace Sys2Proof.Machine

/-! ### Bit fields -/

theorem testBit_bits (w hi lo i : Nat) : (bits w hi lo).testBit i = (decide (i < hi + 1 - lo) && w.testBit (lo + i)) := by
  rw [bits, Nat.testBit_mod_two_pow, Nat.testBit_div_two_pow, Nat.add_comm i lo]

theorem testBit_setBits {w hi lo v : Nat} (h : lo ≤ hi + 1) (i : Nat) :
    (setBits w hi lo v).testBit i = if lo ≤ i ∧ i ≤ hi then v.testBit (i - lo) else w.testBit i := by
  have e : setBits w hi lo v =
      2 ^ lo * (2 ^ (hi + 1 - lo) * (w / 2 ^ (hi + 1)) + v % 2 ^ (hi + 1 - lo)) + w % 2 ^ lo := by
    have : (2 : Nat) ^ (hi + 1) = 2 ^ lo * 2 ^ (hi + 1 - lo) := by rw [← Nat.pow_add]; congr 1; omega
    rw [setBits, Nat.mul_add, ← Nat.mul_assoc, ← this, Nat.mul_comm (w / _), Nat.mul_comm (v % _)]
  rw [e, Nat.testBit_two_pow_mul_add _ (Nat.mod_lt _ (Nat.two_pow_pos _))]
  by_cases h1 : i < lo
  · rw [if_pos h1, if_neg (by omega), Nat.testBit_mod_two_pow]; simp [h1]
  · rw [if_neg h1, Nat.testBit_two_pow_mul_add _ (Nat.mod_lt _ (Nat.two_pow_pos _))]
    by_cases h2 : i ≤ hi
    · rw [if_pos (show i - lo < hi + 1 - lo by omega), if_pos ⟨by omega, h2⟩, Nat.testBit_mod_two_pow]
      simp [show i - lo < hi + 1 - lo by omega]
    · rw [if_neg (show ¬ i - lo < hi + 1 - lo by omega), if_neg (by omega), Nat.testBit_div_two_pow]
      congr 1; omega

theorem bits_setBits_self {w hi lo v : Nat} (h : lo ≤ hi + 1) : bits (setBits w hi lo v) hi lo = v % 2 ^ (hi + 1 - lo) := by
  apply Nat.eq_of_testBit_eq
  intro i
  rw [testBit_bits, testBit_setBits h, Nat.testBit_mod_two_pow]
  by_cases hi' : i < hi + 1 - lo
  · rw [if_pos (by omega)]; simp [hi', Nat.add_sub_cancel_left]
  · simp [hi']

theorem bits_setBits_off {w hi lo v h2 l2 : Nat} (h : lo ≤ hi + 1) (hd : h2 < lo ∨ hi < l2) :
    bits (setBits w hi lo v) h2 l2 = bits w h2 l2 := by
  apply Nat.eq_of_testBit_eq
  intro i
  rw [testBit_bits, testBit_bits, testBit_setBits h]
  by_cases hi' : i < h2 + 1 - l2
  · rw [if_neg (by omega)]
  · simp [hi']

theorem bits_lt (w hi lo : Nat) : bits w hi lo < 2 ^ (hi + 1 - lo) := Nat.mod_lt _ (Nat.two_pow_pos _)

theorem setBits_lt {w hi lo v n : Nat} (h : lo ≤ hi + 1) (hn : hi < n) (hw : w < 2 ^ n) : setBits w hi lo v < 2 ^ n := by
  apply Nat.lt_pow_two_of_testBit
  intro i hi'
  rw [testBit_setBits h, if_neg (by omega)]
  exact Nat.testBit_lt_two_pow (Nat.lt_of_lt_of_le hw (Nat.pow_le_pow_right (by omega) hi'))

/-! ### Registers -/

@[simp] theorem rget_rput_self {s : State} {off : Nat} {v : Dword} : rget (rput s off v) off = v := by
  simp [rget, rput]

theorem rget_rput_ne {s : State} {off o : Nat} {v : Dword} (h : o ≠ off) : rget (rput s off v) o = rget s o := by
  unfold rget rput
  exact Sparse.get_put_ne h

/-- The word that a register holds after a write of a field. -/
theorem rget_fset_self {s : State} {f : FieldAt} {v : Nat} (h : f.lo ≤ f.hi) (hi : f.hi < 32) :
    (rget (fset s f v) f.off).toNat = setBits (rget s f.off).toNat f.hi f.lo v := by
  rw [fset, rget_rput_self, BitVec.toNat_ofNat]
  exact Nat.mod_eq_of_lt (setBits_lt (by omega) hi (rget s f.off).isLt)

theorem fget_fset_self {s : State} {f : FieldAt} {v : Nat} (h : f.lo ≤ f.hi) (hi : f.hi < 32) :
    fget (fset s f v) f = v % 2 ^ (f.hi + 1 - f.lo) := by
  rw [fget, rget_fset_self h hi, bits_setBits_self (by omega)]

theorem fget_fset_far {s : State} {f g : FieldAt} {v : Nat} (h : g.off ≠ f.off) : fget (fset s f v) g = fget s g := by
  rw [fget, fset, rget_rput_ne h, fget]

theorem fget_fset_off {s : State} {f g : FieldAt} {v : Nat} (h : f.lo ≤ f.hi) (hi : f.hi < 32)
    (hd : g.off ≠ f.off ∨ g.hi < f.lo ∨ f.hi < g.lo) : fget (fset s f v) g = fget s g := by
  by_cases ho : g.off = f.off
  · rw [fget, fget, ho, rget_fset_self h hi, bits_setBits_off (by omega) (by omega)]
  · exact fget_fset_far ho

/-! ### Units -/

@[simp] theorem tlOf_setTl_self {s : State} {k : Nat} {u : TlUnit} : tlOf (setTl s k u) k = u := Sparse.get_put_self
@[simp] theorem landOf_setLand_self {s : State} {n : Nat} {u : LandUnit} : landOf (setLand s n u) n = u :=
  Sparse.get_put_self
@[simp] theorem eqOf_setEq_self {s : State} {n : Nat} {u : EqUnit} : eqOf (setEq s n u) n = u := Sparse.get_put_self
@[simp] theorem engOf_setEng_self {s : State} {e : Nat} {u : Eng} : engOf (setEng s e u) e = u := Sparse.get_put_self
@[simp] theorem postOf_setPost_self {s : State} {n : Nat} {u : PostUnit} : postOf (setPost s n u) n = u :=
  Sparse.get_put_self
@[simp] theorem serOf_setSer_self {s : State} {p : Nat} {u : SerUnit} : serOf (setSer s p u) p = u := Sparse.get_put_self
@[simp] theorem tallyOf_setTally_self {s : State} {k : Nat} {u : TallyUnit} : tallyOf (setTally s k u) k = u :=
  Sparse.get_put_self
@[simp] theorem granOf_setGran_self {s : State} {k : Nat} {g : Granule} : granOf (setGran s k g) k = g :=
  Sparse.get_put_self
@[simp] theorem headOf_setHead_self {s : State} {h : Nat} {u : HeadUnit} : headOf (setHead s h u) h = u :=
  Sparse.get_put_self

theorem tlOf_setTl_ne {s : State} {k j : Nat} {u : TlUnit} (h : j ≠ k) : tlOf (setTl s k u) j = tlOf s j :=
  Sparse.get_put_ne h
theorem landOf_setLand_ne {s : State} {n j : Nat} {u : LandUnit} (h : j ≠ n) : landOf (setLand s n u) j = landOf s j :=
  Sparse.get_put_ne h
theorem eqOf_setEq_ne {s : State} {n j : Nat} {u : EqUnit} (h : j ≠ n) : eqOf (setEq s n u) j = eqOf s j :=
  Sparse.get_put_ne h
theorem engOf_setEng_ne {s : State} {e j : Nat} {u : Eng} (h : j ≠ e) : engOf (setEng s e u) j = engOf s j :=
  Sparse.get_put_ne h
theorem granOf_setGran_ne {s : State} {k j : Nat} {g : Granule} (h : j ≠ k) : granOf (setGran s k g) j = granOf s j :=
  Sparse.get_put_ne h
theorem headOf_setHead_ne {s : State} {h j : Nat} {u : HeadUnit} (hj : j ≠ h) : headOf (setHead s h u) j = headOf s j :=
  Sparse.get_put_ne hj

/-! ### General registers of an engine (R110) -/

@[simp] theorem greg_zero {u : Eng} : greg u 0 = 0 := rfl

theorem greg_gput {u : Eng} {r q : Nat} {v : Word} : greg (gput u r v) q = if q = r ∧ r ≠ 0 then v else greg u q := by
  by_cases hr : r = 0
  · simp [gput, hr]
  · by_cases hq : q = 0
    · have : ¬ (0 = r) := fun e => hr e.symm
      simp [greg, hq, this]
    · simp only [greg, gput, hr, hq, ↓reduceIte, Sparse.get_put]
      by_cases h : q = r <;> simp [h, hr]

/-! ### Faults (R19) -/

theorem faultOwn_setFaultOwn {s : State} {b c v : Nat} :
    faultOwn (setFaultOwn s b v) c = if c = b then v else faultOwn s c := Sparse.get_put

end Sys2Proof.Machine
end

