-- ==== Sys2Proof/Laws/Engine.lean ====
section
/-! SUPPORT. The issue of an engine instruction, said once: what follows from what its body answers. -/

namespace Sys2Proof.Machine

/-- What an instruction of `n` words leaves, by what its body answered. -/
def runEnd (s : State) (e n : Nat) : Run → State
  | .next t ws ls d => engFinish t e (engOf s e) n ws ls none none none d
  | .leave t rd a => engFinish t e (engOf s e) n [] [] (some (rd, a)) none none none
  | .branch t tk l =>
    engFinish (fetchWords s e (engOf s e).pc n).2 e (engOf s e) n [] [] none
      (some { addr := (engOf s e).pc, target := t, taken := tk, link := l, pt := false }) none none
  | .jump t p => engFinish t e (engOf s e) n [] [] none none (some p) none
  | .sleep rd m => setEng (fetchWords s e (engOf s e).pc n).2 e { engOf s e with sleep := some (rd, m) }
  | .fault t c a => if loadsOut (engOf s e) then s else engFault t e (engOf s e) c a
  | .trap k => if loadsOut (engOf s e) then s else engTrap (fetchWords s e (engOf s e).pc n).2 e (engOf s e) k
  | .rete => if loadsOut (engOf s e) then s else engRete (fetchWords s e (engOf s e).pc n).2 e (engOf s e)
  | .halt =>
    if loadsOut (engOf s e) then s
    else engFinish (setEng (fetchWords s e (engOf s e).pc n).2 e { engOf s e with stopDue := true }) e (engOf s e) n [] []
      none none none none
  | .stall => s

theorem canIssue_iff {s : State} {e n : Nat} : canIssue s e n = true ↔ engReady s e = true ∧ engDue (engOf s e) = false ∧
    ((engOf s e).skipSlot && (engOf s e).branch.isSome) = false ∧ (fetchWords s e (engOf s e).pc n).1 = none ∧
    spelled s e (engOf s e).pc = true := by
  simp only [canIssue, fetched, Bool.and_eq_true, Bool.not_eq_true', Option.isNone_iff_eq_none, and_assoc]

/-- An instruction that can issue: the faults of its shape in the order of R156, then its body. -/
theorem engIssue_eq {s : State} {e : Nat} {sh : Shape} {body : State → Eng → Run} (h : canIssue s e sh.size = true) :
    engIssue s e sh body = runEnd s e sh.size
      (if sh.unimpl then .fault (fetchWords s e (engOf s e).pc sh.size).2 1 (engOf s e).pc
       else if sh.banned && !boundaryFree (engOf s e) then .fault (fetchWords s e (engOf s e).pc sh.size).2 3 (engOf s e).pc
       else if sh.priv then .fault (fetchWords s e (engOf s e).pc sh.size).2 2 (engOf s e).pc
       else body (issuing s e sh.size) (slotView (engOf s e) sh.size)) := by
  obtain ⟨h1, h2, h3, h4, h5⟩ := canIssue_iff.mp h
  simp only [engIssue, h1, h2, h3, Bool.not_true, Bool.false_eq_true, ↓reduceIte]
  have : engAttempt s e (engOf s e) sh body =
      (if sh.unimpl then .fault (fetchWords s e (engOf s e).pc sh.size).2 1 (engOf s e).pc
       else if sh.banned && !boundaryFree (engOf s e) then .fault (fetchWords s e (engOf s e).pc sh.size).2 3 (engOf s e).pc
       else if sh.priv then .fault (fetchWords s e (engOf s e).pc sh.size).2 2 (engOf s e).pc
       else body (issuing s e sh.size) (slotView (engOf s e) sh.size)) := by
    simp only [engAttempt, h4, h5, Bool.not_true, Bool.or_false]
    rfl
  rw [this]
  split <;> rename_i q <;> simp only [q, runEnd]

/-- An instruction that may stand anywhere and that every level may issue. -/
theorem plain_issue {s : State} {e n : Nat} {body : State → Eng → Run} (h : canIssue s e n = true) :
    engIssue s e (plainShape n false) body = runEnd s e n (body (issuing s e n) (slotView (engOf s e) n)) := by
  rw [engIssue_eq (sh := plainShape n false) h]
  rfl

/-- Words that the spec marks Unimplemented. -/
theorem unimpl_issue {s : State} {e n : Nat} {b p : Bool} {body : State → Eng → Run} (h : canIssue s e n = true)
    (hl : loadsOut (engOf s e) = false) :
    engIssue s e { size := n, banned := b, unimpl := true, priv := p } body =
      engFault (fetchWords s e (engOf s e).pc n).2 e (engOf s e) 1 (engOf s e).pc := by
  rw [engIssue_eq (sh := { size := n, banned := b, unimpl := true, priv := p }) h]
  simp [runEnd, hl]

/-- A control transfer, outside a slot and a shadow. -/
theorem barred_issue {s : State} {e n : Nat} {body : State → Eng → Run} (h : canIssue s e n = true)
    (hb : boundaryFree (engOf s e) = true) :
    engIssue s e (barredShape n false false) body = runEnd s e n (body (issuing s e n) (slotView (engOf s e) n)) := by
  rw [engIssue_eq (sh := barredShape n false false) h]
  simp [barredShape, hb]

end Sys2Proof.Machine
end

