-- ==== Sys2Proof/Laws/RegMap.lean ====
section
/-! SUPPORT. Where the map lists a register: one lemma per block of one repetition, for every register of it, and the
registers of the head pages and quad pages that commands name. -/

namespace Sys2Proof.Machine

/-- The bytes from its start that a register, or a repetition, takes. -/
def RegMap.span : List (Nat × Nat) → Nat
  | [] => 1
  | p :: _ => p.1 * p.2

theorem RegMap.peel_none {p : Nat × Nat} {t : List (Nat × Nat)} {r : Nat} (h : p.1 * p.2 ≤ r) (h0 : 0 < p.2) :
    RegMap.peel (p :: t) r = none := by
  have : ¬ r / p.2 < p.1 := by
    rw [Nat.div_lt_iff_lt_mul h0]; omega
  simp [RegMap.peel, this]

/-- Where a block's registers can lie. -/
def RegMap.lowOf (b : Block) : Nat :=
  match b.idx with
  | [] => b.base + b.regs.foldr (fun d a => min d.off a) 0x4000000
  | _ => b.base

def RegMap.highOf (b : Block) : Nat :=
  match b.idx with
  | [] => b.base + b.regs.foldr (fun d a => max (d.off + RegMap.span d.idx) a) 0
  | p :: _ => b.base + p.1 * p.2

def RegMap.strided (b : Block) : Bool :=
  (match b.idx with
    | [] => true
    | p :: _ => decide (0 < p.2)) && b.regs.all fun d => match d.idx with
    | [] => true
    | p :: _ => decide (0 < p.2)

theorem RegMap.findReg_none {r : Nat} : ∀ {l : List RegDef},
    (∀ d ∈ l, r < d.off ∨ (d.off + RegMap.span d.idx ≤ r ∧ ∀ p t, d.idx = p :: t → 0 < p.2)) → RegMap.findReg r l = none
  | [], _ => rfl
  | d :: t, h => by
    have ht := RegMap.findReg_none (r := r) (l := t) fun d hd => h d (List.mem_cons_of_mem _ hd)
    rcases h d List.mem_cons_self with hd | ⟨hd, hp⟩
    · simp [RegMap.findReg, ht, Nat.not_le.mpr hd]
    · by_cases hle : d.off ≤ r
      · cases hi : d.idx with
        | nil =>
          have : r - d.off ≠ 0 := by simp [hi, RegMap.span] at hd; omega
          simp only [RegMap.findReg, hle, ↓reduceIte, hi, RegMap.peel]
          cases hr : r - d.off with
          | zero => exact absurd hr this
          | succ n => simpa using ht
        | cons p q =>
          have : RegMap.peel (p :: q) (r - d.off) = none :=
            RegMap.peel_none (by simp [hi, RegMap.span] at hd; omega) (hp p q hi)
          simp [RegMap.findReg, hle, hi, this, ht]
      · simp [RegMap.findReg, hle, ht]

theorem RegMap.low_le {d : RegDef} {n : Nat} : ∀ {l : List RegDef}, d ∈ l → l.foldr (fun d a => min d.off a) n ≤ d.off
  | [], h => by cases h
  | e :: t, h => by
    simp only [List.foldr_cons]
    rcases List.mem_cons.mp h with rfl | h
    · omega
    · have := RegMap.low_le (n := n) h; omega

theorem RegMap.le_high {d : RegDef} : ∀ {l : List RegDef}, d ∈ l →
    d.off + RegMap.span d.idx ≤ l.foldr (fun d a => max (d.off + RegMap.span d.idx) a) 0
  | [], h => by cases h
  | e :: t, h => by
    simp only [List.foldr_cons]
    rcases List.mem_cons.mp h with rfl | h
    · omega
    · have := RegMap.le_high h; omega

/-- A block lists nothing outside its bytes. -/
theorem RegMap.inBlock_none {b : Block} {off : Nat} (hs : RegMap.strided b = true)
    (h : off < RegMap.lowOf b ∨ RegMap.highOf b ≤ off) : RegMap.inBlock b off = none := by
  unfold RegMap.inBlock
  split
  next hb =>
    cases hi : b.idx with
    | nil =>
      simp only [RegMap.peel]
      rw [RegMap.findReg_none]; · rfl
      intro d hd
      have h1 := RegMap.low_le (n := 0x4000000) hd
      have h2 := RegMap.le_high hd
      simp only [RegMap.lowOf, RegMap.highOf, hi] at h
      simp only [RegMap.strided, Bool.and_eq_true, List.all_eq_true] at hs
      have h3 := hs.2 d hd
      rcases h with h | h
      · left; omega
      · right
        refine ⟨by omega, fun p t hp => ?_⟩
        simpa [hp] using h3
    | cons p t =>
      simp only [RegMap.strided, hi, Bool.and_eq_true, decide_eq_true_eq] at hs
      simp only [RegMap.lowOf, RegMap.highOf, hi] at h
      rw [hi] at *
      rw [RegMap.peel_none (by omega) hs.1]
  next => rfl

/-- The blocks before the one that lists an offset do not list it. -/
theorem RegMap.find_skip {l m : List Block} {off : Nat} {h : RegHit} (hl : ∀ b ∈ l, RegMap.inBlock b off = none)
    (hm : RegMap.find m off = some h) : RegMap.find (l ++ m) off = some h := by
  induction l with
  | nil => exact hm
  | cons b t ih =>
    rw [List.cons_append, RegMap.find, hl b List.mem_cons_self]
    exact ih fun x hx => hl x (List.mem_cons_of_mem _ hx)

/-- The bytes of every block. -/
def RegMap.away (l : List Block) (lo hi : Nat) : Bool :=
  l.all fun b => RegMap.strided b && (decide (hi ≤ RegMap.lowOf b) || decide (RegMap.highOf b ≤ lo))

theorem RegMap.find_away {l m : List Block} {lo hi off : Nat} {h : RegHit} (ha : RegMap.away l lo hi = true)
    (h1 : lo ≤ off) (h2 : off < hi) (hm : RegMap.find m off = some h) : RegMap.find (l ++ m) off = some h := by
  refine RegMap.find_skip (fun b hb => ?_) hm
  have := List.all_eq_true.mp ha b hb
  simp only [Bool.and_eq_true, Bool.or_eq_true, decide_eq_true_eq] at this
  exact RegMap.inBlock_none this.1 (by omega)

theorem RegMap.lookup_at {k lo hi off : Nat} {b : Block} {m : List Block} {h : RegHit}
    (ha : RegMap.away (RegMap.blocks.take k) lo hi = true) (hd : RegMap.blocks.drop k = b :: m)
    (h1 : lo ≤ off) (h2 : off < hi) (hm : RegMap.inBlock b off = some h) : RegMap.lookup off = some h := by
  rw [RegMap.lookup, ← List.take_append_drop k RegMap.blocks]
  refine RegMap.find_away ha h1 h2 ?_
  rw [hd, RegMap.find, hm]

theorem RegMap.inBlock_one {b : Block} {c st n r off : Nat} {d : RegDef} {ix : List Nat} (hi : b.idx = [(c, st)])
    (ho : off = b.base + st * n + r) (hr : r < st) (hn : n < c) (hf : RegMap.findReg r b.regs = some (d, ix)) :
    RegMap.inBlock b off = some { blk := b, idx := [n], reg := d, ridx := ix } := by
  have h1 : off - b.base = st * n + r := by omega
  have h2 : (st * n + r) / st = n := by
    rw [Nat.mul_add_div (by omega), Nat.div_eq_of_lt hr]; rfl
  have h3 : (st * n + r) % st = r := by rw [Nat.mul_add_mod, Nat.mod_eq_of_lt hr]
  have h4 : b.base ≤ off := by omega
  simp only [RegMap.inBlock, if_pos h4, hi, h1, RegMap.peel, h2, if_pos hn, h3, Option.map_some, hf]

theorem RegMap.lookup_faceHall {n r off : Nat} {d : RegDef} {ix : List Nat} (hn : n < 8) (hr : r < 0x1000)
    (hf : RegMap.findReg r RegMap.faceHall.regs = some (d, ix)) (ho : off = 0x10000 + 0x1000 * n + r) :
    RegMap.lookup off = some { blk := RegMap.faceHall, idx := [n], reg := d, ridx := ix } :=
  RegMap.lookup_at (k := 3) (lo := 0x10000) (hi := 0x18000) (by decide +kernel) rfl (by omega) (by omega)
    (RegMap.inBlock_one rfl ho hr hn hf)

theorem RegMap.lookup_tl {n r off : Nat} {d : RegDef} {ix : List Nat} (hn : n < 32) (hr : r < 0x100)
    (hf : RegMap.findReg r RegMap.tl.regs = some (d, ix)) (ho : off = 0x20000 + 0x100 * n + r) :
    RegMap.lookup off = some { blk := RegMap.tl, idx := [n], reg := d, ridx := ix } :=
  RegMap.lookup_at (k := 6) (lo := 0x20000) (hi := 0x22000) (by decide +kernel) rfl (by omega) (by omega)
    (RegMap.inBlock_one rfl ho hr hn hf)

theorem RegMap.lookup_l {n r off : Nat} {d : RegDef} {ix : List Nat} (hn : n < 512) (hr : r < 0x40)
    (hf : RegMap.findReg r RegMap.l.regs = some (d, ix)) (ho : off = 0x40000 + 0x40 * n + r) :
    RegMap.lookup off = some { blk := RegMap.l, idx := [n], reg := d, ridx := ix } :=
  RegMap.lookup_at (k := 7) (lo := 0x40000) (hi := 0x48000) (by decide +kernel) rfl (by omega) (by omega)
    (RegMap.inBlock_one rfl ho hr hn hf)

theorem RegMap.lookup_eq {n r off : Nat} {d : RegDef} {ix : List Nat} (hn : n < 1024) (hr : r < 0x40)
    (hf : RegMap.findReg r RegMap.eq.regs = some (d, ix)) (ho : off = 0x60000 + 0x40 * n + r) :
    RegMap.lookup off = some { blk := RegMap.eq, idx := [n], reg := d, ridx := ix } :=
  RegMap.lookup_at (k := 8) (lo := 0x60000) (hi := 0x70000) (by decide +kernel) rfl (by omega) (by omega)
    (RegMap.inBlock_one rfl ho hr hn hf)

theorem RegMap.lookup_c {n r off : Nat} {d : RegDef} {ix : List Nat} (hn : n < 256) (hr : r < 0x20)
    (hf : RegMap.findReg r RegMap.c.regs = some (d, ix)) (ho : off = 0x30000 + 0x20 * n + r) :
    RegMap.lookup off = some { blk := RegMap.c, idx := [n], reg := d, ridx := ix } :=
  RegMap.lookup_at (k := 9) (lo := 0x30000) (hi := 0x32000) (by decide +kernel) rfl (by omega) (by omega)
    (RegMap.inBlock_one rfl ho hr hn hf)

theorem RegMap.lookup_ti {n r off : Nat} {d : RegDef} {ix : List Nat} (hn : n < 128) (hr : r < 0x40)
    (hf : RegMap.findReg r RegMap.ti.regs = some (d, ix)) (ho : off = 0x34000 + 0x40 * n + r) :
    RegMap.lookup off = some { blk := RegMap.ti, idx := [n], reg := d, ridx := ix } :=
  RegMap.lookup_at (k := 10) (lo := 0x34000) (hi := 0x36000) (by decide +kernel) rfl (by omega) (by omega)
    (RegMap.inBlock_one rfl ho hr hn hf)

theorem RegMap.lookup_v {n r off : Nat} {d : RegDef} {ix : List Nat} (hn : n < 512) (hr : r < 0x80)
    (hf : RegMap.findReg r RegMap.v.regs = some (d, ix)) (ho : off = 0xd0000 + 0x80 * n + r) :
    RegMap.lookup off = some { blk := RegMap.v, idx := [n], reg := d, ridx := ix } :=
  RegMap.lookup_at (k := 19) (lo := 0xd0000) (hi := 0xe0000) (by decide +kernel) rfl (by omega) (by omega)
    (RegMap.inBlock_one rfl ho hr hn hf)

theorem RegMap.lookup_bus {n r off : Nat} {d : RegDef} {ix : List Nat} (hn : n < 32) (hr : r < 0x40)
    (hf : RegMap.findReg r RegMap.bus.regs = some (d, ix)) (ho : off = 0xc1000 + 0x40 * n + r) :
    RegMap.lookup off = some { blk := RegMap.bus, idx := [n], reg := d, ridx := ix } :=
  RegMap.lookup_at (k := 20) (lo := 0xc1000) (hi := 0xc1800) (by decide +kernel) rfl (by omega) (by omega)
    (RegMap.inBlock_one rfl ho hr hn hf)

theorem RegMap.lookup_port {n r off : Nat} {d : RegDef} {ix : List Nat} (hn : n < 16) (hr : r < 0x40)
    (hf : RegMap.findReg r RegMap.port.regs = some (d, ix)) (ho : off = 0xc2000 + 0x40 * n + r) :
    RegMap.lookup off = some { blk := RegMap.port, idx := [n], reg := d, ridx := ix } :=
  RegMap.lookup_at (k := 21) (lo := 0xc2000) (hi := 0xc2400) (by decide +kernel) rfl (by omega) (by omega)
    (RegMap.inBlock_one rfl ho hr hn hf)

theorem RegMap.lookup_dpa {n r off : Nat} {d : RegDef} {ix : List Nat} (hn : n < 4) (hr : r < 0x40)
    (hf : RegMap.findReg r RegMap.dpa.regs = some (d, ix)) (ho : off = 0xc2800 + 0x40 * n + r) :
    RegMap.lookup off = some { blk := RegMap.dpa, idx := [n], reg := d, ridx := ix } :=
  RegMap.lookup_at (k := 23) (lo := 0xc2800) (hi := 0xc2900) (by decide +kernel) rfl (by omega) (by omega)
    (RegMap.inBlock_one rfl ho hr hn hf)

theorem RegMap.lookup_inp {n r off : Nat} {d : RegDef} {ix : List Nat} (hn : n < 32) (hr : r < 0x20)
    (hf : RegMap.findReg r RegMap.inp.regs = some (d, ix)) (ho : off = 0xc3000 + 0x20 * n + r) :
    RegMap.lookup off = some { blk := RegMap.inp, idx := [n], reg := d, ridx := ix } :=
  RegMap.lookup_at (k := 24) (lo := 0xc3000) (hi := 0xc3400) (by decide +kernel) rfl (by omega) (by omega)
    (RegMap.inBlock_one rfl ho hr hn hf)

theorem RegMap.lookup_post {n r off : Nat} {d : RegDef} {ix : List Nat} (hn : n < 1024) (hr : r < 0x80)
    (hf : RegMap.findReg r RegMap.post.regs = some (d, ix)) (ho : off = 0x100000 + 0x80 * n + r) :
    RegMap.lookup off = some { blk := RegMap.post, idx := [n], reg := d, ridx := ix } :=
  RegMap.lookup_at (k := 25) (lo := 0x100000) (hi := 0x120000) (by decide +kernel) rfl (by omega) (by omega)
    (RegMap.inBlock_one rfl ho hr hn hf)

theorem RegMap.lookup_prt {n r off : Nat} {d : RegDef} {ix : List Nat} (hn : n < 32) (hr : r < 0x1000)
    (hf : RegMap.findReg r RegMap.prt.regs = some (d, ix)) (ho : off = 0x120000 + 0x1000 * n + r) :
    RegMap.lookup off = some { blk := RegMap.prt, idx := [n], reg := d, ridx := ix } :=
  RegMap.lookup_at (k := 26) (lo := 0x120000) (hi := 0x140000) (by decide +kernel) rfl (by omega) (by omega)
    (RegMap.inBlock_one rfl ho hr hn hf)

theorem RegMap.lookup_pil {n r off : Nat} {d : RegDef} {ix : List Nat} (hn : n < 32) (hr : r < 0x10)
    (hf : RegMap.findReg r RegMap.pil.regs = some (d, ix)) (ho : off = 0x140000 + 0x10 * n + r) :
    RegMap.lookup off = some { blk := RegMap.pil, idx := [n], reg := d, ridx := ix } :=
  RegMap.lookup_at (k := 27) (lo := 0x140000) (hi := 0x140200) (by decide +kernel) rfl (by omega) (by omega)
    (RegMap.inBlock_one rfl ho hr hn hf)

theorem RegMap.lookup_k {n r off : Nat} {d : RegDef} {ix : List Nat} (hn : n < 32) (hr : r < 0x100)
    (hf : RegMap.findReg r RegMap.k.regs = some (d, ix)) (ho : off = 0xf0000 + 0x100 * n + r) :
    RegMap.lookup off = some { blk := RegMap.k, idx := [n], reg := d, ridx := ix } :=
  RegMap.lookup_at (k := 28) (lo := 0xf0000) (hi := 0xf2000) (by decide +kernel) rfl (by omega) (by omega)
    (RegMap.inBlock_one rfl ho hr hn hf)

theorem RegMap.lookup_mc {n r off : Nat} {d : RegDef} {ix : List Nat} (hn : n < 4) (hr : r < 0x100)
    (hf : RegMap.findReg r RegMap.mc.regs = some (d, ix)) (ho : off = 0x160100 + 0x100 * n + r) :
    RegMap.lookup off = some { blk := RegMap.mc, idx := [n], reg := d, ridx := ix } :=
  RegMap.lookup_at (k := 30) (lo := 0x160100) (hi := 0x160500) (by decide +kernel) rfl (by omega) (by omega)
    (RegMap.inBlock_one rfl ho hr hn hf)

theorem RegMap.lookup_bg {n r off : Nat} {d : RegDef} {ix : List Nat} (hn : n < 16) (hr : r < 0x100)
    (hf : RegMap.findReg r RegMap.bg.regs = some (d, ix)) (ho : off = 0x180000 + 0x100 * n + r) :
    RegMap.lookup off = some { blk := RegMap.bg, idx := [n], reg := d, ridx := ix } :=
  RegMap.lookup_at (k := 32) (lo := 0x180000) (hi := 0x181000) (by decide +kernel) rfl (by omega) (by omega)
    (RegMap.inBlock_one rfl ho hr hn hf)

theorem RegMap.lookup_src {n r off : Nat} {d : RegDef} {ix : List Nat} (hn : n < 1024) (hr : r < 0x4)
    (hf : RegMap.findReg r RegMap.src.regs = some (d, ix)) (ho : off = 0x1c2000 + 0x4 * n + r) :
    RegMap.lookup off = some { blk := RegMap.src, idx := [n], reg := d, ridx := ix } :=
  RegMap.lookup_at (k := 35) (lo := 0x1c2000) (hi := 0x1c3000) (by decide +kernel) rfl (by omega) (by omega)
    (RegMap.inBlock_one rfl ho hr hn hf)

theorem RegMap.lookup_icE {n r off : Nat} {d : RegDef} {ix : List Nat} (hn : n < 128) (hr : r < 0x20)
    (hf : RegMap.findReg r RegMap.icE.regs = some (d, ix)) (ho : off = 0x1c4000 + 0x20 * n + r) :
    RegMap.lookup off = some { blk := RegMap.icE, idx := [n], reg := d, ridx := ix } :=
  RegMap.lookup_at (k := 36) (lo := 0x1c4000) (hi := 0x1c5000) (by decide +kernel) rfl (by omega) (by omega)
    (RegMap.inBlock_one rfl ho hr hn hf)

theorem RegMap.lookup_icV {n r off : Nat} {d : RegDef} {ix : List Nat} (hn : n < 64) (hr : r < 0x10)
    (hf : RegMap.findReg r RegMap.icV.regs = some (d, ix)) (ho : off = 0x1c6000 + 0x10 * n + r) :
    RegMap.lookup off = some { blk := RegMap.icV, idx := [n], reg := d, ridx := ix } :=
  RegMap.lookup_at (k := 37) (lo := 0x1c6000) (hi := 0x1c6400) (by decide +kernel) rfl (by omega) (by omega)
    (RegMap.inBlock_one rfl ho hr hn hf)

theorem RegMap.lookup_rg {n r off : Nat} {d : RegDef} {ix : List Nat} (hn : n < 16) (hr : r < 0x100)
    (hf : RegMap.findReg r RegMap.rg.regs = some (d, ix)) (ho : off = 0x1e0000 + 0x100 * n + r) :
    RegMap.lookup off = some { blk := RegMap.rg, idx := [n], reg := d, ridx := ix } :=
  RegMap.lookup_at (k := 39) (lo := 0x1e0000) (hi := 0x1e1000) (by decide +kernel) rfl (by omega) (by omega)
    (RegMap.inBlock_one rfl ho hr hn hf)

theorem RegMap.lookup_spp {n r off : Nat} {d : RegDef} {ix : List Nat} (hn : n < 4) (hr : r < 0x100)
    (hf : RegMap.findReg r RegMap.spp.regs = some (d, ix)) (ho : off = 0x241000 + 0x100 * n + r) :
    RegMap.lookup off = some { blk := RegMap.spp, idx := [n], reg := d, ridx := ix } :=
  RegMap.lookup_at (k := 45) (lo := 0x241000) (hi := 0x241400) (by decide +kernel) rfl (by omega) (by omega)
    (RegMap.inBlock_one rfl ho hr hn hf)

/-- The registers of the head pages and the quad pages that commands name. -/
theorem RegMap.lookup_heads (h : Fin 6) : ∀ a ∈ [Adr.headHctrl h, Adr.headDpTrain h, Adr.headAuxCmd h],
    (RegMap.lookup a).map (fun x => (x.blk.id, x.idx, x.ridx, x.blk.base + 0x4000 * h.val + x.reg.off)) =
      some (Blk.head, [h.val], [], a) := by
  revert h; decide +kernel

theorem RegMap.lookup_vidCoefData (h : Fin 6) (l : Fin 4) :
    (RegMap.lookup (Adr.vidCoefData h l)).map (fun x => (x.blk.id, x.idx, x.ridx, x.reg.off)) =
      some (Blk.vid, [h.val, l.val], [], 0x48) := by
  revert h l; decide +kernel

theorem RegMap.lookup_mbCmd (b : Fin 2) :
    (RegMap.lookup (Adr.mbCmd b)).map (fun x => (x.blk.id, x.idx, x.ridx, x.reg.off)) =
      some (Blk.mb, [b.val], [], 0) := by
  revert b; decide +kernel

theorem RegMap.lookup_dCtrl (c : Fin 64) :
    (RegMap.lookup (Adr.dCtrl (c.val / 2) (c.val % 2))).map (fun x => (x.blk.id, x.idx, x.ridx, x.reg.off)) =
      some (Blk.d, [c.val / 2, c.val % 2], [], 0) := by
  revert c; decide +kernel

end Sys2Proof.Machine
end

