-- ==== Sys2Proof/WellFormed.lean ====
section
/-! DEFINITION. What the sender of a command owes the block: operands that the spec's own rules let a command carry. The
meanings are total, so a command that is not well formed still has an answer; the statements that need the sender's
side name `Instr.wf` as a premise. -/

namespace Sys2Proof

/-- An offset of a register: 32-bit units in the 64 MiB of control space (R307, R374). -/
def regOffset (off : Nat) : Bool := decide (off % 4 = 0 ∧ off < 0x4000000)

/-- An offset by which the host names a DWORD of BAR4 (R373; log entry 22). -/
def bar4Offset (m : Master) (off : Nat) : Bool := decide (m = .host ∧ off % 4 = 0 ∧ 0x4000000 ≤ off ∧ off < 0x4004000)

/-- Bytes that a span memory frame carries: 8 to 256, in multiples of 8 (R423, R440). -/
def frameBytes (data : List Byte) : Bool := decide (data.length % 8 = 0 ∧ 8 ≤ data.length ∧ data.length ≤ 256)

/-- No element stands twice. -/
def noRepeat (l : List Nat) : Bool :=
  match l with
  | [] => true
  | a :: t => !t.any (fun b => decide (b = a)) && noRepeat t

/-- The checks of a command, by the rule that bounds its operands; a command that is not named carries no operand that
its type does not bound. -/
def Instr.wf : Instr → Bool
  | .registerWrite m off _ _ => regOffset off || bar4Offset m off
  | .rcRead m off => regOffset off || bar4Offset m off
  | .stagedWrite _ off _ => regOffset off
  | .outsideAccess _ a _ => decide (a.toNat % 4 = 0)
  | .sampleBoundary inputs late =>
    noRepeat (inputs.slots.map fun p => p.1.val) && noRepeat (inputs.pdm.map fun p => p.1.val) &&
      noRepeat (late.map fun v => v.val)
  | .dramTrainingDone _ ok cap => !ok || decide (cap.toNat = 4 ∨ cap.toNat = 8 ∨ cap.toNat = 16 ∨ cap.toNat = 32)
  | .linkUp speed width =>
    decide (1 ≤ speed.toNat ∧ speed.toNat ≤ 5) && decide (width.toNat = 1 ∨ width.toNat = 2 ∨ width.toNat = 4)
  | .auxReply _ (.ack data) => decide (data.length ≤ 16)
  | .bar2Read off dwords => decide (1 ≤ dwords ∧ off.toNat + 4 * dwords ≤ 2 ^ 30)
  | .bar2Write off data _ => decide (1 ≤ data.length ∧ off.toNat + data.length ≤ 2 ^ 30)
  | .read _ off _ => decide (off < 2 ^ 32)
  | .write _ off data => decide (off < 2 ^ 32 ∧ data.length < 256)
  | .eventFrame _ _ _ masks => decide (1 ≤ masks.length ∧ masks.length ≤ 8)
  | .memoryWriteFrame _ _ _ _ a data => frameBytes data && decide (a.toNat % 8 = 0)
  | .readRequestFrame _ _ _ _ a _ => decide (a.toNat % 8 = 0)
  | .readDataFrame _ _ _ _ a data => frameBytes data && decide (a.toNat % 8 = 0)
  | .getCertificate _ off len => decide (off < 2 ^ 16 ∧ len < 2 ^ 16)
  | _ => true

end Sys2Proof
end

