-- ==== Sys2Proof/Tests/Slice0.lean ====
section
/-! SUPPORT. Small tests of the model: what a sender may not spell, a word of the CRC, and for every statement with hypotheses
a concrete state and operands that meet them (`hyp_` and the statement's name). -/

open Sys2Proof Sys2Proof.Machine

namespace Sys2Proof.Tests

set_option Elab.async false

/-- Fields set in a state. -/
def sets (l : List (FieldAt × Nat)) (s : State) : State := l.foldl (fun s p => fset s p.1 p.2) s

/-- A running engine, and the block with an engine 0. -/
def running : Eng := { Eng.reset with held := false }
def withEng (u : Eng) : State := setEng State.reset 0 u
def z : State := withEng running

/-- Engine 0 with the Secure grant. -/
def grantedTo (s : State) : State := sets [(Fd.thGrantG 0, 1)] s

/-- The register at an offset, with a condition on it. -/
def hitAt (off : Nat) (p : RegHit → Bool) : Bool := (RegMap.lookup off).any p

/-! ### What a sender may not spell: one refused term for each check of `Instr.wf`, and one that passes -/

theorem test_wf_offsets : Instr.wf (.registerWrite .host 2 0 15) = false ∧ Instr.wf (.rcRead .sideband 0x4000000) = false ∧
    Instr.wf (.rcRead .host 0x4002000) = true ∧ Instr.wf (.rcRead .host 0x4004000) = false ∧
    Instr.wf (.stagedWrite .host 0x80201 0) = false ∧ Instr.wf (.registerWrite .host 0x3FFFFFC 0 15) = true := by decide

theorem test_wf_outside : Instr.wf (.outsideAccess .host 0xF00000000002 none) = false ∧
    Instr.wf (.outsideAccess .host 0xF00000000004 none) = true := by decide

theorem test_wf_boundary : Instr.wf (.sampleBoundary ⟨[(0, 1), (0, 2)], []⟩ []) = false ∧
    Instr.wf (.sampleBoundary ⟨[], [(3, 1), (3, 2)]⟩ []) = false ∧ Instr.wf (.sampleBoundary ⟨[], []⟩ [5, 5]) = false ∧
    Instr.wf (.sampleBoundary ⟨[(0, 1), (1, 2)], [(3, 1)]⟩ [5]) = true := by decide

theorem test_wf_capacity : Instr.wf (.dramTrainingDone 0 true 5) = false ∧ Instr.wf (.dramTrainingDone 0 true 32) = true ∧
    Instr.wf (.linkUp 6 4) = false ∧ Instr.wf (.linkUp 5 3) = false ∧ Instr.wf (.linkUp 5 4) = true := by decide

theorem test_wf_aux : Instr.wf (.auxReply 0 (.ack (List.replicate 17 0))) = false ∧
    Instr.wf (.auxReply 0 (.ack (List.replicate 16 0))) = true := by decide

theorem test_wf_bar2 : Instr.wf (.bar2Read 0 0) = false ∧ Instr.wf (.bar2Read 0x3FFFFFFC 2) = false ∧
    Instr.wf (.bar2Write 0 [] false) = false ∧ Instr.wf (.bar2Write 0x3FFFFFFF [1, 2] false) = false ∧
    Instr.wf (.bar2Read 0x3FFFFFFC 1) = true ∧ Instr.wf (.bar2Write 0x3FFFFFFF [1] false) = true := by decide

theorem test_wf_sideband : Instr.wf (.read 0 0x100000000 1) = false ∧ Instr.wf (.write 0 0x100000000 []) = false ∧
    Instr.wf (.write 0 0 (List.replicate 256 0)) = false ∧ Instr.wf (.write 0 0 [1]) = true := by decide +kernel

theorem test_wf_frames : Instr.wf (.eventFrame 0 0 0 []) = false ∧ Instr.wf (.eventFrame 0 0 0 (List.replicate 9 1)) = false ∧
    Instr.wf (.memoryWriteFrame 0 0 0 0 0 [1]) = false ∧ Instr.wf (.memoryWriteFrame 0 0 0 0 4 (List.replicate 8 1)) = false ∧
    Instr.wf (.readRequestFrame 0 0 0 0 4 0) = false ∧ Instr.wf (.readDataFrame 0 0 0 0 0 (List.replicate 264 1)) = false ∧
    Instr.wf (.readDataFrame 0 0 0 0 0 (List.replicate 256 1)) = true := by decide +kernel

theorem test_wf_spdm : Instr.wf (.getCertificate 0 0x10000 1) = false ∧ Instr.wf (.getCertificate 0 0 0x10000) = false ∧
    Instr.wf (.getCertificate 0 0xFFFF 0xFFFF) = true := by decide

/-! ### Words that the spec writes out -/

/-- The check values of the table of R301, over ASCII "123456789". -/
theorem test_crc : ∀ p ∈ [(0, 0xF4), (1, 0x29B1), (2, 0xCBF43926), (3, 0xE3069283)],
    crcOf (crcCode p.1) [0x31, 0x32, 0x33, 0x34, 0x35, 0x36, 0x37, 0x38, 0x39] = p.2 := by decide +kernel

/-- The table gives no row bits, so no word spells a command. -/
theorem test_no_words : decodeTableWord 16 5 = none ∧ State.reset.withFetchWord 16 5 = State.reset := ⟨rfl, rfl⟩

/-- The worked example of R31's presence table: entry 137 of an XM-128 is quad Q22. -/
theorem test_presence : descBits (descAt z 137) = 0x082116011602288E ∧
    (List.range 4).map (fun i => (busRead z .host (0x8890 + 4 * i)).1) = [0x288E, 0x1602, 0x1601, 0x0821] := by
  decide +kernel

/-- The worked example of 02_timelines.md, genlock re-lock: T3 at 999:3999 with landings L40 and L41. -/
def relock (window : Nat) : State :=
  setTl { sets [(Fd.tlCfgKind 3, 2), (Fd.tlSlipWinExp 3, window / 1024), (Fd.tlSlipWinMant 3, window % 1024),
    (Fd.lCtrlArm 40, 1), (Fd.lCtrlTl 40, 3), (Fd.lCmp0CmpLo 40, 0), (Fd.lCmp1CmpHi 40, 1000),
    (Fd.lCtrlArm 41, 1), (Fd.lCtrlTl 41, 3), (Fd.lCmp0CmpLo 41, 2000), (Fd.lCmp1CmpHi 41, 1003)] z with
    beamTotals := [(2, (4400, 2250))] } 3 { TlUnit.reset with pos := 4399599 }

theorem test_slip_near :
    let t := hwSlipBy (relock 0x1D13) 3 (slipDist 9900000 4399599 4417700)
    (tlOf t 3).pos = 4417700 ∧ fget t (Fd.lStatSlipped 40) = 1 ∧ fget t (Fd.lStatSlipped 41) = 1 ∧
      fbit t (Fd.tlStatNear 3) = true ∧ fget t (Fd.tlSlipsCount 3) = 1 := by decide +kernel

theorem test_slip_far :
    let t := hwSlipBy (relock 0x1913) 3 (slipDist 9900000 4399599 4417700)
    fget t (Fd.lStatSlipped 40) = 0 ∧ fget t (Fd.lPassedCount 40) = 1 ∧ fget t (Fd.lPassedCount 41) = 1 ∧
      fbit t (Fd.tlStatFar 3) = true := by decide +kernel

theorem test_slip_back :
    let t := hwSlipBy (relock 0x1D13) 3 (slipDist 9900000 4399599 4391200)
    fbit t (Fd.tlStatBack 3) = true ∧ fget t (Fd.lStatSlipped 40) = 0 ∧ fget t (Fd.lPassedCount 40) = 0 ∧
      signedN 20 (fget t (Fd.tlLastSlipS 3)) = -8399 := by decide +kernel

/-! ### Engines -/

/-- One word of each format, written out from the field places of R131 and the opcodes of R143. -/
theorem test_engine_words :
    engDecode 7 0b00000101010110011100 0 = some (.sub 7 5 6 7 0) ∧
    engDecode 7 0b00111001000010001101 0 = some (.mul 7 4 2 3 1) ∧
    engDecode 7 0b01000000010010111111 0 = some (.addi 7 1 2 63) ∧
    engDecode 7 0b10100100110100000101 0 = some (.st 7 3 4 5) ∧
    engDecode 7 0b10101000110100000000 0x12345 = some (.ldl 7 3 4 0 0x12345) ∧
    engDecode 7 0b11010010011111111110 0 = some (.bz 7 9 0x3FE) ∧
    engDecode 7 0b11011110010000000000 0x00010 = some (.bnzl 7 9 0 0x00010) ∧
    engDecode 7 0b11100100000000000000 0xABCDE = some (.jal 7 0 0xABCDE) ∧
    engDecode 7 0b11111000101000000100 0 = some (.wait 7 2 0x81 0) ∧
    engDecode 7 0b11110000000110000000 0x00100 = some (.loop 7 0 6 0 0x00100) ∧
    engDecode 7 0b11110100000000010000 0x00100 = some (.loopi 7 16 0x00100) := by decide +kernel

theorem test_engine_words_s :
    engDecode 7 0b11111111110000000001 0 = some (.trap 7 240) ∧ engDecode 7 0b11111100000010000011 0 = some (.drop 7 0 2) ∧
    engDecode 7 0b11111101010110000110 0 = some (.mfs 7 5 6) ∧ engDecode 7 0b11111101010110000111 0 = some (.mts 7 5 6) ∧
    engDecode 7 0b11111100000000000000 0 = none ∧ engDecode 7 0b11111100000000001000 0 = none ∧
    engDecode 7 0b01101100000000000000 0 = none ∧ engDecode 7 0b10011100000000000000 0 = none ∧
    engDecode 7 0 0 = some (.add 7 0 0 0 0) := by decide +kernel

/-- R142: the buffer keeps the granule that it fetched over a store by another master; a taken branch drops it. -/
theorem test_fetch_buffer :
    let w := setEng State.reset 0 (fetchFresh State.reset 0 running)
    let w := setGran w 0 { Granule.zero with w0 := 0x6C000 }
    spelled w 0 0 = true ∧ spelled (setEng w 0 (fetchFresh w 0 (engOf w 0))) 0 0 = false := by decide +kernel

theorem hyp_AluResults : canIssue z 0 1 = true ∧ canIssue z 0 2 = true := by decide +kernel

theorem hyp_SaturatingAndPairResults : canIssue z 0 1 = true ∧ (1 ≤ (1 : BitVec 6).toNat ∧ (20 : BitVec 6).toNat ≤ 20) ∧
    (14 : BitVec 4).toNat % 2 = 0 := by decide +kernel

/-- A word of the reserved opcode 0x1B at PC 0. -/
def reserved : State := setEng (setGran State.reset 0 { Granule.zero with w0 := 0x6C000 }) 0 running

theorem hyp_UnimplementedForms : fetched reserved 0 1 = true ∧ fetched reserved 0 2 = true ∧ spelled reserved 0 0 = false ∧
    loadsOut (engOf reserved 0) = false ∧ loadsOut (engOf z (0 : Fin 128)) = false ∧ canIssue z 0 1 = true ∧ canIssue z 0 2 = true ∧
    (3 : BitVec 2) ≠ 0 ∧ (15 : BitVec 4).toNat % 2 = 1 ∧ 20 < (21 : BitVec 6).toNat ∧ 13 < (14 : BitVec 4).toNat := by
  decide +kernel

/-- Word 0 of engine 0, the last slot of its first granule: clean, watched, uncorrectable. -/
theorem hyp_RamWordAccess : canIssue z 0 1 = true ∧ canIssue z 0 2 = true ∧ engLoc 0 (0 + 2) = .ram 0 2 ∧
    (granOf (issuing z 0 1) 0).mark ≠ .bad ∧ bit (granOf (issuing z 0 1) 0).watch.toNat 2 = false ∧
    olderAt (issuing z 0 1) (slotView (engOf z 0) 1).fab (nearTarget 0 2) = false ∧
    (let w := withEng { running with fab := [FabOp.load 2 (.chip 0xF00010000000) 1 0 false] }
     canIssue w 0 1 = true ∧ olderAt (issuing w 0 1) (slotView (engOf w 0) 1).fab (nearTarget 0 2) = true) ∧
    (let w := setEng (setGran State.reset 7 { Granule.zero with mark := .bad }) 0 running
     canIssue w 0 1 = true ∧ (granOf (issuing w 0 1) 7).mark = .bad) ∧
    (let w := setEng (setGran State.reset 7 { Granule.zero with watch := 4 }) 0 running
     canIssue w 0 1 = true ∧ engLoc 0 23 = .ram 7 2 ∧ bit (granOf (issuing w 0 1) 7).watch.toNat 2 = true) := by
  decide +kernel

theorem hyp_WindowAndDeviceAccess :
    (let w := withEng { running with g := [(1, 0x40000)] }
     canIssue w 0 1 = true ∧ engLoc 0 (greg (slotView (engOf w 0) 1) 1) = .window 0 0 ∧ wpend (engOf w 0) < 8) ∧
    (let w := withEng { running with g := [(1, 0x7FFFF)], fab := List.replicate 8 (FabOp.store (.chip 0) 0 1) }
     canIssue w 0 1 = true ∧ engLoc 0 0x7FFFF = .window 3 65535 ∧ 8 ≤ wpend (engOf w 0)) ∧
    (engLoc 0 0x80300 = .device 0x80300 ∧ devListed 0 0x80300 = true ∧ isWin 0x80300 = false ∧
      devFar 0x80300 = false ∧ olderAt z [] (nearTarget 0 0x80300) = false) ∧
    (engLoc 0 0xA0000 = .device 0xA0000 ∧ devListed 0 0xA0000 = true ∧ devFar 0xA0000 = true) ∧
    (engLoc 0 0x80000 = .device 0x80000 ∧ devListed 0 0x80000 = true ∧ devFar 0x80000 = false ∧
      olderAt z [FabOp.store (.chip 0xF00000020004) 0 1] (nearTarget 0 0x80000) = true) ∧
    engLoc 0 0xFFFFF = .unmapped := by decide +kernel

theorem hyp_GranuleAndTagAccess : canIssue z 0 1 = true ∧ engLoc 0 0 = .ram 0 0 ∧ (granOf (issuing z 0 1) 0).mark = .ok ∧
    (engOf z 0).level ≠ 2 ∧ (granOf (issuing z 0 1) 0).watch = 0 ∧ olderAt (issuing z 0 1) [] (nearTarget 0 0) = false ∧
    (let w := withEng { running with level := 2, ceil := 2 }
     canIssue w 0 1 = true ∧ (engOf w 0).level = 2 ∧ loadsOut (engOf w 0) = false) := by decide +kernel

theorem hyp_ControlFlow : boundaryFree (engOf z 0) = true ∧ canIssue z 0 1 = true ∧ canIssue z 0 2 = true := by
  decide +kernel

/-- A free boundary, the slot of a taken branch, and the end of a loop of one more round. -/
theorem hyp_InstructionCompletion :
    (let v := engOf z 0
     v.delayed = [] ∧ v.impr = [] ∧ v.stopDue = false ∧ v.stepping = false ∧ v.branch = none) ∧
    (let v := { running with branch := some { addr := 4, target := 9, taken := true, link := false, pt := false }, pc := 5 }
     v.delayed = [] ∧ v.impr = [] ∧ v.stopDue = false ∧ v.stepping = false ∧ (v.branch.any fun b => b.taken) = true) ∧
    (let v := { running with la := true, lc := 2, le := 0 }
     v.delayed = [] ∧ v.impr = [] ∧ v.la = true ∧ v.pc = v.le ∧ 1 < v.lc.toNat) := by decide +kernel

theorem hyp_AluFrame : quiet { z with th := { z.th with bootDue := false } } = true ∧ canIssue z 0 1 = true ∧
    fetchWords z 0 (engOf z 0).pc 1 = (none, z) ∧ calm (engOf z 0) = true := by decide +kernel

theorem hyp_SystemInstructions : canIssue z 0 1 = true ∧ boundaryFree (engOf z 0) = true ∧
    tiReady (sets [(Fd.tiTiCount 0 7, 15)] z) 0 0x80 = some 7 ∧ tiReady z 0 0xFF = none ∧
    (engOf z 0).level.toNat ≤ (2 : BitVec 2).toNat ∧ wpend (engOf z 0) = 0 ∧
    (let w := withEng { running with fab := [FabOp.store (.chip 0) 0 1] }
     canIssue w 0 1 = true ∧ wpend (engOf w 0) ≠ 0) := by decide +kernel

theorem hyp_TrapsAndPrivilege : canIssue z 0 1 = true ∧ boundaryFree (engOf z 0) = true ∧ loadsOut (engOf z 0) = false ∧
    (239 : BitVec 8).toNat < 240 ∧ ¬ (240 : BitVec 8).toNat < 240 ∧
    (let w := grantedTo (withEng { running with level := 1, ceil := 1, estat := 0 })
     canIssue w 0 1 = true ∧ granted w 0 = true ∧ bits (engOf w 0).estat.toNat 1 0 < (engOf w 0).ceil.toNat) ∧
    (let w := withEng { running with estat := 3 }
     canIssue w 0 1 = true ∧ granted w 0 = false ∧ bits (engOf w 0).estat.toNat 1 0 = 3) ∧
    (let w := withEng { running with bw := true, bwst := 0 }
     canIssue w 0 1 = true ∧ bits (engOf w 0).bwst.toNat 1 0 < (engOf w 0).ceil.toNat) ∧
    (let w := withEng { running with level := 2, ceil := 2 }
     canIssue w 0 1 = true ∧ (1 : BitVec 2).toNat < (engOf w 0).level.toNat) := by decide +kernel

/-- A class below the mask's fault level, the gate, and an interrupt, each with a vector in RAM. -/
theorem hyp_ExceptionEntry :
    (let u := { running with mask := 0 }
     let w := withEng u
     u.pendLd = [] ∧ u.bw = false ∧ u.shadow = none ∧ holdOf u = false ∧ u.mask.toNat < faultLevel u 1 ∧
      (fetchCheck w 0 8).1 = none ∧ (fetchCheck w 0 (8 * 11)).1 = none) ∧
    (let w := grantedTo (withEng running)
     (fetchCheck w 0 (BitVec.ofNat 20 (fget w (Fd.engSecvecBase 0 0) * 256) + 80)).1 = none) := by decide +kernel

theorem hyp_EscalationAndLockup :
    (let u := { running with bw := true }
     u.pendLd = [] ∧ u.shadow = none ∧ u.bw = true) ∧
    (let u := { running with mask := 15 }
     u.bw = false ∧ faultLevel u 9 ≤ u.mask.toNat ∧ (fetchCheck (withEng u) 0 0).1 = none) := by decide +kernel

theorem hyp_ReturnFromException :
    (let w := withEng { running with estat := 1 + 4 * 3 }
     let u := engOf w 0
     canIssue w 0 1 = true ∧ calm u = true ∧ fetchWords w 0 u.pc 1 = (none, w) ∧ u.level ≠ 2 ∧
      u.ceil.toNat ≤ (BitVec.ofNat 2 (bits u.estat.toNat 1 0)).toNat ∧ bit u.estat.toNat 19 = false ∧
      bit u.estat.toNat 15 = false) ∧
    (let w := withEng { running with bw := true, bwst := 2 }
     let u := engOf w 0
     canIssue w 0 1 = true ∧ calm u = true ∧ fetchWords w 0 u.pc 1 = (none, w) ∧ u.bw = true ∧
      u.ceil.toNat ≤ (BitVec.ofNat 2 (bits u.bwst.toNat 1 0)).toNat) := by decide +kernel

theorem hyp_AnswersToEngines :
    (let w := sets [(Fd.tiTiCount 0 0, 1)] (withEng { running with sleep := some (3, 1) })
     let u := engOf w 0
     engAlive w 0 = true ∧ u.sleep = some (3, 1) ∧ alarmHalt w u = false ∧ u.impr = [] ∧ wdTakeable u = false ∧
      irqTakeable w 0 = false ∧ haltWanted w 0 = false ∧ tiReady w 0 1 = some 0) ∧
    (let w := withEng { running with fab := [FabOp.load 2 (.chip 0xF00000002000) 1 0 false] }
     mainUp w = true ∧ (engOf w 0).fab = .load 2 (.chip 0xF00000002000) 1 0 false :: []) ∧
    (let w := withEng { running with fab := [FabOp.store (.dev 0xA0000) 5 1, .load 2 (.dev 0xA0001) 1 0 false] }
     mainUp w = true ∧ (engOf w 0).fab = .store (.dev 0xA0000) 5 1 :: .load 2 (.dev 0xA0001) 1 0 false :: [] ∧
      (FabTgt.dev 0xA0000).target w = (FabTgt.dev 0xA0001).target w ∧ (FabTgt.dev 0xA0000).target w ≠ .nowhere) := by
  decide +kernel

theorem hyp_RamFromOutside : mainUp z = true ∧ z.mem.top ≤ 2 ^ 40 ∧ 24575 < 24576 ∧ engPresent z 127 = true ∧
    granted z 0 = false ∧ (granOf z (localKey 127 8191)).mark = .ok ∧
    (let w := grantedTo (setGran z 0 { Granule.zero with mark := .bad })
     granted w 0 = true ∧ masterSecure .host = false ∧ masterSecure .tollhouse = true ∧ (granOf w 0).mark = .bad) ∧
    (let w := { z with ramWb := [8191, 1048576] }
     mainUp w = true ∧ quadPresent w 0 = true ∧ NSet.has (8192 * 0 + 8191) w.ramWb = true ∧
      NSet.has (8192 * 128 + 32768 * 0 + 0) w.ramWb = true) := by decide +kernel

theorem hyp_InterruptAndWatchdog : mainUp z = true ∧
    (let w := { sets [(Fd.srcSrcCfgEn 512, 1), (Fd.srcSrcCfgPrio 512, 15)] (withEng { running with mask := 0 }) with
       ic := { IcState.reset with latch := [512] } }
     asyncOpen w 0 = true ∧ wdTakeable (engOf w 0) = false ∧ irqTakeable w 0 = true ∧ (icTake w 0).isSome = true) ∧
    (let w := withEng { running with wdDue := true }
     asyncOpen w 0 = true ∧ wdTakeable (engOf w 0) = true) ∧
    (let w := sets [(Fd.engWdogCfgEn 0 0, 1)] z
     wdExpired w 0 = true ∧ (engOf w 0).wdStage = false) ∧
    (let w := sets [(Fd.engWdogCfgEn 0 0, 1)] (withEng { running with wdStage := true })
     wdExpired w 0 = true ∧ (engOf w 0).wdStage = true) := by decide +kernel

theorem hyp_WatchdogKickAndDebug : reaches z .host 0x1001108 = true ∧ reaches z .host 0x1001110 = true ∧
    debugAllowed z 0 = true ∧ (engOf z 0).halted = false ∧ (engOf (withEng { running with halted := true }) 0).halted = true ∧
    (let w := sets [(Fd.engDbgCtlHalt 0 0, 1), (Fd.engDbgCtlBrkEn 0 0, 1)] z
     asyncOpen w 0 = true ∧ haltWanted w 0 = true ∧ wdTakeable (engOf w 0) = false ∧ irqTakeable w 0 = false ∧
      calm (engOf w 0) = true ∧ fbit w (Fd.engDbgCtlBrkEn 0 0) = true ∧ canIssue w 0 1 = true ∧
      fetchWords w 0 0 1 = (none, w) ∧ (nextFault (setEng w 0 { engOf w 0 with pc := 1 }) 0).1 = none) := by decide +kernel
/-! ### Registers and bays -/

theorem hyp_RegisterFieldsByClass :
    hitAt Adr.plCmd (fun h => h.reg.flds.any fun f => decide (f.acc = .rw ∧ f.cls = .stop)) = true ∧
    hitAt Adr.pwrCfg (fun h => h.reg.flds.any fun f => decide (f.acc = .rw ∧ f.cls = .now)) = true ∧
    hitAt Adr.pwrStat (fun h => h.reg.flds.any fun f => decide (f.acc = .w1c)) = true ∧
    hitAt (Adr.busGain 0) (fun h => h.reg.flds.any fun f => f.cls.waits) = true ∧
    hitAt (Adr.tlCfg 8) (fun h => blockRuns (sets [(Fd.tlCfgRun 8, 1)] z) h &&
      stopDiffers (sets [(Fd.tlCfgRun 8, 1)] z) (Adr.tlCfg 8) h 0x80005) = true := by decide +kernel

theorem hyp_RegisterCommands :
    hitAt (Adr.busGain 0) (fun h => decide (h.blk.id = .bus) && hitPresent z h && !prodSecret z .host h 0) = true ∧
    reaches z .host (Adr.busGain 0) = true ∧ stagedIn z (Adr.busGain 0) = none ∧ dispMem (Adr.busGain 0) = false ∧
    mirrorView (Adr.busGain 0) = false ∧ busOpen z .host (Adr.busGain 0) = true ∧ fbit z Fd.sbFenceAll = false ∧
    hitAt (Adr.mcStat 3) (fun h => !hitPresent { z with variant := .xm32l } h) = true ∧
    hitAt Adr.sbFence (fun h => writeRefused z .host Adr.sbFence h && hitPresent z h) = true ∧
    fbit (sets [(Fd.sbFenceAll, 1)] z) Fd.sbFenceAll = true ∧ (0x3FFFFFF < 2 ^ 26 ∧ 7 < 8) := by decide +kernel

theorem hyp_EventsAndFaultFlags :
    reaches z .host (faceAt (.engine 127) + 0x14) = true ∧ reaches z .host (faceAt .chip + 0x14) = true ∧
    reaches z .host (faceAt .chip + 0x18) = true ∧ engPresent z 127 = true ∧ inQuadReset z 31 = false ∧
    127 ∈ bayEngines z.variant .chip ∧ 126 ∉ bayEngines z.variant (.engine 127) ∧
    reaches z .host (Adr.cFire 255) = true ∧ chanJudge z 255 .host false = .ok ∧ mainUp z = true := by decide +kernel

theorem hyp_QuietStepEnd : quiet { z with th := { z.th with bootDue := false } } = true ∧
    168 ∈ ((raise z 168 5).faultOwn.map Prod.fst).flatMap (fun c => c :: bayAbove (joined z) c) := by decide +kernel

/-! ### Timelines and landings -/

/-- Timeline 8 of kind `k`, running, its posts 0 to 3 set to function `f`, their bank supplied. -/
def timeline (k f : Nat) : State :=
  sets [(Fd.tlCfgKind 8, k), (Fd.tlCfgRun 8, 1), (Fd.tlSrc0PostA 8, 0), (Fd.tlSrc1PostB 8, 1), (Fd.tlSrc1PostIdx 8, 2),
    (Fd.postPcfgFunc 0, f), (Fd.postPcfgFunc 1, f), (Fd.postPcfgFunc 2, f), (Fd.prtBankStatPresent 0, 1)] z

theorem hyp_TimelineAdvances :
    (mainUp z = true ∧ tlKind z 0 = 1 ∧ (tlOf z 0).pos < 2 ^ 40 ∧ (tlOf z 0).lap < 2 ^ 20) ∧
    0 < signedN 20 (fget (sets [(Fd.tlTrimPpb 0, 1)] z) (Fd.tlTrimPpb 0)) ∧
    signedN 20 (fget (sets [(Fd.tlTrimPpb 0, 0xFFFFF)] z) (Fd.tlTrimPpb 0)) < 0 ∧ z.trimAt = none ∧
    ({ z with trimAt := some 0, clock := 10 ^ 9 - 1 }.trimAt = some 0 ∧ 10 ^ 9 ≤ (10 ^ 9 - 1 + 1 - 0) * (1 : Int).natAbs) ∧
    (let w := timeline 4 8
     tlKind w 8 = 4 ∧ fbit w (Fd.tlCfgRun 8) = true ∧ fget w (Fd.tlEncDecode 8) = 0 ∧ fbit w (Fd.tlEncSwap 8) = false ∧
      postLive w (fget w (Fd.tlSrc0PostA 8)) 8 = true ∧ postLive w (fget w (Fd.tlSrc1PostB 8)) 8 = true ∧
      encResolved w 8 (tlOf w 8).encAAt = true ∧ encResolved w 8 (tlOf w 8).encBAt = true ∧
      encResolved { sets [(Fd.tlEncFilter 8, 5)] w with clock := 9 } 8 (some 4) = false ∧ (tlOf w 8).idxOn = false ∧
      (tlOf (setTl w 8 { TlUnit.reset with idxOn := true }) 8).idxOn = true ∧
      (let x := sets [(Fd.tlEncIdxMode 8, 1)] w
       fget x (Fd.tlEncIdxMode 8) = 1 ∧ postLive x (fget x (Fd.tlSrc1PostIdx 8)) 8 = true ∧
        fget x (Fd.tlEncIdxGate 8) = 2 * boolNat (tlOf x 8).encA + boolNat (tlOf x 8).encB)) ∧
    (let w := setTl (sets [(Fd.tlMainsStatLocked 8, 1)] (timeline 5 9)) 8
        { TlUnit.reset with mPeriod := 20000000, mLast := some 0, mMiss := 2, mSpan := 20000000, mUnits := 65536 }
     mainsRuns w 8 = true ∧ (tlOf w 8).mSpan ≠ 0 ∧ (0 + 1) * (tlOf w 8).mSpan ≤ (306 - 0) * (tlOf w 8).mUnits ∧
      (let x := { w with clock := 30000000 }
       3 * (tlOf x 8).mPeriod ≤ 2 * (x.clock - (tlOf x 8).mLast.getD 0) ∧ fbit x (Fd.tlMainsStatLocked 8) = true) ∧
      (let x := { w with clock := 2500000 }
       postLive x (fget x (Fd.tlSrc0PostA 8)) 9 = true ∧ mainsPhase x 8 true = some 0 ∧
        (tlOf x 8).mPeriod ≤ 8 * (x.clock - 0) ∧ -1024 ≤ mainsError x 8 0 ∧ mainsError x 8 0 ≤ 1024 ∧
        1024 < mainsError x 8 1025 ∧ (tlOf x 8).mMiss = 2)) := by decide +kernel

theorem hyp_TimelineCommands :
    (let w := sets [(Fd.tlCfgKind 31, 1), (Fd.tlCfgRun 31, 1)] z
     8 ≤ (31 : Fin 32).val ∧ tlKind w 31 ≠ 6 ∧ tlKind w 31 ≠ 2 ∧ (tlOf w 31).pos < tlLap w 31 ∧
      (tlOf w 31).hwSlipAt ≠ some w.clock ∧ reaches w .host (Adr.tlSet0 31) = true ∧
      reaches w .host (Adr.tlSlew 31) = true ∧ fbit w (Fd.tlCfgRun 31) = true) ∧
    (mainUp z = true ∧ fbit z Fd.sbFenceAll = false ∧ (latchOf z .host 0).held = false ∧
      (latchOf (setLatch z .host 0 { TlLatch.reset with held := true }) .host 0).held = true) := by decide +kernel

theorem hyp_LandingUnits :
    reaches z .host (Adr.lCmp0 511) = true ∧ stagedIn z (Adr.lCmp0 511) = none ∧ reaches z .host (Adr.lInt0 0) = true ∧
    stagedIn z (Adr.lInt0 0) = none ∧ reaches z .host (Adr.lCtrl 0) = true ∧ chanSecure z 255 = false ∧
    (engOf z 0).halted = false ∧ (landOf z 0).frozen = false ∧ landArmed z 0 = false ∧
    autoAddNow z 511 = none ∧
    (let a : AutoAdd := { at' := 0, passed := 3, cmpHi := 1, raised := false }
     let w := setLand (sets [(Fd.lCtrlMode 5, 1)] z) 5 { LandUnit.reset with firedAt := some a }
     autoAddNow w 5 = some a ∧ (landOf w 5).heldCmp = none) ∧
    (landOf (setLand z 5 { LandUnit.reset with heldCmp := some 7, heldInt := some 8 }) 5).heldCmp = some 7 ∧
    (let w := sets [(Fd.lCtrlArm 0, 1), (Fd.lCmp0CmpLo 0, 1)] z
     landArmed w 0 = true ∧ landOf w 0 = LandUnit.reset ∧ landMode w 0 = 0 ∧ landCmp w 0 = some 1 ∧ landDir w 0 = 0 ∧
      0 < 1 ∧ 1 < tlLap w (fget w (Fd.lCtrlTl 0)) ∧
      (0 + 1) % tlLap w (fget w (Fd.lCtrlTl 0)) = 1 % tlLap w (fget w (Fd.lCtrlTl 0))) := by decide +kernel

theorem hyp_EdgeQueueCommands :
    postGuard z 1023 .host false false = none ∧ reaches z .host (Adr.eqEdge0 1023) = true ∧
    reaches z .host (Adr.eqEdge1 1023) = true ∧ reaches z .host (Adr.eqEdgez 1023) = true ∧
    reaches z .host (Adr.eqFlush 1023) = true ∧ (eqOf z 1023).entries.length < 4 ∧
    4 ≤ (eqOf (setEq z 0 { EqUnit.reset with entries := List.replicate 4 (5, .high) }) 0).entries.length ∧
    (let w := sets [(Fd.eqCfgRun 5, 1), (Fd.eqCfgCapEdge 5, 1), (Fd.postPcfgFunc 5, 4)] z
     mainUp w = true ∧ 5 < w.variant.posts ∧ eqRunning w 5 = true ∧ bit (fget w (Fd.eqCfgCapEdge 5)) 0 = true ∧
      (eqOf w 5).stamps.length < 2 ∧ bankLive w 0 = false ∧ bankLive (sets [(Fd.prtBankStatPresent 0, 1)] w) 0 = true ∧
      ¬ (fget (sets [(Fd.eqCfgTl 5, 9), (Fd.tlCfgKind 9, 1)] w) (Fd.eqCfgTl 5) = 0 ∨
        tlKind (sets [(Fd.eqCfgTl 5, 9), (Fd.tlCfgKind 9, 1)] w) 9 = 6) ∧ fget w (Fd.eqCfgTl 5) = 0 ∧
      (eqOf (setEq w 5 { EqUnit.reset with capDue := [(0, true)] }) 5).capDue = [(0, true)]) ∧
    2 ≤ (eqOf (setEq z 5 { EqUnit.reset with stamps := [(1, true), (2, false)] }) 5).stamps.length := by decide +kernel
/-! ### Composition and the display -/

/-- A running head 0 of 64 by 16 pixels whose Joiner composes, with more fields, its unit `u`, and 4 KiB of DRAM. -/
def lit (l : List (FieldAt × Nat)) (u : HeadUnit) : State :=
  setHead { sets ([(Fd.headHactiveHactive 0, 64), (Fd.headHtotalHtotal 0, 96), (Fd.headHsyncHsStart 0, 70),
    (Fd.headHsyncHsWidth 0, 8), (Fd.headVactiveVactive 0, 16), (Fd.headVtotalVtotal 0, 19), (Fd.headVsyncVsStart 0, 16),
    (Fd.headVsyncVsWidth 0, 1), (Fd.headPclkKhz 0, 1000), (Fd.headHstatRunning 0, 1), (Fd.joinJcfgEn 0, 1)] ++ l) z with
    mem := { z.mem with top := 4096 }, beamTotals := [(0, (96, 19))] } 0 u

/-- Line 1 in composition, from cycle 0, and a head that composes it. -/
def composed : Compose := { line := 1, y := 1, at' := 0, sprites := [], fills := [], spans := 0, done := [], stall := 0 }
def composing : HeadUnit :=
  { HeadUnit.reset with next := 2, comp := some composed }

/-- Video layer 0 alone, 2 by 2 pixels of format 6 at the top left. -/
def oneVideo : List (FieldAt × Nat) :=
  [(Fd.vidCtrlEn 0 0, 1), (Fd.vidCtrlFmt 0 0, 6), (Fd.vidSrcWW 0 0, 2), (Fd.vidSrcHH 0 0, 2), (Fd.vidDstWW 0 0, 2),
    (Fd.vidDstHH 0 0, 2), (Fd.vidStepXStep 0 0, 0x10000), (Fd.vidStepYStep 0 0, 0x10000)]

/-- Tile layer 0 alone, in every slot. -/
def oneTile : List (FieldAt × Nat) :=
  [(Fd.tilCtrlEn 0 0, 1), (Fd.tilCtrlFmt 0 0, 2), (Fd.tilClipX1X1 0 0, 63), (Fd.joinStack0Slots04 0, 0x44444),
    (Fd.joinStack1Slots59 0, 0x44444), (Fd.joinStack2Slots1013 0, 0x4444)]

theorem hyp_LineComposition_start :
    lineDue (lit [] HeadUnit.reset) 0 = true ∧ ltDueAt (ltPrepare (lit [] HeadUnit.reset) 0) 0 = none ∧
    (let w := lit [(Fd.headEvEn 0 0, 1), (Fd.headEvEn 0 2, 1)] { HeadUnit.reset with restarted := true }
     lineDue w 0 = true ∧ ltDueAt (ltPrepare w 0) 0 = none ∧ fbit w (Fd.headEvEn 0 0) = true ∧
      fbit w (Fd.headEvEn 0 2) = true) := by decide +kernel

theorem hyp_LineComposition_finish :
    (let w := lit [] composing
     (headOf w 0).comp = some composed ∧ (lineSpans w 0 composed).all (spanReady w 0 composed) = true ∧
      ((lineSpans w 0 composed)[0]?.any fun p => spanReady w 0 composed p) = true ∧
      sramBad w ((lineSpans w 0 composed).flatMap (spanReads w 0 composed)) = [] ∧
      0 + 1 + 16 * 0 + 0 ≤ { w with clock := 1 }.clock) ∧
    (let w := lit oneTile composing
     (lineSpans w 0 composed).all (spanReady w 0 composed) = false ∧
      ((lineSpans w 0 composed)[0]?.any fun p => !spanReady w 0 composed p) = true ∧
      sramBad w ((lineSpans w 0 composed).flatMap (spanReads w 0 composed)) = []) := by decide +kernel

/-- A head at line 1 whose due record, at address 256, has the operation `op`. -/
def tabled (op : Byte) : State :=
  setMemBytes (lit [(Fd.joinLtCtrlEn 0, 1)] { HeadUnit.reset with next := 1, ltPtr := some 256 }) 263 [op]

theorem hyp_LineTableRecords : ∀ op ∈ [(0x00 : Byte), 0x10, 0x20, 0x30, 0x40, 0xF0],
    lineDue (tabled op) 0 = true ∧ ltDueAt (ltPrepare (tabled op) 0) 0 = some 256 ∧
    ltBroken (ltPrepare (tabled op) 0) 256 = false ∧ (headOf (ltPrepare (tabled op) 0) 0).ltLine < 64 ∧
    bits (ltRecord (ltPrepare (tabled op) 0) 256) 63 60 = op.toNat / 16 := by decide +kernel

theorem hyp_ComposeReads_fill : (headOf (lit oneTile composing) 0).comp = composing.comp ∧
    cached (lit oneTile composing) 0 = false ∧ (fillWanted (lit oneTile composing) 0 0).1 = true := by decide +kernel

theorem hyp_ComposeReads_video :
    (let w := lit oneVideo composing
     (((lineSpans w 0 composed).drop 0).any fun p => NSet.has 1 (spanRows w 0 composed p)) = true ∧ Sparse.find 1 (headOf w 0).rows = none ∧
      fbit w (Fd.vidCtrlHost 0 0) = false ∧ videoAt w 0 0 1 % 2 ^ 48 + videoLen w 0 0 ≤ w.mem.top ∧
      (w.mem.poison ++ w.mem.bad ++ w.mem.single) = []) ∧
    (let w := lit ((Fd.vidCtrlHost 0 0, 1) :: (Fd.hlStatLinkUp, 1) :: oneVideo) composing
     let w := { w with host := { w.host with busMaster := true } }
     (((lineSpans w 0 composed).drop 0).any fun p => NSet.has 1 (spanRows w 0 composed p)) = true ∧ hostUp w = true ∧
      fbit w (Fd.vidCtrlHost 0 0) = true) ∧
    reaches z .host (Adr.vidCoefData 5 3) = true ∧ z.variant.scaler = true ∧ fbit z (Fd.vidCtrlEn 5 3) = false := by
  decide +kernel

theorem hyp_DisplayPortAndPairs : engPresent z 127 = true ∧ inQuadReset z 31 = false ∧
    pairOf 0xA0001 = some (0x80000, true) ∧ pairOf 0xB7FFE = some (0x250FFFC, false) ∧ dispMem 0x250FFFC = true ∧
    (engOf (withEng { running with oddHeld := some (0x80000, 5) }) 0).oddHeld = some (0x80000, 5) := by decide +kernel

/-! ### Heads -/

/-- Head 0 with its mode, stopped. -/
def dark : State := sets [(Fd.headHstatRunning 0, 0)] (lit [] HeadUnit.reset)

theorem hyp_HeadRunWrites : reaches dark .host (Adr.headHctrl 0) = true ∧ fbit dark (Fd.headHstatRunning 0) = false ∧
    hitAt (Adr.headHctrl 0) (fun h => modeOk (plainWrite dark (Adr.headHctrl 0) h 1) 0 &&
      !modeOk (plainWrite z (Adr.headHctrl 0) h 1) 0) = true ∧
    fbit (lit [(Fd.headHstatStopping 0, 1)] HeadUnit.reset) (Fd.headHstatStopping 0) = true ∧
    (headOf (lit [] { HeadUnit.reset with placed := true }) 0).placed = true ∧ bit 1 0 = true ∧ bit 9 3 = true ∧
    bit 0 0 = false := by decide +kernel

theorem hyp_BeamAndSync :
    (let w := lit [(Fd.tlCfgKind 1, 2), (Fd.headPclkStatLocked 0, 1)] { HeadUnit.reset with next := 4 }
     mainUp w = true ∧ tlKind w 1 = 2 ∧ fbit w (Fd.headHstatRunning 0) = true ∧
      fbit w (Fd.headPclkStatLocked 0) = true ∧ leadOf w 0 ≤ (headOf w 0).next ∧ (headOf w 0).comp = none) ∧
    (let w := setTl (lit [(Fd.tlCfgKind 1, 2)] { HeadUnit.reset with placed := true }) 1 { TlUnit.reset with pos := 1823 }
     (tlOf w 1).pos < tlLap w 1 ∧ tlLap w 1 ≤ (tlOf w 1).pos + 1 ∧ 1 < tlLap w 1 ∧ (tlOf w 1).lap < 2 ^ 20 ∧
      (tlOf (setTl w 1 TlUnit.reset) 1).pos + 1 < tlLap (setTl w 1 TlUnit.reset) 1 ∧
      fbit (sets [(Fd.headHstatStopping 0, 1)] w) (Fd.headHstatStopping 0) = true) ∧
    (let w := setTl (lit [(Fd.headSyncCfgSrc 0, 3), (Fd.headSpanPerNs 0, 1000)] { HeadUnit.reset with placed := true }) 32
        { TlUnit.reset with adv := some (0, 999, 1) }
     headOut w 0 ≠ 1 ∧ headOut (sets [(Fd.headHctrlOut 5, 1)] w) 5 = 1 ∧ markComes w 0 = true ∧ fbit w (Fd.headSyncStatLocked 0) = false ∧ syncSrc w 0 ≠ 0 ∧
      fbit w (Fd.headSyncStatHoldover 0) = false ∧
      3 * sourcePs { w with clock := 1500 } 0 ≤ 2 * 1000 * ({ w with clock := 1500 }.clock - 0) ∧
      (let x := setTl (sets [(Fd.headSyncStatLocked 0, 1), (Fd.headSyncTolTol 0, 4), (Fd.headSyncCfgMisses 0, 1)] w) 1 { TlUnit.reset with pos := 5 }
       markComes x 0 = true ∧ fbit x (Fd.headSyncStatLocked 0) = true ∧
        (slipDist (tlLap (sets [(Fd.tlCfgKind 1, 2)] x) 1) (tlPos x 1) 0).natAbs = 5 ∧ fget x (Fd.headSyncTolTol 0) < 5 ∧
        max 1 (fget x (Fd.headSyncCfgMisses 0)) ≤ 0 + 1 ∧
        0 + 1 < max 1 (fget (sets [(Fd.headSyncCfgMisses 0, 2)] x) (Fd.headSyncCfgMisses 0)) ∧
        5 ≤ fget (sets [(Fd.headSyncTolTol 0, 5)] x) (Fd.headSyncTolTol 0))) := by decide +kernel

theorem hyp_DisplayLinks : mainUp z = true ∧ z.variant.head 3 = true ∧ reaches z .host (Adr.headDpTrain 3) = true ∧
    fbit z (Fd.headDpStatHpd 3) = false ∧
    (let w := sets [(Fd.headDpStatHpd 3, 1), (Fd.headDpStatTraining 3, 1), (Fd.joinJcfgEn 3, 1)] z
     fbit w (Fd.headDpStatTraining 3) = true ∧ 0 ≤ dpRate w 3 ∧ 0 ≤ dpLanesAsked w 3 ∧ fbit w (Fd.headDpStatHpd 3) = true) ∧
    idleManages z 3 = false ∧ reaches z .host (Adr.headAuxCmd 3) = true ∧ fbit z (Fd.headAuxStatBusy 3) = false ∧
    (let w := sets [(Fd.headAuxStatBusy 3, 1), (Fd.headAuxCmdCmd 3, 9)] z
     fbit w (Fd.headAuxStatBusy 3) = true ∧ bit (fget w (Fd.headAuxCmdCmd 3)) 0 = true ∧ (headOf w 3).auxTries < 7 ∧
      7 ≤ (headOf (setHead w 3 { HeadUnit.reset with auxTries := 7 }) 3).auxTries ∧
      [(0 : Byte)].length ≤ fget w (Fd.headAuxCmdLen 3) + 1) := by decide +kernel
/-! ### Audio, posts and tallies -/

/-- The block with a few fields set. -/
def zf (l : List (FieldAt × Nat)) : State := sets l z

theorem hyp_Voices : reaches z .host (Adr.vKey 511) = true ∧ stagedIn z (Adr.vKey 511) = none ∧
    fget (zf [(Fd.vStatPhase 511, 1)]) (Fd.vStatPhase 511) = 1 ∧ fget (zf [(Fd.vStatPhase 511, 4)]) (Fd.vStatPhase 511) = 4 ∧
    fget z (Fd.vStatPhase 0) = 0 ∧ mainUp z = true ∧ fbit z Fd.audCfgRun = false ∧
    (let w := zf [(Fd.audCfgRun, 1), (Fd.tlCfgKind 7, 3)]
     fbit w Fd.audCfgRun = true ∧ tlKind w 7 = 3 ∧ (tlOf w 7).pos < 2 ^ 20) ∧ (voiceOf z 0).f < 2 ^ 16 := by decide +kernel

theorem hyp_PostWrites : reaches z .host (Adr.postPcfg 1023) = true ∧ postGuard z 1023 .host (postPegged z 1023) false = none ∧
    reaches z .host (Adr.prtOutSet 31) = true ∧ reaches z .host (Adr.postPeg 0) = true ∧
    postGuard (zf [(Fd.postOwnSecure 0, 1)]) 0 .host false false ≠ none ∧
    fget (zf [(Fd.postPstatStage 0, 2)]) (Fd.postPstatStage 0) = 2 ∧ mainUp z = true ∧ 31 < z.variant.ports := by
  decide +kernel

theorem hyp_SerialAndPinLines : mainUp z = true ∧ 31 < z.variant.ports ∧ reaches z .host (Adr.prtSerTx 31) = true ∧
    postGuard z (32 * 31) .host (postPegged z (32 * 31)) false = none ∧ reaches z .host (Adr.prtSerCfg 31) = true ∧
    postGuard z (32 * 31) .host (serFrozen z 31 0x40) false = none ∧ bits 0x40000 19 18 ≠ fget z (Fd.prtSerCfgMode 31) ∧
    (serOf (setSer z 3 { SerUnit.reset with tx := [0x65], rx := [7] }) 3).tx = [0x65] ∧ bit 0x265 9 = true ∧
    16 ≤ (serOf (setSer z 3 { SerUnit.reset with tx := List.replicate 16 5, rx := List.replicate 16 7 }) 3).rx.length ∧
    (∀ md ∈ [0, 1, 2, 3], fget (zf [(Fd.prtSerCfgMode 3, md)]) (Fd.prtSerCfgMode 3) = md) ∧
    (let w := setSer (zf [(Fd.prtSerCfgMode 3, 1), (Fd.prtSerCfgCtsEn 3, 1), (Fd.prtBankStatPresent 3, 1), (Fd.postPcfgFunc 99, 2)]) 3
      { SerUnit.reset with tx := [5], begun := true, cts := true }
     (fget w (Fd.prtSerCfgMode 3) = 1 ∧ fbit w (Fd.prtSerCfgCtsEn 3) = true ∧ serCts w 3 = true) ∧ (serOf w 3).begun = true) ∧
    (let w := zf [(Fd.prtBankStatPresent 3, 1), (Fd.postPcfgFunc 96, 4), (Fd.postPcfgFunc 97, 4), (Fd.postPcfgFunc 98, 3)]
     postLive w 98 3 = true ∧ postLive z 98 3 = false ∧ postLive w 96 4 = true ∧ postLive z 96 4 = false ∧
      postLive w 97 4 = true ∧ postLive w 97 2 = false) ∧
    postLive (zf [(Fd.prtBankStatPresent 3, 1), (Fd.postPcfgFunc 97, 2)]) 97 2 = true ∧ (bit 0x200 9 = true ∧ bit 0x65 9 = false) ∧
    bankLive z 0 = false ∧ postPort (pilPost z 0) = 0 ∧
    (let w := zf [(Fd.pilCfgEn 31, 1), (Fd.pilCfgMode 31, 2), (Fd.prtBankStatPresent 0, 1)]
     fbit w (Fd.pilCfgEn 31) = true ∧ pilPost w 31 < w.variant.posts ∧ fbit w (Fd.pilStatLevel 31) ≠ true ∧
      pilMode w 31 = 2 ∧ pilResolved w 31 = true ∧ bankLive w (postPort (pilPost w 31)) = true) := by decide +kernel

theorem hyp_TallyUnits :
    (let w := zf [(Fd.kCfgEn 31, 1), (Fd.kSrcKind 31, 3), (Fd.kFrameFmode 31, 1)]
     mainUp w = true ∧ w.variant.tallies 31 = true ∧ fbit w (Fd.kCfgEn 31) = true ∧ fget w (Fd.kSrcKind 31) = 3 ∧
      tallyFmode w 31 = 1 ∧ (tallyOf w 31).inFrame = false ∧
      (tallyOf (setTally w 31 { TallyUnit.reset with inFrame := true, bytes := [1] }) 31).inFrame = true) ∧
    (let w := setTally { z with mem := { z.mem with top := 4096 } } 31
        { TallyUnit.reset with ring := [(4080, List.replicate 16 1)] }
     (tallyOf w 31).ring = [(4080, List.replicate 16 1)] ∧ 4080 % 8 = 0 ∧ (List.replicate 16 1).length = 16 ∧
      4080 + 16 ≤ w.mem.top) := by decide +kernel

/-! ### Memory and the movers -/

theorem hyp_MemoryUpkeep : mainUp z = true ∧ 3 < z.variant.channels ∧ fbit z (Fd.mcStatTrained 3) = false ∧
    fbit z (Fd.mcStatFail 3) = false ∧ (capListed 32 = true ∧ capListed 5 = false) ∧
    (let w := zf [(Fd.mcStatTrained 3, 1), (Fd.mcScrubEn 3, 1)]
     fbit w (Fd.mcStatTrained 3) = true ∧ fbit w (Fd.mcScrubEn 3) = true) ∧
    NSet.has (8 / 8) { z with mem := { z.mem with writeBack := [1] } }.mem.writeBack = true ∧
    (let w := zf [(Fd.plStatBusy, 1), (Fd.memAgeLimit, 1)]
     (ageBase w .planer).2 = true ∧ fget w Fd.memAgeLimit ≠ 0 ∧ 1 < ageClass w .planer ∧
      ageClass { w with mem := { w.mem with aged := [(ageKey .planer, 2)] } } .planer ≤ 1) := by decide +kernel

/-- A block with 4 KiB of DRAM. -/
def dram (l : List (FieldAt × Nat)) : State := { zf l with mem := { z.mem with top := 4096 } }

theorem hyp_BayDmaRuns : reaches z .host (Adr.dCtrl 31 1) = true ∧
    hitAt (Adr.dCtrl 31 1) (fun h => decide (dmaRefused (plainWrite (dram []) (Adr.dCtrl 31 1) h 0x80200) .host 31 1 = none) &&
      decide (dmaRefused (plainWrite (dram [(Fd.dWaddrW 31 1, 0x6000), (Fd.dCountN 31 1, 1)]) (Adr.dCtrl 31 1) h 0x80000) .host 31 1 ≠ none)) = true ∧
    dmaBusy z 31 1 = false ∧ dmaArmed z 31 1 = false ∧ (bit 0x80200 19 = true ∧ bit 0x80200 18 = false ∧ bit 0x80200 9 = true) ∧
    (let w := dram [(Fd.dStatArmed 31 1, 1), (Fd.dStatTrigPend 31 1, 1)]
     mainUp w = true ∧ dmaOpenQuad w 31 = true ∧ dmaArmed w 31 1 = true ∧ fget w (Fd.dStatTrigPend 31 1) ≠ 0) ∧
    (let w := dram [(Fd.dStatBusy 31 1, 1), (Fd.dCountN 31 1, 4)]
     dmaBusy w 31 1 = true ∧ fget w (Fd.dCtrlMode 31 1) = 0 ∧ fbit w (Fd.dCtrlDir 31 1) = false ∧ w.mem.top ≤ 2 ^ 40 ∧
      fget w (Fd.dCountN 31 1) = 4 ∧ dmaAddr w 31 1 + 4 * 4 ≤ w.mem.top ∧
      (∀ i < 4, (granOf w (dmaWordAt w 31 1 i).1).mark ≠ .bad) ∧ w.mem.poison = [] ∧ w.mem.bad = []) := by decide +kernel

theorem hyp_BargeTransfers : reaches z .host (Adr.bgChCtrl 15) = true ∧ mainUp z = true ∧
    (let w := zf [(Fd.bgStatBusy 15, 1)]
     fbit w (Fd.bgStatBusy 15) = true) ∧
    (let w := zf [(Fd.bgStatWaiting 15, 1), (Fd.bgStatTrigPend 15, 1)]
     fbit w (Fd.bgStatBusy 15) = false ∧ fbit w (Fd.bgStatWaiting 15) = true ∧ fget w (Fd.bgStatTrigPend 15) ≠ 0) ∧
    (let w := zf [(Fd.bgStatShValid 15, 1), (Fd.bgChCtrlEn 15, 1)]
     fbit w (Fd.bgStatShValid 15) = true ∧ fbit w (Fd.bgChCtrlEn 15) = true ∧ NSet.has 15 w.bargeLoaded = false ∧
      fbit w (Fd.bgStatErr 15) = false ∧ fbit w (Fd.bgStatPoison 15) = false ∧ fbit w (Fd.bgStatAborted 15) = false) ∧
    NSet.has 15 { z with bargeLoaded := [15] }.bargeLoaded = true ∧
    (let w := dram [(Fd.bgStatBusy 15, 1), (Fd.bgADstA 15 0, 64), (Fd.bgALenN 15 0, 32)]
     bargeSrcHost w 15 = false ∧ bargeDstHost w 15 = false ∧ bargeSrc w 15 = 0 ∧ bargeDst w 15 = 64 ∧ bargeLen w 15 = 32 ∧
      w.mem.top = 4096 ∧ w.mem.poison = [] ∧ w.mem.bad = []) := by decide +kernel

theorem hyp_PlanerOperations : reaches z .host Adr.plCmd = true ∧ z.variant.planer = true ∧
    (∀ op ∈ [0, 1, 2, 3, 4], bits (0x80000 + op * 0x8000) 17 15 = op ∧ bit (0x80000 + op * 0x8000) 19 = true ∧
      bit (0x80000 + op * 0x8000) 18 = false ∧
      hitAt Adr.plCmd (fun h => !plRefused (plainWrite (dram [(Fd.plWW, 4), (Fd.plHH, 1), (Fd.plDpitchP, 16),
        (Fd.plSpitchP, 16)]) Adr.plCmd h (0x80000 + op * 0x8000))) = true) ∧
    hitAt Adr.plCmd (fun h => plRefused (plainWrite z Adr.plCmd h 0x80000)) = true ∧ fbit z Fd.plStatBusy = false ∧
    (let w := dram [(Fd.plStatBusy, 1), (Fd.plCmdOp, 1)]
     mainUp w = true ∧ fbit w Fd.plStatBusy = true ∧ fget w Fd.plCmdOp = 1 ∧ w.mem.poison = [] ∧ w.mem.bad = []) := by
  decide +kernel

/-! ### Interrupts and raise groups -/

theorem hyp_Interrupts :
    (let w := { zf [(Fd.srcSrcCfgEn 1023, 1), (Fd.srcSrcCfgPrio 1023, 15), (Fd.srcSrcCfgIdx 1023, 127)] with
       ic := { IcState.reset with latch := [1023], engs := [(127, { pr := 3, cur := some 5, stack := [(0, none)] })] } }
     icCandidate w 127 = some 1023 ∧ icCandidate z 127 = none ∧ reaches w .host (Adr.icEEoi 127) = true ∧
      eoiAdmits 127 .host = true ∧ eoiAdmits 127 (.engine 126 1) = false ∧ (icEngOf w 127).stack = [(0, none)] ∧
      reaches w (.engine 126 1) (Adr.icEEoi 127) = true ∧ (icEngOf z 127).stack = []) ∧
    (let w := { sets [(Fd.srcSrcCfgEn 512, 1), (Fd.srcSrcCfgPrio 512, 15), (Fd.srcSrcCfgTgt 512, 1),
         (Fd.srcSrcCfgIdx 512, 63), (Fd.hlStatLinkUp, 1)] z with
       ic := { IcState.reset with latch := [512], hold := [(63, 1)] }, host := { z.host with busMaster := true } }
     mainUp w = true ∧ vecCandidate w 63 = some 512 ∧ vecDue w 63 = true ∧ vecOpen w 63 = true ∧
      Sparse.get 0 63 w.ic.hold = 1 ∧ vecCandidate z 63 = none ∧ vecDue z 63 = false) ∧
    reaches z .host (Adr.icVEoi 63) = true ∧ reaches z .host Adr.icSwSet = true := by decide +kernel

/-- Group 15 with slot 7 on the block of video layer 0 of head 0 (kind 0), enabled or not. -/
def grouped (on pend : Nat) : State :=
  sets [(Fd.rgMemEn 15 7, 1), (Fd.rgCtrlEn 15, on), (Fd.rgStatPend 15, pend)] z

theorem hyp_RaiseGroups :
    (let w := grouped 1 0
     reaches w .host 0x80200 = true ∧ stagedIn w 0x80200 = some (15, 7) ∧
      hitAt 0x80200 (fun h => !prodSecret w .host h 0) = true ∧ w.variant.scaler = true ∧
      reaches w .host (Adr.rgCtrl 15) = true ∧ fbit w (Fd.rgCtrlEn 15) = true ∧ joined w = false ∧
      fget w (Fd.rgStatPend 15) = 0) ∧
    (bit 0xA0000 19 = true ∧ bit 0xA0000 18 = false ∧ bit 0xA0000 17 = true ∧ bit 0x60000 18 = true ∧ bit 0x20000 17 = true) ∧
    fget (grouped 1 0x80) (Fd.rgStatPend 15) = 0x80 ∧
    hitAt (Adr.rgCtrl 15) (fun h => !rgOverlap (plainWrite (grouped 0 0) (Adr.rgCtrl 15) h 0) 15 &&
      rgOverlap (plainWrite (sets [(Fd.rgMemEn 15 6, 1)] (grouped 0 0)) (Adr.rgCtrl 15) h 0) 15) = true ∧
    (let w := { grouped 1 0xC0 with rg := { RgState.reset with due := [(15, [(0, 0x80), (0, 0xC0), (0, 0x01)])] } }
     mainUp w = true ∧ (∀ p ∈ [(0, 0x80), (0, 0xC0)], p ∈ Sparse.get [] 15 w.rg.due ∧ p.2 &&& fget w (Fd.rgStatPend 15) ≠ 0) ∧
      (0, 0x01).2 &&& fget w (Fd.rgStatPend 15) = 0 ∧ Sparse.get [] 15 (grouped 1 0xC0).rg.due = [] ∧
      Sparse.get 0 15 w.rg.tornAt = 0) := by decide +kernel
/-! ### Host, side-band and SPDM -/

theorem hyp_HostAccess : mainUp z = true ∧ fbit z Fd.sbFenceBar2 = false ∧ fbit (zf [(Fd.sbFenceBar2, 1)]) Fd.sbFenceBar2 = true ∧
    (let w := dram []
     fget w Fd.hlWinBase * 2 ^ 20 + (4092 : BitVec 30).toNat / 4 * 4 + 4 * 1 ≤ w.mem.top ∧
      w.mem.top < fget w Fd.hlWinBase * 2 ^ 20 + (4092 : BitVec 30).toNat / 4 * 4 + 4 * 2 ∧
      w.mem.poison ++ w.mem.bad ++ w.mem.single = []) ∧
    fbit z Fd.pwrStatPerst = false ∧ (linkMode 5 4 = true ∧ linkMode 6 4 = false) ∧ fbit (zf [(Fd.hlStatLinkUp, 1)]) Fd.hlStatLinkUp = true ∧
    (let w := lit ((Fd.vidCtrlHost 0 0, 1) :: oneVideo) composing
     (headOf w 0).comp = some composed ∧
      (((lineSpans w 0 composed).drop 0).any fun p => NSet.has 1 (spanRows w 0 composed p)) = true ∧
      Sparse.find 1 (headOf w 0).rows = none ∧ fbit w (Fd.vidCtrlHost 0 0) = true) ∧
    (let w := dram [(Fd.bgStatBusy 15, 1), (Fd.bgALenN 15 0, 32), (Fd.bgAOptAs 15, 16)]
     fbit w (Fd.bgStatBusy 15) = true ∧ bargeLen w 15 ≠ 0 ∧ bargeSrcHost w 15 = true ∧
      bargeDst w 15 % 2 ^ 48 + bargeLen w 15 ≤ w.mem.top) := by decide +kernel

theorem hyp_SidebandRequests : z.th.aonUp = true ∧ mainUp z = true ∧ mainUp (zf [(Fd.pwrStatMainRst, 1)]) = false ∧
    (0 % 4 = 0 ∧ 1 ≤ 64 ∧ 0x3FFFF00 + 4 * 64 ≤ 2 ^ 26) ∧
    hitAt (Adr.busGain 0) (fun h => decide (h.blk.id ∈ [Blk.bus, .port, .spd, .dpa, .inp, .mc, .sb, .spr, .plane, .til]) &&
      !prodSecret z .sideband h 5) = true ∧
    dispMem (Adr.busGain 0) = false ∧ mirrorView (Adr.busGain 0) = false ∧ reaches z .sideband (Adr.busGain 0) = true ∧
    stagedIn z (Adr.busGain 0) = none ∧
    hitAt (Adr.tlSet0 1) (fun h => hitPresent z h && writeRefused z .sideband (Adr.tlSet0 1) h) = true ∧
    flagsView (Adr.tlSet0 1) = false ∧ dispMem (Adr.tlSet0 1) = false ∧ mirrorView (Adr.tlSet0 1) = false ∧
    (1023 : BitVec 16).toNat < 1024 ∧ (16 : Byte).toNat ≤ 16 := by decide +kernel

/-- The responder's conditions; the certificate chain itself is the outside world's, so that condition is a premise. -/
theorem hyp_SpdmResponder : thUp z = true ∧ z.th.spdm = false ∧
    (let w := { z with th := { z.th with spdm := true, provisionFuse := true, priv := some 5 } }
     thUp w = true ∧ w.th.spdm = true ∧ spdmSigns w = true) := by decide +kernel

theorem hyp_SpdmResponder_chain (s : State) (h : idKey s = some Config.chainLeaf) : chainIn s 0 = true := by
  simp [chainIn, h]

/-! ### The Tollhouse -/

theorem hyp_MailboxCommands : reaches z .host (Adr.mbCmd 0) = true ∧ reaches z .sideband (Adr.mbCmd 1) = true ∧
    fbit z (Fd.mbCmdStatBusy 1) = false ∧ fbit (zf [(Fd.mbCmdStatBusy 0, 1)]) (Fd.mbCmdStatBusy 0) = true ∧
    thUp z = true ∧ Sparse.find 1 { z with th := { z.th with results := [(1, (7, 15))] } }.th.results = some (7, 15) := by
  decide +kernel

/-- A Tollhouse in lifecycle state `n` with owner key 0, a private key, an image that runs, trained DRAM, and argument
bytes 0 and 1 of both mailboxes. -/
def inLife (n arg : Nat) : State :=
  { sets [(Fd.mcStatTrained 0, 1), (Fd.mcStatFail 1, 1), (Fd.mcStatFail 2, 1), (Fd.mcStatFail 3, 1), (Fd.mbArgA 0 0, arg),
      (Fd.mbArgA 1 0, arg)] z with
    th := { z.th with provisionFuse := decide (1 ≤ n), deployFuse := decide (2 ≤ n), retireFuse := decide (3 ≤ n),
                      ownerKeys := [(0, 1), (1, 1)], priv := some 1, seed := some 1, running := some (0, 1) } }

/-- A command that nothing stands against but its signature stands without error where the key signed it. -/
theorem signed_command_clear (s : State) (b code : Nat) (r : CmdRow) (hr : cmdRow s code = some r)
    (h4 : b ∈ r.boxes) (h2 : life s ∈ r.states) (hc : code ≠ 1 ∧ code ≠ 5) (ha : argBad s b code = false)
    (ht : trngFailed s = false) (hs : cmdSigned s b code = true) : cmdErrors s b code = [] := by
  simp [cmdErrors, hr, h4, h2, hc.1, hc.2, ha, ht, hs]

theorem hyp_MailboxEffects :
    cmdErrors (inLife 0 2) 0 2 = [] ∧ cmdErrors (inLife 3 7) 1 2 = [] ∧ cmdErrors (inLife 2 0) 0 3 = [] ∧
    cmdErrors (inLife 0 0) 0 4 = [] ∧ cmdErrors (inLife 2 0) 1 5 = [] ∧ cmdErrors z 1 7 = [] ∧
    cmdErrors (inLife 1 3) 0 10 = [] ∧ cmdErrors (inLife 0 0) 0 13 = [] ∧ cmdErrors (inLife 1 0) 1 14 = [] ∧
    counterOf (inLife 2 0) 0 ≤ 1 ∧ cmdErrors z 0 7 = [4] ∧ cmdErrors (inLife 3 0) 0 3 = [2] ∧
    cmdErrors (inLife 0 1) 0 2 = [3] := by decide +kernel

/-- The commands that need a signature: all else that R406 asks holds of them. -/
theorem hyp_MailboxEffects_signed :
    (cmdSigned (inLife 1 0) 1 8 = true → cmdErrors (inLife 1 0) 1 8 = []) ∧
    (cmdSigned (inLife 2 0) 0 9 = true → cmdErrors (inLife 2 0) 0 9 = []) ∧
    (cmdSigned (inLife 2 0) 0 11 = true → cmdErrors (inLife 2 0) 0 11 = []) ∧
    (cmdSigned (inLife 2 0) 0 12 = true → cmdErrors (inLife 2 0) 0 12 = []) := by
  refine ⟨?_, ?_, ?_, ?_⟩ <;>
    exact signed_command_clear _ _ _ _ rfl (by decide +kernel) (by decide +kernel) (by decide) (by decide +kernel)
      (by decide +kernel)

/-- A frame of 0 lines whose ring has nothing to check. -/
theorem hyp_MailboxEffects_witness :
    witnessGood (dram [(Fd.kSrcKind 0, 4), (Fd.kCfgCode 0, 2), (Fd.kCfgRing 0, 1)]) 0 0 0 0 = true := by decide +kernel

/-- An image whose key, signature and digest are good is not refused; its header and one section without bytes are. -/
def smallImage : State :=
  (setMemBytes (setMemBytes (dram []) 0 [88, 77, 66, 79, 79, 84, 48, 49, 1, 0, 1, 0, 0, 0, 1, 0, 0, 0, 0, 0, 16]) 262 [1])

theorem hyp_MailboxEffects_boot (k : BitVec 256) (hk : imgKey smallImage (dramImage smallImage 0) 1 = some k)
    (hv : Config.ed25519Verify k (imgBytes (dramImage smallImage 0) 0 128)
      (BitVec.ofNat 512 (imgNat (dramImage smallImage 0) 128 64)) = true)
    (hd : (Config.sha512 (imgBytes (dramImage smallImage 0) 256 (imgNat (dramImage smallImage 0) 20 4))).toNat =
      imgNat (dramImage smallImage 0) 32 64) :
    imgRefused smallImage (dramImage smallImage 0) 1 (dramRoom smallImage 0) = none := by
  have h1 : imgHeaderOk (dramImage smallImage 0) 1 (dramRoom smallImage 0) = true := by decide +kernel
  have h2 : sectionsOk smallImage (dramImage smallImage 0) = true := by decide +kernel
  have h3 : ¬ imgNat (dramImage smallImage 0) 16 4 < counterOf smallImage (imgNat (dramImage smallImage 0) 12 1) := by
    decide +kernel
  simp only [imgRefused, h1, hk, hv, hd, h2, h3]
  simp

theorem hyp_TollhouseUnits : reaches z .sideband Adr.thPushBase0 = true ∧ reaches z .sideband Adr.thPush = true ∧
    (0 + 4 ≤ (dram []).mem.top ∧ (dram []).mem.poison ++ (dram []).mem.bad = []) ∧ busOpen z .host Adr.thRng = true ∧
    busOpen z (.engine 5 2) Adr.thRng = true ∧ fbit z Fd.thRngStatFail = false ∧
    fbit (zf [(Fd.thRngStatFail, 1)]) Fd.thRngStatFail = true ∧ busOpen z .host (Adr.thRtc 0) = true ∧ thUp z = true ∧
    z.th.rtcFrac < 2 ^ 16 ∧ z.th.rtcSec < 2 ^ 40 ∧ bit (fget z Fd.thDoorOpen) 7 = false ∧
    (true != bit (fget z Fd.thDoorClosed) 7) = true ∧ bit (fget (zf [(Fd.thDoorOpen, 128)]) Fd.thDoorOpen) 7 = true ∧
    bit (fget z Fd.thSenseAsserted) 13 = false ∧ z.th.aonUp = true ∧ reaches z .sideband Adr.thAlarm = true ∧
    reaches z .host Adr.thAlarm = true ∧ bit 0x80000 19 = true ∧ fget z Fd.thSenseAsserted = 0 ∧
    bit (fget (zf [(Fd.thSenseAsserted, 1), (Fd.thPol0Pol, 1)]) Fd.thSenseAsserted) 0 = true ∧
    bits (fget (zf [(Fd.thSenseAsserted, 1), (Fd.thPol0Pol, 1)]) Fd.thPol0Pol) 1 0 ≠ 0 := by decide +kernel

/-! ### The span -/

/-- Chip 0 on the span, joined with chip 3, its port 0 in state `st`, and more. -/
def linked (st : Nat) (sp : SpanState) : State :=
  { zf [(Fd.spCfgEn, 1), (Fd.spStatJoined, 1), (Fd.spMembersMask, 9), (Fd.sppStatState 0, st)] with span := sp }

def hello (n : Fin 16) (q : BitVec 8) : SyncFrame :=
  { hello := true, nak := false, fromRoot := false, sender := n, seq := q, ack := 0, time := 0, lap := 0, admitted := 0,
    root := 0, rootEn := false, hops := 0, tiView := 0, waiting := 0, dOver8 := 0, delayToRoot := 0, digest := 0 }

theorem hyp_SpanLinks : spanOn (linked 1 .reset) = true ∧ 0 < z.variant.spanPorts ∧
    fget (linked 1 .reset) (Fd.sppStatState 0) = 1 ∧ (hello 0 0).sender.val = (linked 1 .reset).spanId.toNat ∧
    (hello 3 0).sender.val ≠ (linked 1 .reset).spanId.toNat ∧
    (let w := { linked 2 { SpanState.reset with ports := [(0, { SpanPort.reset with probes := 16, rxSeq := 255 })] } with
       clock := 400000 }
     2 ≤ fget w (Fd.sppStatState 0) ∧ 3 * syncNs w ≤ w.clock - (spanPort w 0).syncAt ∧ 16 ≤ (spanPort w 0).probes ∧
      (hello 3 0).seq.toNat = ((spanPort w 0).rxSeq + 1) % 256 ∧
      (hello 3 9).seq.toNat ≠ ((spanPort w 0).rxSeq + 1) % 256) := by decide +kernel

theorem hyp_SpanLinks_digest (s : State) : ∃ f g : SyncFrame, f.hello = true ∧ f.sender = 3 ∧ f.digest = joinDigest s ∧
    g.hello = true ∧ g.sender = 3 ∧ g.digest ≠ joinDigest s :=
  ⟨{ hello 3 0 with digest := joinDigest s }, { hello 3 0 with digest := joinDigest s + 1 }, rfl, rfl, rfl, rfl, rfl, by
    show joinDigest s + 1 ≠ joinDigest s
    simp⟩

theorem hyp_SpanEvents :
    (let w := linked 2 SpanState.reset
     mainUp w = true ∧ spanOn w = true ∧ joined w = true ∧ fget w (Fd.sppStatState 0) = 2 ∧
      bit (fget w Fd.spMembersMask) 3 = true ∧ w.span.held.length + 8 ≤ 512 ∧ spanBehind w (2 ^ 40 - 1) = true ∧
      spanBehind w 1 = false ∧ heldDue w = none) ∧
    (let w := linked 2 { SpanState.reset with held := [(0, 5), (7, 1)] }
     heldDue w = some (0, 5)) ∧ engPresent z 127 = true ∧ inQuadReset z 31 = false := by decide +kernel

theorem hyp_SpanVotes :
    (let w := linked 2 SpanState.reset
     let x := sets [(Fd.rgCtrlEn 15, 1), (Fd.rgCtrlSpan 15, 1)] w
     spanOn w = true ∧ joined w = true ∧ spanIsRoot w = true ∧ bit (fget w Fd.spMembersMask) 3 = true ∧
      Sparse.find 15 w.span.rootVotes = none ∧ bit (fget w Fd.spMembersMask) w.spanId.toNat = true ∧
      fbit x (Fd.rgCtrlEn 15) = true ∧ fbit x (Fd.rgCtrlSpan 15) = true ∧ fget x (Fd.rgStatPend 15) = 0 ∧
      ¬ (fbit w (Fd.rgCtrlEn 15) = true)) ∧
    (let w := { linked 2 { SpanState.reset with rootVotes := [(15, { origin := 0, acks := [0], next := 0, startedAt := 0 })] } with
       clock := 2 ^ 40 }
     spanIsRoot w = true ∧ (∀ k < 16, bit (fget w Fd.spMembersMask) k = true → NSet.has k (NSet.ins 3 [0]) = true) ∧
      ¬ (∀ k < 16, bit (fget w Fd.spMembersMask) k = true → NSet.has k (NSet.ins 0 [0]) = true) ∧
      1000 * fget w Fd.spVoteToUs ≤ w.clock - 0) ∧
    (let w := { linked 2 { SpanState.reset with
         ports := [(0, { SpanPort.reset with root := 0, rootOk := true, hops := 0 })],
         votes := [(14, { ackedAt := some 0, arm := none }), (15, { ackedAt := none, arm := some (0, 5) })]
         asked := [15] } with
       spanId := 3, clock := 2 ^ 40 }
     spanOn w = true ∧ joined w = true ∧ spanIsRoot w = false ∧ (voteOf w 14).ackedAt = some 0 ∧
      2000 * fget w Fd.spVoteToUs ≤ w.clock - 0 ∧ (voteOf w 15).arm = some (0, 5) ∧ spanReached w 0 = true ∧
      fget w (Fd.sppStatState 0) = 2 ∧ bit (fget w Fd.spMembersMask) (fget w Fd.spRootRoot) = true ∧
      NSet.has 15 w.span.asked = true ∧ fget w Fd.spRootRoot = 0 ∧ NSet.has 14 w.span.asked = false) := by
  decide +kernel

theorem hyp_RemoteMemory :
    (let w := { sets [(Fd.rcCtrlChip, 3), (Fd.rcStatBusy, 1), (Fd.rcCtrlDir, 1)] (linked 2 { SpanState.reset with rcOut := [5] }) with
       mem := { z.mem with top := 4096 } }
     spanOn w = true ∧ joined w = true ∧ bit (fget w Fd.spMembersMask) 3 = true ∧ w.mem.top = 4096 ∧
      fbit w Fd.rcStatBusy = true ∧ (3 : Fin 16).val = fget w Fd.rcCtrlChip ∧
      w.span.rcOut.find? (fun y => decide (y % 16 = 5)) = some 5 ∧ fbit w Fd.rcCtrlDir = true ∧ w.span.rcLeft = 0 ∧
      w.mem.poison = [] ∧ w.mem.bad = [] ∧ reaches w .host Adr.rcCtrl = true ∧
      fget w (Fd.sppStatState 0) = 2 ∧ (0 : Fin 16).val = w.spanId.toNat) ∧
    (let w := { linked 2 SpanState.reset with spanId := 3 }
     (0 : Fin 16).val ≠ w.spanId.toNat ∧ bit (fget w Fd.spMembersMask) 0 = true ∧ bit (fget w Fd.spMembersMask) 3 = true) ∧
    (let w := { linked 2 SpanState.reset with mem := { z.mem with top := 4096 } }
     hitAt Adr.rcCtrl (fun h => decide (fget (plainWrite w Adr.rcCtrl h 0x80003) Fd.rcCtrlChip = 3) &&
       decide (fget (plainWrite w Adr.rcCtrl h 0x80000) Fd.rcCtrlChip = w.spanId.toNat)) = true ∧
      fbit w Fd.rcStatBusy = false ∧ rcLocal w + rcLen w ≤ w.mem.top ∧ rcLen w ≤ 2 ^ 24) ∧
    (let w := sets [(Fd.rcStatBusy, 1)] (linked 2 SpanState.reset)
     fbit w Fd.rcStatBusy = true ∧ w.span.rcLeft = 0 ∧ w.span.rcOut = []) := by decide +kernel

/-! ### Power, quads, and the block as a whole -/

theorem hyp_PowerAndReset : z.th.aonUp = true ∧ fbit z Fd.pwrStatMainOn = true ∧
    fbit (zf [(Fd.pwrStatMainOn, 0)]) Fd.pwrStatMainOn = false ∧ fbit z Fd.pwrStatMainPg = true ∧
    fbit (zf [(Fd.pwrStatMainPg, 0)]) Fd.pwrStatMainPg = false ∧
    fbit (zf [(Fd.pwrStatMainRst, 1), (Fd.thStatAlarm, 1)]) Fd.pwrStatMainRst = true ∧ fbit z Fd.pwrStatPerst = false ∧
    mainUp z = true ∧ fbit (zf [(Fd.pwrStatPerst, 1)]) Fd.pwrStatPerst = true ∧
    { z with th := { z.th with aonUp := false } }.th.aonUp = false := by decide +kernel

theorem hyp_QuadsAndIdleProgram : mainUp z = true ∧ reaches z .host Adr.pwrQrst = true ∧ bit 0x8001F 19 = true ∧
    quadPresent z (0x8001F % 32) = true ∧ Sparse.get 0 31 z.quadRst = 0 ∧ z.th.aonUp = true ∧
    (let w := { z with quadRst := [(31, 2 * 64)], clock := 64 }
     Sparse.get 0 31 w.quadRst ≠ 0 ∧ Sparse.get 0 31 w.quadRst / 2 ≤ w.clock) ∧
    reaches z .tollhouse Adr.pwrEngGo = true ∧ reaches z .host Adr.pwrIdleHeads = true ∧ fbit z Fd.pwrStatIdle = false ∧
    (let w := sets [(Fd.pwrEngStartRun 127, 1), (Fd.pwrStatIdle, 1)] State.reset
     engPresent w 127 = true ∧ (engOf w 127).held = true ∧ fbit w (Fd.pwrEngStartRun 127) = true ∧
      fbit w Fd.pwrStatIdle = true) ∧
    (0x700000000 % 8 = 0 ∧ 0x100000 ≤ { z with mem := { z.mem with top := 0x700000000 } }.mem.top) ∧
    idleManages z 3 = false ∧ z.mem.top = 0 := by decide +kernel

/-- The cabinet of 19_startup.md: MEM_TOP 0x7_0000_0000, with the idle program managing H0. -/
def cabinet : State :=
  sets [(Fd.pwrStatIdle, 1), (Fd.pwrIdleHeadsHeads, 0xF)] { z with mem := { z.mem with top := 0x700000000 } }

/-- The banner's settings in the example of 19_startup.md, from DST_X on. -/
theorem test_banner_example :
    ((bannerWrites cabinet 2 3840 2160).drop 7).map (·.2) =
      [0x280, 0x78, 0xA00, 0x780, 0x4000, 0x4000, 0x17, 0x124] ∧
    ((bannerWrites cabinet 0 1920 1080).drop 7).map (·.2) =
      [0x140, 0x3C, 0x500, 0x3C0, 0x8000, 0x8000, 0x17, 0x124] ∧
    (bannerWrites cabinet 0 1920 1080).take 2 = [(0x80204, 0xFFF00000), (0x80208, 0x6)] := by decide +kernel

/-- The mode of the example of 09_heads.md suits four lanes of HBR2 and not one lane of RBR (R237), and its writes with the
run bit start the head. -/
theorem test_idle_mode :
    (mode1080 0).map (·.2) = [0x780, 0x898, 0x2C07D8, 0x438, 0x465, 0x5043C, 0x7, 0x24414] ∧
    modeSuits cabinet 0 2 2 (mode1080 0) = true ∧ modeSuits cabinet 0 0 0 (mode1080 0) = false ∧
    modeSuits cabinet 0 0 0 (mode480 0) = true ∧
    headRunning ((mode1080 0 ++ [(Adr.headHctrl 0, 1)]).foldl idleWrite cabinet) 0 = true := by decide +kernel

/-- The block after reset meets the three invariants, and a step from it answers a next state. -/
theorem hyp_MemoryFormKept : memForm State.reset ∧ step State.reset = .next State.reset := by
  refine ⟨?_, rfl⟩
  unfold memForm
  decide +kernel

theorem hyp_OneTimeMemoryKept : otpForm State.reset ∧ step State.reset = .next State.reset := by
  refine ⟨?_, rfl⟩
  unfold otpForm
  decide +kernel

theorem hyp_EngineLevelsLegal : legalLevels State.reset ∧ step State.reset = .next State.reset :=
  ⟨fun _ => (by decide : Eng.reset.level ≠ 3 ∧ Eng.reset.ceil ≠ 3 ∧ Eng.reset.shadow ≠ some 3), rfl⟩
end Sys2Proof.Tests
end

section
/-! SUPPORT. What an event that a channel carries leaves (R88, R96, R100): its consumers write registers of their own,
outside the channels' pages. -/

namespace Sys2Proof.Machine

/-! ### Reads of registers -/

theorem fget_congr {s t : State} {f : FieldAt} (h : rget t f.off = rget s f.off) : fget t f = fget s f := by
  rw [fget, fget, h]

theorem rget_of_regs {s t : State} (h : t.regs = s.regs) (o : Nat) : rget t o = rget s o := by
  rw [rget, rget, h]

theorem rget_fset_ne {s : State} {f : FieldAt} {v o : Nat} (h : o ≠ f.off) : rget (fset s f v) o = rget s o :=
  rget_rput_ne h

theorem rget_fon_ne {s : State} {f : FieldAt} {o : Nat} (h : o ≠ f.off) : rget (fon s f) o = rget s o :=
  rget_rput_ne h

theorem rget_fcount_ne {s : State} {f : FieldAt} {n o : Nat} (h : o ≠ f.off) : rget (fcount s f n) o = rget s o :=
  rget_rput_ne h

/-- Hardware sets a one-bit field, and it reads set. -/
theorem fbit_fon {s : State} {f : FieldAt} (h : f.hi = f.lo) (hi : f.hi < 32) : fbit (fon s f) f = true := by
  rw [fbit, fon, fget_fset_self (by omega) hi, h]
  simp

/-- A count saturates at the top of its field. -/
theorem fget_fcount {s : State} {f : FieldAt} {n : Nat} (h : f.lo ≤ f.hi) (hi : f.hi < 32) :
    fget (fcount s f n) f = min (fget s f + n) (2 ^ (f.hi + 1 - f.lo) - 1) := by
  have hp := Nat.two_pow_pos (f.hi + 1 - f.lo)
  rw [fcount, fget_fset_self h hi]
  exact Nat.mod_eq_of_lt (by omega)

/-! ### The frame of a consumer -/

/-- A register outside the pages of the channels (R109). -/
def offChan (o : Nat) : Prop := o < 0x30000 ∨ 0x32000 ≤ o

/-- No register of a channel differs, nor does DRAM or the Tollhouse. -/
structure ChanKept (s t : State) : Prop where
  chan : ∀ o, ¬ offChan o → rget t o = rget s o
  mem : t.mem = s.mem
  th : t.th = s.th

section
variable {s t u : State} {f : FieldAt} {n k p d v : Nat} {mv : Move} {rev slipped late : Bool}

theorem ChanKept.refl (s : State) : ChanKept s s := ⟨fun _ _ => rfl, rfl, rfl⟩

theorem ChanKept.trans (h : ChanKept s t) (k : ChanKept t u) : ChanKept s u :=
  ⟨fun o ho => (k.chan o ho).trans (h.chan o ho), k.mem.trans h.mem, k.th.trans h.th⟩

theorem ChanKept.of_regs (hr : t.regs = s.regs) (hm : t.mem = s.mem) (ht : t.th = s.th) : ChanKept s t :=
  ⟨fun o _ => rget_of_regs hr o, hm, ht⟩

theorem ChanKept.foldl {α : Type} {g : State → α → State} (h : ∀ s x, ChanKept s (g s x)) (l : List α) (s : State) :
    ChanKept s (l.foldl g s) := by
  induction l generalizing s with
  | nil => exact .refl s
  | cons x l ih => exact (h s x).trans (ih (g s x))

theorem chanKept_fset (hf : offChan f.off) : ChanKept s (fset s f v) :=
  ⟨fun _ ho => rget_fset_ne fun e => ho (e ▸ hf), rfl, rfl⟩

theorem chanKept_fon (hf : offChan f.off) : ChanKept s (fon s f) :=
  ⟨fun _ ho => rget_fon_ne fun e => ho (e ▸ hf), rfl, rfl⟩

theorem chanKept_fcount (hf : offChan f.off) : ChanKept s (fcount s f v) :=
  ⟨fun _ ho => rget_fcount_ne fun e => ho (e ▸ hf), rfl, rfl⟩

theorem chanKept_setTl {w : TlUnit} : ChanKept s (setTl s k w) := .of_regs rfl rfl rfl
theorem chanKept_setLand {w : LandUnit} : ChanKept s (setLand s n w) := .of_regs rfl rfl rfl
theorem chanKept_setEq {w : EqUnit} : ChanKept s (setEq s n w) := .of_regs rfl rfl rfl
theorem chanKept_raise : ChanKept s (raise s n k) := .of_regs (by simp) (by simp) (by simp)
theorem chanKept_fireIf {en : Bool} : ChanKept s (fireIf s en k) := .of_regs (by simp) (by simp) (by simp)

/-! ### Landing units (R65-R76) -/

theorem offChan_lCtrl : offChan (Adr.lCtrl n) := .inr (by unfold Adr.lCtrl; omega)
theorem offChan_lStat : offChan (Adr.lStat n) := .inr (by unfold Adr.lStat; omega)
theorem offChan_lFrozen : offChan (Adr.lFrozen n) := .inr (by unfold Adr.lFrozen; omega)
theorem offChan_lPassed : offChan (Adr.lPassed n) := .inr (by unfold Adr.lPassed; omega)
theorem offChan_lLcount : offChan (Adr.lLcount n) := .inr (by unfold Adr.lLcount; omega)
theorem offChan_lCmp0 : offChan (Adr.lCmp0 n) := .inr (by unfold Adr.lCmp0; omega)
theorem offChan_lCmp1 : offChan (Adr.lCmp1 n) := .inr (by unfold Adr.lCmp1; omega)
theorem offChan_eqStat : offChan (Adr.eqStat n) := .inr (by unfold Adr.eqStat; omega)
theorem offChan_tiTi : offChan (Adr.tiTi n k) := .inr (by unfold Adr.tiTi; omega)
theorem offChan_dStat : offChan (Adr.dStat n k) := .inr (by unfold Adr.dStat; omega)
theorem offChan_bgStat : offChan (Adr.bgStat n) := .inr (by unfold Adr.bgStat; omega)

theorem chanKept_landPassed : ChanKept s (landPassed s n k) := by
  unfold landPassed
  split
  · exact .refl s
  · exact chanKept_setLand.trans ((chanKept_fcount offChan_lPassed).trans chanKept_raise)

theorem chanKept_landSend : ChanKept s (landSend s n) := by
  have hdue : ∀ t l, ChanKept t { t with landDue := l } := fun _ _ => .of_regs rfl rfl rfl
  exact (chanKept_fon offChan_lStat).trans ((hdue _ _).trans chanKept_fireIf)

theorem chanKept_landSetCmp : ChanKept s (landSetCmp s n v) := by
  unfold landSetCmp
  dsimp only
  split
  case h_5 => exact (chanKept_fset offChan_lCmp0).trans (chanKept_fset offChan_lCmp1)
  all_goals exact chanKept_fset offChan_lCmp0

theorem chanKept_landAdd : ChanKept s (landAdd s n p d v rev).1 := chanKept_landSetCmp

theorem chanKept_landCross : ChanKept s (landCross s n p d v rev slipped) := by
  unfold landCross
  dsimp only
  split
  · have hpend : ChanKept s (fon (fcount s (Fd.lFrozenCount n) 1) (Fd.lStatPending n)) :=
      (chanKept_fcount offChan_lFrozen).trans (chanKept_fon offChan_lStat)
    split
    · exact hpend.trans (chanKept_landAdd.trans chanKept_landPassed)
    · exact hpend.trans chanKept_setLand
  · have hsent : ChanKept s (if slipped = true then fon (landSend s n) (Fd.lStatSlipped n) else landSend s n) := by
      split
      · exact chanKept_landSend.trans (chanKept_fon offChan_lStat)
      · exact chanKept_landSend
    generalize (if slipped = true then fon (landSend s n) (Fd.lStatSlipped n) else landSend s n) = t at hsent ⊢
    split
    · exact hsent.trans (chanKept_landAdd.trans (chanKept_setLand.trans chanKept_landPassed))
    · exact hsent.trans (chanKept_fset offChan_lCtrl)

theorem chanKept_landSkip : ChanKept s (landSkip s n p d v) := by
  unfold landSkip
  dsimp only
  split
  · exact chanKept_landPassed.trans chanKept_landAdd
  · exact chanKept_landPassed

theorem chanKept_landTest : ChanKept s (landTest s n p mv) := by
  unfold landTest
  dsimp only
  split
  · exact .refl s
  · cases landCmp s n with
    | none => exact .refl s
    | some v =>
      cases mv with
      | slip x =>
        dsimp only
        split
        · split
          · exact chanKept_landCross
          · exact chanKept_landSkip
        · exact .refl s
      | _ =>
        dsimp only
        split
        · exact chanKept_landCross
        · exact .refl s

theorem chanKept_landsTest : ChanKept s (landsTest s k p mv) := by
  refine .foldl (fun t n => ?_) _ _
  split
  · exact chanKept_landTest
  · exact .refl t

theorem chanKept_landTick : ChanKept s (landTick s n) := by
  unfold landTick
  dsimp only
  split
  · exact .refl s
  · generalize (if fget s (Fd.lInt0IntLo n) = 0 then 2 ^ 20 else fget s (Fd.lInt0IntLo n)) = period
    split
    · exact (chanKept_fset offChan_lLcount).trans chanKept_landSend
    · exact chanKept_fset offChan_lLcount

/-! ### Edge queues (R79-R83) -/

theorem chanKept_eqFire : ChanKept s (eqFire s n late) := by
  unfold eqFire
  dsimp only
  cases (eqOf s n).entries with
  | nil => exact .refl s
  | cons e es =>
    have hfired : ∀ w, ChanKept s (fon (setEq s n w) (Fd.eqStatFired n)) := fun _ =>
      chanKept_setEq.trans (chanKept_fon offChan_eqStat)
    cases late with
    | true => exact (hfired _).trans ((chanKept_fon offChan_eqStat).trans chanKept_fireIf)
    | false => exact (hfired _).trans chanKept_fireIf

theorem chanKept_eqCycle : ChanKept s (eqCycle s n p) := by
  unfold eqCycle
  dsimp only
  cases (eqOf s n).slipTo with
  | some r =>
    dsimp only
    split
    · exact chanKept_eqFire
    · split
      · exact chanKept_setEq.trans (chanKept_eqFire.trans chanKept_setEq)
      · exact chanKept_setEq
  | none =>
    dsimp only
    split
    · exact chanKept_eqFire.trans chanKept_setEq
    · exact .refl s

theorem chanKept_eqSkip (fuel : Nat) : ∀ s : State, ChanKept s (eqSkip s n p d v fuel) := by
  induction fuel with
  | zero => exact fun s => .refl s
  | succ fuel ih =>
    intro s
    unfold eqSkip
    dsimp only
    split
    · cases (eqOf s n).entries with
      | nil => exact .refl s
      | cons e es => exact chanKept_setEq.trans ((chanKept_fon offChan_eqStat).trans (ih _))
    · exact .refl s

theorem chanKept_eqWrap : ChanKept s (eqWrap s n p) := by
  unfold eqWrap
  split
  · split
    · exact chanKept_eqFire
    · exact .refl s
  · exact chanKept_eqCycle

theorem chanKept_eqMove : ChanKept s (eqMove s n p mv) := by
  unfold eqMove
  cases mv with
  | fwd x => exact chanKept_eqCycle
  | rev x => exact chanKept_setEq
  | wrap => exact chanKept_eqWrap
  | slip x =>
    dsimp only
    split
    · exact chanKept_setEq
    · split
      · split
        · exact chanKept_eqFire.trans chanKept_setEq
        · exact chanKept_setEq
      · exact (chanKept_eqSkip 4 s).trans chanKept_setEq

theorem chanKept_eqsMove : ChanKept s (eqsMove s k p mv) := by
  refine .foldl (fun t n => ?_) _ _
  split
  · exact chanKept_eqMove
  · exact .refl t

theorem chanKept_eqTrigger : ChanKept s (eqTrigger s n) := by
  unfold eqTrigger
  split
  · exact .refl s
  · split
    · exact chanKept_fon offChan_eqStat
    · exact chanKept_eqFire

/-! ### The other consumers (R51, R89, R257, R324, R332, R365) -/

theorem chanKept_tlWatch : ChanKept s (tlWatch s k p mv) := chanKept_landsTest.trans chanKept_eqsMove

theorem chanKept_localEvent : ChanKept s (localEvent s k) := by
  unfold localEvent
  dsimp only
  split
  · exact .refl s
  · split
    · exact chanKept_setTl.trans chanKept_tlWatch
    · exact chanKept_setTl.trans chanKept_tlWatch

theorem chanKept_tiInc : ChanKept s (tiInc s n k) := by
  unfold tiInc
  split
  · exact .refl s
  · split
    · exact chanKept_fon offChan_tiTi
    · exact chanKept_fset offChan_tiTi

theorem chanKept_dmaTrigger : ChanKept s (dmaTrigger s n k) := by
  unfold dmaTrigger
  split
  · exact .refl s
  · split
    · exact chanKept_fon offChan_dStat
    · exact chanKept_fset offChan_dStat

theorem chanKept_bargeTrigger : ChanKept s (bargeTrigger s n) := by
  unfold bargeTrigger
  split
  · exact chanKept_fon offChan_bgStat
  · exact chanKept_fset offChan_bgStat

theorem chanKept_voiceTrigger : ChanKept s (voiceTrigger s n k) := by
  unfold voiceTrigger
  split
  · exact .of_regs rfl rfl rfl
  · exact .refl s

/-- An event is its flag, its count, and its consumers, which leave both (R88, R96). -/
theorem carry_chanKept (s : State) (c : Nat) :
    ChanKept (fcount (fon s (Fd.cFlagFlag c)) (Fd.cEventsCount c) 1) (carry s c) := by
  have hrg : ∀ t g, ChanKept t (rgTrigger t c g) := fun _ _ => .of_regs rfl rfl rfl
  exact (ChanKept.foldl (fun _ _ => chanKept_localEvent) _ _).trans <|
    (ChanKept.foldl (fun _ _ => chanKept_landTick) _ _).trans <|
    (ChanKept.foldl (fun _ _ => chanKept_eqTrigger) _ _).trans <|
    (ChanKept.foldl (fun _ _ => chanKept_tiInc) _ _).trans <|
    (ChanKept.foldl (fun _ _ => chanKept_dmaTrigger) _ _).trans <|
    (ChanKept.foldl (fun _ _ => chanKept_bargeTrigger) _ _).trans <|
    (ChanKept.foldl hrg _ _).trans <|
    ChanKept.foldl (fun _ _ => chanKept_voiceTrigger) _ _

theorem cFlag_ne_cEvents (c : Nat) : Adr.cFlag c ≠ Adr.cEvents c := by simp only [Adr.cFlag, Adr.cEvents]; omega

/-- Each of the 256 channels that carries an event has its flag set (R96). -/
theorem carry_flag (s : State) (c : Fin 256) : fbit (carry s c) (Fd.cFlagFlag c) = true := by
  have hc := c.isLt
  have hin : ¬ offChan (Adr.cFlag c) := by simp only [offChan, Adr.cFlag]; omega
  have hkept : rget (carry s c) (Adr.cFlag c) = rget (fon s (Fd.cFlagFlag c)) (Adr.cFlag c) :=
    ((carry_chanKept s c).chan _ hin).trans (rget_fcount_ne (f := Fd.cEventsCount c) (cFlag_ne_cEvents c))
  have hset : fbit (fon s (Fd.cFlagFlag c)) (Fd.cFlagFlag c) = true := fbit_fon rfl (show 0 < 32 by decide)
  rw [fbit, fget_congr (f := Fd.cFlagFlag c) hkept]
  exact hset

theorem fget_fcount_cEvents (s : State) (c : Nat) : fget (fcount s (Fd.cEventsCount c) 1) (Fd.cEventsCount c) =
    min (fget s (Fd.cEventsCount c) + 1) (2 ^ 20 - 1) :=
  fget_fcount (f := Fd.cEventsCount c) (Nat.zero_le 19) (show 19 < 32 by decide)

/-- EVENTS of a channel counts the event it carries, up to the top of its field (R96). -/
theorem carry_events (s : State) (c : Fin 256) :
    fget (carry s c) (Fd.cEventsCount c) = min (fget s (Fd.cEventsCount c) + 1) (2 ^ 20 - 1) := by
  have hc := c.isLt
  have hin : ¬ offChan (Adr.cEvents c) := by simp only [offChan, Adr.cEvents]; omega
  have hflag : fget (fon s (Fd.cFlagFlag c)) (Fd.cEventsCount c) = fget s (Fd.cEventsCount c) :=
    fget_congr (f := Fd.cEventsCount c) (rget_fon_ne (f := Fd.cFlagFlag c) (cFlag_ne_cEvents c).symm)
  rw [fget_congr (f := Fd.cEventsCount c) ((carry_chanKept s c).chan _ hin), fget_fcount_cEvents, hflag]

theorem carry_mem (s : State) (c : Nat) : (carry s c).mem = s.mem := by
  rw [(carry_chanKept s c).mem, fcount_mem, fon_mem]

theorem carry_th (s : State) (c : Nat) : (carry s c).th = s.th := by
  rw [(carry_chanKept s c).th, fcount_th, fon_th]

end
end Sys2Proof.Machine
end

section
/-! SUPPORT. Writes that reach their register (R12, R31, R98, R385, R386), and the faces of the bays at levels 1 to 4. -/

namespace Sys2Proof.Machine

/-! ### Writes and reads that reach a register -/

/-- An offset that only the register map lists: no view of FLAGS, SNAP, the display memories or the staged copies. -/
def mapOnly (off : Nat) : Prop :=
  flagsView off = false ∧ off ≠ 0x22000 ∧ dispMem off = false ∧ mirrorView off = false

/-- The pages between and below the views of control space. -/
theorem mapOnly_of_bounds {off : Nat}
    (h : off < 0x22000 ∨ 0x22000 < off ∧ off < 0x32000 ∨ 0x32020 ≤ off ∧ off < 0x2000000) : mapOnly off := by
  refine ⟨?_, by omega, ?_, ?_⟩
  · simp only [flagsView, decide_eq_false_iff_not]; omega
  · simp only [dispMem, Bool.or_eq_false_iff, decide_eq_false_iff_not]; omega
  · simp only [mirrorView, decide_eq_false_iff_not]; omega

section
variable {s : State} {m : Master} {off v : Nat} {h : RegHit}

theorem reaches_iff (hl : RegMap.lookup off = some h) : reaches s m off = true ↔
    busOpen s m off = true ∧ (decide (m = .host) && fbit s Fd.sbFenceAll) = false ∧ hitPresent s h = true ∧
    writeRefused s m off h = false ∧ taskForeign m h = none := by
  simp only [reaches, hl, Bool.and_eq_true, Bool.not_eq_true', Option.isNone_iff_eq_none, and_assoc]

/-- A write that reaches its register is judged by its block. -/
theorem busWrite_of_reaches (hr : reaches s m off = true) (hl : RegMap.lookup off = some h) (hm : mapOnly off) :
    busWrite s m off v = regWrite s m off h v := by
  obtain ⟨_, hfence, hpresent, hallowed, hown⟩ := (reaches_iff hl).mp hr
  obtain ⟨hflags, hsnap, hdisp, hmirror⟩ := hm
  simp [busWrite, listedWrite, hfence, hflags, hsnap, hdisp, hmirror, hl, hpresent, hallowed, hown]

theorem writeCmd_of_reaches (hr : reaches s m off = true) (hl : RegMap.lookup off = some h) (hm : mapOnly off) :
    writeCmd s m off v = answers (regWrite s m off h v) := by
  obtain ⟨hopen, _⟩ := (reaches_iff hl).mp hr
  rw [writeCmd, if_pos hopen, busWrite_of_reaches hr hl hm]
  rfl

/-- A read of a register that the map lists, of a unit that the variant has. -/
theorem busRead_of_present (hl : RegMap.lookup off = some h) (hm : mapOnly off) (hv : presenceView off = false)
    (hp : hitPresent s h = true) :
    busRead s m off = ((regValue s m off h).1, clearRc (regValue s m off h).2 off h) := by
  obtain ⟨hflags, _, hdisp, hmirror⟩ := hm
  simp [busRead, hv, hflags, hdisp, hmirror, hl, hp]

theorem readCmd_of_present (hl : RegMap.lookup off = some h) (hm : mapOnly off) (hv : presenceView off = false)
    (hp : hitPresent s h = true) (ho : busOpen s m off = true) :
    readCmd s m off = answers (setResp (clearRc (regValue s m off h).2 off h) 0 [(regValue s m off h).1]) := by
  have hreply : ctrlReply s off = .ok := by
    obtain ⟨_, _, hdisp, _⟩ := hm
    simp [ctrlReply, hdisp]
  rw [readCmd, if_pos ho, busRead_of_present hl hm hv hp, hreply]
  rfl

/-! ### Faces (R15-R20) -/

/-- A bay of the chip itself (R14). -/
def localBay (b : Bay) : Prop := b ≠ .spanBay ∧ b ≠ .spanGroup

/-- The map lists the face of a local bay at its place. -/
theorem lookup_face {b : Bay} (hb : localBay b) : ∀ r ∈ [0x14, 0x18],
    (RegMap.lookup (faceAt b + r)).map (fun h => (faceBay h, h.reg.off)) = some (some b, r) := by
  cases b with
  | engine e => clear hb; revert e; decide +kernel
  | quad q => clear hb; revert q; decide +kernel
  | hall h => clear hb; revert h; decide +kernel
  | chip => decide +kernel
  | spanBay => exact absurd rfl hb.1
  | spanGroup => exact absurd rfl hb.2

theorem exists_face {b : Bay} (hb : localBay b) {r : Nat} (hr : r ∈ [0x14, 0x18]) :
    ∃ h, RegMap.lookup (faceAt b + r) = some h ∧ faceBay h = some b ∧ h.reg.off = r := by
  obtain ⟨h, hl, hp⟩ := Option.map_eq_some_iff.mp (lookup_face hb r hr)
  exact ⟨h, hl, congrArg Prod.fst hp, congrArg Prod.snd hp⟩

/-- Faces lie below the timelines or on the quad pages. -/
theorem faceAt_bounds (b : Bay) :
    0x2000 ≤ faceAt b ∧ faceAt b + 0x1000 ≤ 0x18000 ∨ 0x1000000 ≤ faceAt b ∧ faceAt b + 0x1000 ≤ 0x1200000 := by
  cases b <;> simp only [faceAt] <;> omega

theorem mapOnly_face {b : Bay} {r : Nat} (hr : r < 0x1000) : mapOnly (faceAt b + r) := by
  have hb := faceAt_bounds b
  exact mapOnly_of_bounds (by omega)

/-- Only landing units, head pages, buses and voices have stageable registers (R362). -/
theorem stagedIn_none (h : off < 0x40000 ∨ 0xE0000 ≤ off) : stagedIn s off = none := by
  have hb : stageBlock off = none := by
    unfold stageBlock
    rw [if_neg (by omega), if_neg (by omega), if_neg (by omega), if_neg (by omega)]
  rw [stagedIn, hb]

theorem stagedIn_face {b : Bay} {r : Nat} (hr : r < 0x1000) : stagedIn s (faceAt b + r) = none := by
  have hb := faceAt_bounds b
  exact stagedIn_none (by omega)

theorem faceBay_id {b : Bay} (hb : faceBay h = some b) :
    h.blk.id ∈ [.faceChip, .faceSpan, .faceGroup, .faceHall, .faceQuad, .faceEng] := by
  unfold faceBay at hb
  split at hb
  case h_7 => cases hb
  all_goals simp [*]

/-- A write of a face names no channel, is not staged and meets no running block. -/
theorem regWrite_face {b : Bay} (hb : faceBay h = some b) (hs : stagedIn s off = none) :
    regWrite s m off h v = faceEffect s m b h.reg.off v := by
  have hid := faceBay_id hb
  simp only [List.mem_cons, List.not_mem_nil, or_false] at hid
  rcases hid with hid | hid | hid | hid | hid | hid <;>
    simp [regWrite, prodSecret, prodChans, stopBypass, blockRuns, regEffect, hid, hs, hb]

end

/-- A write of DOORBELL or FAULT_OWN that reaches the face of a local bay. -/
theorem writeCmd_face {s : State} {m : Master} {b : Bay} {r v : Nat} (hb : localBay b) (hr : r ∈ [0x14, 0x18])
    (hreach : reaches s m (faceAt b + r) = true) :
    writeCmd s m (faceAt b + r) v = answers (faceEffect s m b r v) := by
  obtain ⟨h, hl, hf, ho⟩ := exists_face hb hr
  have hlt : r < 0x1000 := by
    simp only [List.mem_cons, List.not_mem_nil, or_false] at hr; omega
  rw [writeCmd_of_reaches hreach hl (mapOnly_face hlt), regWrite_face hf (stagedIn_face hlt), ho]

end Sys2Proof.Machine
end

section
/-! SUPPORT. Doorbells and task inputs (R17, R89, R95), the clearing of fault classes (R7, R20), FIRE (R98, R105) and TAKE
(R95). -/

namespace Sys2Proof.Machine

/-! ### Task inputs (R89) -/

section
variable {s : State} {e d k : Nat}

theorem tiTi_ne (h : d ≠ e) : Adr.tiTi d k ≠ Adr.tiTi e k := by simp only [Adr.tiTi]; omega

@[simp] theorem tiInc_variant : (tiInc s e k).variant = s.variant := by
  unfold tiInc
  split
  · rfl
  · split <;> rfl

@[simp] theorem tiInc_quadRst : (tiInc s e k).quadRst = s.quadRst := by
  unfold tiInc
  split
  · rfl
  · split <;> rfl

@[simp] theorem engPresent_tiInc {i : Nat} : engPresent (tiInc s e k) i = engPresent s i := by simp [engPresent]

@[simp] theorem inQuadReset_tiInc {q : Nat} : inQuadReset (tiInc s e k) q = inQuadReset s q := by simp [inQuadReset]

/-- An increment touches one task input only. -/
theorem rget_tiInc_ne {o : Nat} (h : o ≠ Adr.tiTi e k) : rget (tiInc s e k) o = rget s o := by
  unfold tiInc
  split
  · rfl
  · split
    · exact rget_fon_ne h
    · exact rget_fset_ne h

theorem tiCount_lt : fget s (Fd.tiTiCount e k) < 16 := bits_lt _ 3 0

/-- A present engine out of reset: one more, up to 15 (R89). -/
theorem tiInc_count (hp : engPresent s e = true) (hq : inQuadReset s (e / 4) = false) :
    fget (tiInc s e k) (Fd.tiTiCount e k) = min 15 (fget s (Fd.tiTiCount e k) + 1) := by
  have hlt := tiCount_lt (s := s) (e := e) (k := k)
  simp only [tiInc, hp, hq, Bool.not_true, Bool.or_false, Bool.false_eq_true, ↓reduceIte]
  split
  next h15 =>
    rw [fon, fget_fset_off (f := Fd.tiTiCoalesced e k) (Nat.le_refl 4) (show 4 < 32 by decide)
      (.inr (.inl (show 3 < 4 by decide)))]
    change fget s (Fd.tiTiCount e k) = _
    omega
  next h15 =>
    rw [fget_fset_self (f := Fd.tiTiCount e k) (Nat.zero_le 3) (show 3 < 32 by decide)]
    change (fget s (Fd.tiTiCount e k) + 1) % 16 = _
    omega

/-- A present engine out of reset: Coalesced where the count stands at 15 (R89). -/
theorem tiInc_coalesced (hp : engPresent s e = true) (hq : inQuadReset s (e / 4) = false)
    (h15 : fget s (Fd.tiTiCount e k) = 15) : fbit (tiInc s e k) (Fd.tiTiCoalesced e k) = true := by
  simp only [tiInc, hp, hq, h15, Bool.not_true, Bool.or_false, Bool.false_eq_true, ↓reduceIte]
  exact fbit_fon rfl (show 4 < 32 by decide)

end

/-! ### Doorbells (R17) -/

/-- A doorbell leaves the task inputs of the engines it does not name. -/
theorem rget_ringEngines_out {k e : Nat} : ∀ {l : List Nat} {s : State}, e ∉ l →
    rget (ringEngines s l k) (Adr.tiTi e k) = rget s (Adr.tiTi e k)
  | [], _, _ => rfl
  | d :: l, s, h => by
    obtain ⟨hd, hl⟩ := not_or.mp (mt List.mem_cons.mpr h)
    rw [ringEngines, List.foldl_cons]
    exact (rget_ringEngines_out hl).trans (rget_tiInc_ne (tiTi_ne hd))

/-- An engine that a doorbell names once: its task input is as after one increment of its own. -/
theorem rget_ringEngines_in {k e : Nat} : ∀ {l : List Nat} {s : State}, l.Nodup → e ∈ l →
    ∃ u, (∀ i, engPresent u i = engPresent s i) ∧ (∀ q, inQuadReset u q = inQuadReset s q) ∧
      rget u (Adr.tiTi e k) = rget s (Adr.tiTi e k) ∧
      rget (ringEngines s l k) (Adr.tiTi e k) = rget (tiInc u e k) (Adr.tiTi e k)
  | [], _, _, h => nomatch h
  | d :: l, s, hn, h => by
    obtain ⟨hd, hl⟩ := List.nodup_cons.mp hn
    rw [ringEngines, List.foldl_cons]
    by_cases he : e = d
    · subst he
      exact ⟨s, fun _ => rfl, fun _ => rfl, rfl, rget_ringEngines_out hd⟩
    · obtain ⟨u, hp, hq, hr, hi⟩ := rget_ringEngines_in (s := tiInc s d k) hl
        ((List.mem_cons.mp h).resolve_left he)
      exact ⟨u, fun i => (hp i).trans engPresent_tiInc, fun q => (hq q).trans inQuadReset_tiInc,
        hr.trans (rget_tiInc_ne (tiTi_ne he)), hi⟩

theorem ringEngines_count {s : State} {l : List Nat} {e k : Nat} (hn : l.Nodup) (he : e ∈ l)
    (hp : engPresent s e = true) (hq : inQuadReset s (e / 4) = false) :
    fget (ringEngines s l k) (Fd.tiTiCount e k) = min 15 (fget s (Fd.tiTiCount e k) + 1) := by
  obtain ⟨u, hup, huq, hu, hr⟩ := rget_ringEngines_in (s := s) (k := k) hn he
  rw [fget_congr (f := Fd.tiTiCount e k) hr, tiInc_count ((hup e).trans hp) ((huq _).trans hq),
    fget_congr (f := Fd.tiTiCount e k) hu]

theorem ringEngines_coalesced {s : State} {l : List Nat} {e k : Nat} (hn : l.Nodup) (he : e ∈ l)
    (hp : engPresent s e = true) (hq : inQuadReset s (e / 4) = false) (h15 : fget s (Fd.tiTiCount e k) = 15) :
    fbit (ringEngines s l k) (Fd.tiTiCoalesced e k) = true := by
  obtain ⟨u, hup, huq, hu, hr⟩ := rget_ringEngines_in (s := s) (k := k) hn he
  rw [fbit, fget_congr (f := Fd.tiTiCoalesced e k) hr]
  exact tiInc_coalesced ((hup e).trans hp) ((huq _).trans hq) ((fget_congr (f := Fd.tiTiCount e k) hu).trans h15)

/-- Consecutive numbers from `a` on do not repeat. -/
theorem nodup_consecutive (a n : Nat) : ((List.range n).map fun i => a + i).Nodup := by
  refine List.pairwise_map.mpr (List.Pairwise.imp ?_ List.nodup_range)
  intro i j hij
  omega

theorem bayEngines_nodup (v : Variant) (b : Bay) : (bayEngines v b).Nodup := by
  cases b with
  | engine e => exact List.pairwise_singleton _ _
  | quad q => exact nodup_consecutive _ 4
  | hall h => exact nodup_consecutive _ 16
  | chip => exact List.nodup_range
  | spanBay => exact List.Pairwise.nil
  | spanGroup => exact List.Pairwise.nil

theorem faceEffect_doorbell {s : State} {m : Master} {b : Bay} {v : Nat} (hb : localBay b) :
    faceEffect s m b 0x14 v = ringEngines s (bayEngines s.variant b) (v % 8) := by
  cases b with
  | spanBay => exact absurd rfl hb.1
  | spanGroup => exact absurd rfl hb.2
  | _ => rfl

theorem exec_doorbell {s : State} {m : Master} {b : Bay} {k : BitVec 3} (hb : localBay b)
    (hr : reaches s m (faceAt b + 0x14) = true) :
    exec (.doorbell m b k) s = answers (ringEngines s (bayEngines s.variant b) k.toNat) := by
  have h : exec (.doorbell m b k) s = writeCmd s m (faceAt b + 0x14) k.toNat := rfl
  rw [h, writeCmd_face hb (by decide) hr, faceEffect_doorbell hb, Nat.mod_eq_of_lt k.isLt]

/-! ### FAULT_OWN (R7, R20) -/

theorem bit_eq_testBit (w i : Nat) : bit w i = w.testBit i := by
  rw [bit, Nat.testBit_eq_decide_div_mod_eq]

/-- The complement, within eight bits, of the low `n` bits of a number. -/
theorem testBit_255_sub {w n i : Nat} (hn : n ≤ 8) (hi : i < 8) :
    (255 - w % 2 ^ n).testBit i = !(w.testBit i && decide (i < n)) := by
  have hlt : w % 2 ^ n < 2 ^ 8 :=
    Nat.lt_of_lt_of_le (Nat.mod_lt _ (Nat.two_pow_pos n)) (Nat.pow_le_pow_right (by decide) hn)
  rw [show 255 - w % 2 ^ n = 2 ^ 8 - (w % 2 ^ n + 1) by omega, Nat.testBit_two_pow_sub_succ hlt,
    Nat.testBit_mod_two_pow, decide_eq_true hi, Bool.true_and, Bool.and_comm]

/-- The classes that a write to FAULT_OWN clears (R20). -/
theorem testBit_clearMask (m : Master) (v : Nat) {i : Nat} (hi : i < 8) :
    (255 - if masterSecure m then v % 256 else v % 128).testBit i =
      !(v.testBit i && (decide (i < 7) || masterSecure m)) := by
  cases masterSecure m with
  | true => exact (testBit_255_sub (n := 8) (Nat.le_refl 8) hi).trans (by simp [hi])
  | false => exact (testBit_255_sub (n := 7) (by decide) hi).trans (by simp)

/-- A class stays unless the write clears it, the master may, and hardware does not set it in the cycle. -/
theorem bit_faultClear (s : State) (m : Master) (b v : Nat) {i : Nat} (hi : i < 8) :
    bit (faultOwn (faultClear s m b v) b) i = (bit (faultOwn s b) i &&
      (!(bit v i && (decide (i < 7) || masterSecure m)) || bit (hwSets s (faultKey b)) i)) := by
  rw [faultClear, faultOwn_setFaultOwn, if_pos rfl]
  simp only [bit_eq_testBit, Nat.testBit_and, Nat.testBit_or, testBit_clearMask m v hi]

theorem faultOwn_faultClear_ne {s : State} {m : Master} {b c v : Nat} (h : c ≠ b) :
    faultOwn (faultClear s m b v) c = faultOwn s c := by
  rw [faultClear, faultOwn_setFaultOwn, if_neg h]

theorem exec_faultOwnClear {s : State} {m : Master} {b : Bay} {v : Dword} (hb : localBay b)
    (hr : reaches s m (faceAt b + 0x18) = true) :
    exec (.faultOwnClear m b v) s = answers (faultClear s m (bayNum b) v.toNat) := by
  have h : exec (.faultOwnClear m b v) s = writeCmd s m (faceAt b + 0x18) v.toNat := rfl
  rw [h, writeCmd_face hb (by decide) hr]
  rfl

/-! ### FIRE (R98, R105) -/

theorem NSet.has_ins_self {k : Nat} : ∀ l : List Nat, NSet.has k (NSet.ins k l) = true
  | [] => by simp [NSet.ins, NSet.has]
  | p :: t => by
    unfold NSet.ins
    split
    · have ih := NSet.has_ins_self (k := k) t
      simp only [NSet.has, List.any_cons] at ih ⊢
      rw [ih, Bool.or_true]
    · split
      · next h => simp [NSet.has, h]
      · simp [NSet.has]

theorem lookup_cFire (c : Fin 256) : RegMap.lookup (Adr.cFire c) =
    some { blk := RegMap.c, idx := [c.val], reg := ⟨0x10, [], [⟨0, 0, .wo, .now, 0x0, false⟩]⟩, ridx := [] } :=
  RegMap.lookup_c (r := 0x10) c.isLt (by decide) rfl (by simp only [Adr.cFire]; omega)

/-- FIRE with bit 0, from a master that the channel's OWN admits: the channel has an event due. -/
theorem exec_fire {s : State} {m : Master} {c : Fin 256} {v : Dword} (hr : reaches s m (Adr.cFire c) = true)
    (hj : chanJudge s c m false = .ok) (hv : bit v.toNat 0 = true) :
    exec (.fire m c v) s = answers (fire s c) := by
  have hm : mapOnly (Adr.cFire c) := mapOnly_of_bounds (by have := c.isLt; simp only [Adr.cFire]; omega)
  have h : exec (.fire m c v) s = writeCmd s m (Adr.cFire c) v.toNat := rfl
  rw [h, writeCmd_of_reaches hr (lookup_cFire c) hm]
  simp [regWrite, chanWrite, RegMap.c, RegHit.i0, hj, chanEffect, fireIf, hv]

/-! ### TAKE (R95) -/

theorem lookup_tiTake (e : Fin 128) (k : Fin 8) : RegMap.lookup (Adr.tiTake e k) =
    some { blk := RegMap.ti, idx := [e.val], reg := ⟨0x20, [(8, 0x4)], [⟨19, 0, .ro, .now, 0x0, false⟩]⟩,
           ridx := [k.val] } := by
  have hk : RegMap.findReg (0x20 + 4 * k.val) RegMap.ti.regs =
      some (⟨0x20, [(8, 0x4)], [⟨19, 0, .ro, .now, 0x0, false⟩]⟩, [k.val]) := by
    revert k; decide
  exact RegMap.lookup_ti e.isLt (by omega) hk (by simp only [Adr.tiTake]; omega)

/-- A TAKE of a present engine's task input answers it, whoever asks. -/
theorem exec_takeRead {s : State} {m : Master} {e : Fin 128} {k : Fin 8} (hu : mainUp s = true)
    (he : engPresent s e = true) :
    exec (.takeRead m e k) s = answers (setResp (takeRead s e k).2 0 [(rget s (Adr.tiTi e k)).toNat % 32]) := by
  have hlo : 0x34000 ≤ Adr.tiTake e k := by simp only [Adr.tiTake]; omega
  have hhi : Adr.tiTake e k < 0x36000 := by have := e.isLt; have := k.isLt; simp only [Adr.tiTake]; omega
  have hview : presenceView (Adr.tiTake e k) = false := by
    simp only [presenceView, Bool.or_eq_false_iff, decide_eq_false_iff_not]; omega
  have hopen : busOpen s m (Adr.tiTake e k) = true := by simp [busOpen, hu]
  have h : exec (.takeRead m e k) s = readCmd s m (Adr.tiTake e k) := rfl
  rw [h, readCmd_of_present (lookup_tiTake e k) (mapOnly_of_bounds (by omega)) hview he hopen]
  rfl

theorem takeRead_count (s : State) (e k : Nat) :
    fget (takeRead s e k).2 (Fd.tiTiCount e k) = fget s (Fd.tiTiCount e k) - 1 := by
  have hlt := tiCount_lt (s := s) (e := e) (k := k)
  rw [takeRead]
  dsimp only
  split
  next h0 => omega
  next =>
    rw [tiDec, fget_fset_self (f := Fd.tiTiCount e k) (Nat.zero_le 3) (show 3 < 32 by decide)]
    change (fget s (Fd.tiTiCount e k) - 1) % 16 = _
    omega

/-- A TAKE changes nothing but the task input's register. -/
theorem takeRead_frame (s : State) (e k : Nat) :
    (∀ o, o ≠ Adr.tiTi e k → rget (takeRead s e k).2 o = rget s o) ∧
      (takeRead s e k).2.mem = s.mem ∧ (takeRead s e k).2.engs = s.engs := by
  rw [takeRead]
  dsimp only
  split
  · exact ⟨fun _ _ => rfl, rfl, rfl⟩
  · exact ⟨fun _ ho => rget_fset_ne ho, rfl, rfl⟩

end Sys2Proof.Machine
end

section

open Sys2Proof Sys2Proof.Machine

namespace Sys2Proof

/-- Settles O21: a doorbell and a FAULT_OWN write reach the face of their bay, an event's consumers write outside the
channels' pages, and TAKE is a read with one decrement. -/
theorem eventsAndFaultFlags : Obligations.EventsAndFaultFlags := by
  unfold Obligations.EventsAndFaultFlags
  refine ⟨fun s m bay k v h5 h6 => ⟨fun hr => ?_, fun hr => ?_⟩,
    fun s m c v e k => ⟨fun hr hj hv => ?_, ?_, fun hu he => ?_⟩⟩
  · refine ⟨_, exec_doorbell ⟨h5, h6⟩ hr, fun e hp hq => ⟨fun hin => ?_, fun hout => ?_⟩⟩
    · exact ⟨ringEngines_count (bayEngines_nodup _ _) hin hp hq, ringEngines_coalesced (bayEngines_nodup _ _) hin hp hq⟩
    · exact fget_congr (f := Fd.tiTiCount e k.toNat) (rget_ringEngines_out hout)
  · exact ⟨_, exec_faultOwnClear ⟨h5, h6⟩ hr, fun i hi => bit_faultClear s m _ _ hi,
      fun b hb => faultOwn_faultClear_ne hb, rfl, rfl, rfl⟩
  · exact ⟨_, exec_fire hr hj hv, NSet.has_ins_self _, rfl⟩
  · exact ⟨carry_flag s c, carry_events s c, carry_mem s c, carry_th s c⟩
  · exact ⟨_, exec_takeRead hu he, takeRead_count s e k, takeRead_frame s e k⟩

end Sys2Proof
end

section
/-! SUPPORT. TRAP, DROP and RETE said once: the faults of their levels (R143, R147, R149), and the return that the
ceiling refuses (R146, R152, R164). -/

namespace Sys2Proof.Machine

/-! ### Instructions that a level forbids (R147 class 2) -/

section
variable {s : State} {e : Fin 128}

/-- A control transfer, outside a slot and a shadow, at a level that forbids it. -/
theorem barred_priv_issue {e n : Nat} {body : State → Eng → Run} (h : canIssue s e n = true)
    (hb : boundaryFree (engOf s e) = true) (hl : loadsOut (engOf s e) = false) :
    engIssue s e (barredShape n false true) body =
      engFault (fetchWords s e (engOf s e).pc n).2 e (engOf s e) 2 (engOf s e).pc := by
  rw [engIssue_eq (sh := barredShape n false true) h]
  simp [barredShape, hb, runEnd, hl]

theorem exec_trap {n : BitVec 8} (h : canIssue s e 1 = true) (hb : boundaryFree (engOf s e) = true)
    (hl : loadsOut (engOf s e) = false) :
    exec (.trap e n) s = answers (engTrap (fetchWords s e (engOf s e).pc 1).2 e (engOf s e) n.toNat) := by
  change finish (engIssue s e (barredShape 1 false false) fun _ _ => .trap n.toNat) = _
  rw [barred_issue h hb, runEnd, hl]
  rfl

/-- DROP to a more privileged level; the reserved level 3 is above none. -/
theorem exec_drop_raising {l : BitVec 2} (h : canIssue s e 1 = true) (hb : boundaryFree (engOf s e) = true)
    (hl : loadsOut (engOf s e) = false) (hup : l.toNat < (engOf s e).level.toNat) :
    exec (.drop e 0 l) s =
      answers (engFault (fetchWords s e (engOf s e).pc 1).2 e (engOf s e) 2 (engOf s e).pc) := by
  have h3 : l ≠ 3 := by bv_omega
  have hform : decide ((0 : BitVec 6) ≠ 0 ∨ l = 3) = false := decide_eq_false (not_or.mpr ⟨fun h0 => h0 rfl, h3⟩)
  have hpriv : decide (l.toNat < (levelOf s e).toNat) = true := decide_eq_true hup
  change finish (engIssue s e (barredShape 1 _ _) _) = _
  rw [hform, hpriv, barred_priv_issue h hb hl]
  rfl

theorem exec_rete_task (h : canIssue s e 1 = true) (hb : boundaryFree (engOf s e) = true)
    (hl : loadsOut (engOf s e) = false) (hv : (engOf s e).level = 2) :
    exec (.rete e 0) s =
      answers (engFault (fetchWords s e (engOf s e).pc 1).2 e (engOf s e) 2 (engOf s e).pc) := by
  have hpriv : decide (levelOf s e = 2) = true := decide_eq_true hv
  change finish (engIssue s e (barredShape 1 false _) _) = _
  rw [hpriv, barred_priv_issue h hb hl]
  rfl

theorem exec_rete (h : canIssue s e 1 = true) (hb : boundaryFree (engOf s e) = true)
    (hl : loadsOut (engOf s e) = false) (hv : (engOf s e).level ≠ 2) :
    exec (.rete e 0) s = answers (engRete (fetchWords s e (engOf s e).pc 1).2 e (engOf s e)) := by
  have hpriv : decide (levelOf s e = 2) = false := decide_eq_false hv
  change finish (engIssue s e (barredShape 1 false _) _) = _
  rw [hpriv, barred_issue h hb, runEnd, hl]
  rfl

end

/-! ### The grant of an engine outlasts the log of its Privilege Return (R144, R164, R414) -/

section
variable {s t : State} {e o : Nat}

theorem rget_logPut_ne {body : List Byte} (hl : o ≠ Adr.thLogSeq) (hn : o ≠ Fd.thNoteLog.off) :
    rget (logPut s body) o = rget s o :=
  (rget_fon_ne hn).trans ((rget_fset_ne hl).trans rfl)

theorem rget_thLog_ne {code detail data : Nat} {z : Bool} (hl : o ≠ Adr.thLogSeq) (hn : o ≠ Fd.thNoteLog.off) :
    rget (thLog s code detail data z) o = rget s o := by
  unfold thLog
  split
  · exact rget_logPut_ne hl hn
  · split <;> rfl

/-- A Privilege Return writes the count, the sequence number of the log and the log's note, and no other register. -/
theorem rget_thPrivReturn_ne (hc : o ≠ Adr.thPrcount) (hl : o ≠ Adr.thLogSeq) (hn : o ≠ Fd.thNoteLog.off) :
    rget (thPrivReturn s e) o = rget s o := by
  have hcount : rget (fcount s Fd.thPrcountCount 1) o = rget s o := rget_fcount_ne hc
  unfold thPrivReturn
  dsimp only
  split
  · split
    · exact hcount
    · exact (rget_thLog_ne hl hn).trans hcount
  · exact (rget_thLog_ne hl hn).trans hcount

theorem granted_congr (h : rget t (Adr.thGrant (e / 16)) = rget s (Adr.thGrant (e / 16))) :
    granted t e = granted s e := by
  rw [granted, fget_congr (f := Fd.thGrantG (e / 16)) h, granted]

theorem granted_privReturn {b i : Nat} : granted (raise (thPrivReturn s e) b i) e = granted s e := by
  refine granted_congr ((rget_of_regs raise_regs _).trans (rget_thPrivReturn_ne ?_ ?_ ?_)) <;>
    simp only [Adr.thGrant, Adr.thPrcount, Adr.thLogSeq, Fd.thNoteLog, Adr.thNote] <;> omega

end

/-! ### RETE below the ceiling (R146, R152, R164) -/

section
variable {s : State} {e : Nat} {u : Eng}

/-- A mask of saved status that keeps the two bits of the level. -/
theorem savedLevel_masked {w m : Word} (hm : m.toNat % 2 ^ 2 = 2 ^ 2 - 1) :
    bits (w &&& m).toNat 1 0 = bits w.toNat 1 0 := by
  simp only [bits, BitVec.toNat_and, Nat.pow_zero, Nat.div_one]
  rw [Nat.and_mod_two_pow, hm, Nat.and_two_pow_sub_one_eq_mod, Nat.mod_mod]

/-- The return names a level that the ceiling forbids, or the reserved one. -/
def returnRefused (u : Eng) : Prop :=
  bits (if u.bw then u.bwst else u.estat).toNat 1 0 < u.ceil.toNat ∨
    bits (if u.bw then u.bwst else u.estat).toNat 1 0 = 3

/-- Inside the breakwater handler the engine locks. -/
theorem engRete_refused_bw (hr : returnRefused u) (hb : u.bw = true) :
    engRete s e u = engLock (raise (thPrivReturn s e) (bayEng e) 7) e 10 u.pc := by
  have hlvl : bits (u.bwst &&& bwstMask).toNat 1 0 = bits u.bwst.toNat 1 0 := savedLevel_masked (by decide)
  simp only [returnRefused, hb, ↓reduceIte] at hr
  simp only [engRete, hb, hlvl, hr, ↓reduceIte]

/-- Outside it, the grant decides between the exception and its escalation. -/
theorem engRete_refused (hr : returnRefused u) (hb : u.bw = false) :
    engRete s e u =
      if granted s e then
        engEnter (setEng (raise (thPrivReturn s e) (bayEng e) 7) e { u with einst0 := u.epc }) e
          { cls := 10, num := 0, addr := some (u.estat &&& estatMask), epc := u.pc, flags := 0, words := none }
      else
        engEscalate (raise (thPrivReturn s e) (bayEng e) 7) e
          { cls := 10, num := 0, addr := some (u.estat &&& estatMask), epc := u.pc, flags := 0, words := none }
          false := by
  have hlvl : bits (u.estat &&& estatMask).toNat 1 0 = bits u.estat.toNat 1 0 := savedLevel_masked (by decide)
  simp only [returnRefused, hb, Bool.false_eq_true, ↓reduceIte] at hr
  simp only [engRete, hb, hlvl, hr, granted_privReturn, Bool.false_eq_true, ↓reduceIte]
  cases granted s e <;> rfl

end

end Sys2Proof.Machine
end

section

open Sys2Proof Sys2Proof.Machine

namespace Sys2Proof

/-- Settles O11: TRAP and what a level forbids follow from the order of the faults at issue; a RETE that the ceiling
refuses is decided by bw and by the grant, which logging the Privilege Return does not change. -/
theorem trapsAndPrivilege : Obligations.TrapsAndPrivilege := by
  unfold Obligations.TrapsAndPrivilege
  refine ⟨fun s e n h hb hl => exec_trap h hb hl, fun s e l h hb hl =>
    ⟨exec_drop_raising h hb hl, exec_rete_task h hb hl, fun hv hr hw hg => ?_, fun hv hr hw hg => ?_, fun hv hr hw => ?_⟩⟩
  · rw [exec_rete h hb hl hv, engRete_refused hr hw, if_pos hg]
  · rw [exec_rete h hb hl hv, engRete_refused hr hw, if_neg (Bool.eq_false_iff.mp hg)]
  · rw [exec_rete h hb hl hv, engRete_refused_bw hr hw]

end Sys2Proof
end
